-- ==== Sys2Proof/Word.lean ====
section
/-! DEFINITION. The words of the module and their plainest arithmetic: bytes, 64-bit words, bit fields (R16),
little-endian packing (R17) and the sparse lists that every large store of the state uses. -/

namespace Sys2Proof

abbrev Byte := BitVec 8
abbrev Word := BitVec 64
/-- A string of bytes, byte 0 first. -/
abbrev Bytes := List Byte

/-- Bits [lo + n − 1 : lo] of a word as a number (R16). -/
def field (w : Word) (lo n : Nat) : Nat := (w.toNat >>> lo) % 2 ^ n

/-- Bit i of a word (R16). -/
def bit (w : Word) (i : Nat) : Bool := w.toNat.testBit i

/-- The signed value of the low n bits of a number. -/
def signedOf (n v : Nat) : Int :=
  let m := v % 2 ^ n
  if m < 2 ^ (n - 1) then (m : Int) else (m : Int) - (2 ^ n : Nat)

/-- A number placed at bit lo of a word, n bits wide. -/
def place (lo n v : Nat) : Word := BitVec.ofNat 64 ((v % 2 ^ n) <<< lo)

/-- One bit of a word from a truth value. -/
def placeBit (lo : Nat) (b : Bool) : Word := if b then BitVec.ofNat 64 (1 <<< lo) else 0

/-- Replace bits [lo + n − 1 : lo] of a word. -/
def setField (w : Word) (lo n v : Nat) : Word :=
  (w &&& ~~~(place lo n (2 ^ n - 1))) ||| place lo n v

/-- Little-endian value of a string of bytes (R17). -/
def leNat : Bytes → Nat
  | [] => 0
  | b :: bs => b.toNat + 256 * leNat bs

/-- The n low bytes of a number, least significant first (R17). -/
def leBytes : Nat → Nat → Bytes
  | 0, _ => []
  | n + 1, v => BitVec.ofNat 8 v :: leBytes n (v / 256)

def leWord (bs : Bytes) : Word := BitVec.ofNat 64 (leNat (bs.take 8))

def wordBytes (w : Word) : Bytes := leBytes 8 w.toNat

/-- The bytes of a list of words, in order. -/
def wordsBytes (ws : List Word) : Bytes := ws.flatMap wordBytes

/-- Read a string of bytes as 64-bit words; a last part of a word is filled with zeros. `n` bounds the words. -/
def bytesWords : Nat → Bytes → List Word
  | 0, _ => []
  | _, [] => []
  | n + 1, bs => leWord bs :: bytesWords n (bs.drop 8)

/-- The 8-byte word at a byte offset of a string. -/
def wordAt (bs : Bytes) (off : Nat) : Word := leWord (bs.drop off)

def ceilDiv (a b : Nat) : Nat := (a + b - 1) / b

/-- A value carried with its complement is consistent (R18). -/
def complOk (v inv : Word) : Bool := inv == ~~~v

/-! Sparse stores: a list of (key, value) pairs, keys strictly rising, no value equal to the one an unlisted key
reads as. -/

/-- What key k of a sparse store reads as; d is what an unlisted key reads as. -/
def sget {α : Type} (d : α) : List (Nat × α) → Nat → α
  | [], _ => d
  | (j, v) :: m, k => if j = k then v else if k < j then d else sget d m k

/-- Drop key k of a sparse store. -/
def sdel {α : Type} : List (Nat × α) → Nat → List (Nat × α)
  | [], _ => []
  | (j, v) :: m, k => if j = k then m else if k < j then (j, v) :: m else (j, v) :: sdel m k

/-- Put a value under key k, in key order. -/
def sput {α : Type} : List (Nat × α) → Nat → α → List (Nat × α)
  | [], k, x => [(k, x)]
  | (j, v) :: m, k, x =>
    if j = k then (k, x) :: m else if k < j then (k, x) :: (j, v) :: m else (j, v) :: sput m k x

/-- Write key k of a sparse store, keeping its canonical form. -/
def sset {α : Type} [DecidableEq α] (d : α) (m : List (Nat × α)) (k : Nat) (x : α) : List (Nat × α) :=
  if x = d then sdel m k else sput m k x

/-- Keys strictly rise from a bound on, and no value is the unlisted one. -/
def swfFrom {α : Type} [DecidableEq α] (d : α) : Nat → List (Nat × α) → Bool
  | _, [] => true
  | b, (j, v) :: m => decide (b ≤ j) && (decide (v ≠ d) && swfFrom d (j + 1) m)

/-- The canonical form of a sparse store. -/
def swf {α : Type} [DecidableEq α] (d : α) (m : List (Nat × α)) : Bool := swfFrom d 0 m

end Sys2Proof
end

