-- ==== Sys2Proof/Syntax.lean ====
section
/-! DEFINITION. The commands the module takes: one constructor of `Instr` for each row of spec/opcode_table.json,
with the operands a command carries. -/

namespace Sys2Proof

/-- Where an OMCP packet came from, or goes to (R452 to R454): VLAN tag, form, MAC, IP (an IPv4 address in the low
32 bits) and UDP port; and what of the module it was sent to, which a reply to it comes from: IP address (zero in a raw frame),
and UDP port or EtherType. -/
inductive NetForm where
  | raw | udp4 | udp6
  deriving DecidableEq, Repr

structure NetAddr where
  tag : Option (BitVec 12)
  form : NetForm
  mac : BitVec 48
  ip : BitVec 128
  udp : BitVec 16
  own : BitVec 128
  service : BitVec 16
  deriving DecidableEq, Repr

/-- What makes a received frame one the port discards, beside its tags (R452), or a UDP datagram one whose checksum fails (R454). -/
inductive FrameOddity where
  | plain | ipv4Fragment | ipv4Options | ipv6Extension | unknownProtocol | badChecksum
  deriving DecidableEq, Repr

/-- What every OMCP request carries beside its arguments (Table 12-2): the port it arrived on, its source, VER,
SESSION, SEQ and the REPLY_REQ and FORCE flags. -/
structure Req where
  port : Fin 2
  src : NetAddr
  ver : BitVec 4
  session : BitVec 16
  seq : BitVec 32
  replyReq : Bool
  force : Bool
  deriving DecidableEq, Repr

/-- An AFL frame (Table 11-7): eight header words and the payload bytes. -/
structure Frame where
  w0 : Word
  w1 : Word
  w2 : Word
  w3 : Word
  w4 : Word
  w5 : Word
  w6 : Word
  w7 : Word
  payload : Bytes
  deriving DecidableEq, Repr

/-- What a lane failure brings: the lane, and the frames that its port is receiving (R410, R411). -/
structure LostLane where
  lane : Fin 8
  rx : List Frame
  deriving DecidableEq, Repr

/-- A port that may go DOWN, and the frames that it is receiving (R411). -/
structure LostSignal where
  port : Fin 12
  rx : List Frame
  deriving DecidableEq, Repr

/-- An MCOPY frame, and whether its copy's command names the destination's mirror ranges (R393, R438). -/
structure CopyFrame where
  frame : Frame
  mirror : Bool
  deriving DecidableEq, Repr

/-- What boot samples: the level of MEDIA_SEL (R563), and the stacks' temperatures (R505). -/
structure BootSamples where
  mediaSel : Bool
  temps : List (Option (BitVec 8))
  deriving DecidableEq, Repr

/-- The units that run vector instructions: a saddle's vector unit (R214), a burnisher or a girth (R333). A vector command
carries bits [55:0] of its instruction word (Table 6-4) and whether its opcode is the vector–scalar form (R225). -/
inductive VecUnit where
  | saddle (s : Fin 300)
  | burnisher (n : Fin 32)
  | girth (p : Fin 12)
  deriving DecidableEq, Repr

/-- The commands of the block: one constructor for each row of spec/opcode_table.json. -/
inductive Instr where
  /-- The 54 V input has been within 48–58 V for 10 ms with MATED seated and MOD_EN high, at least 2 s after the
      last removal, so the input stage powers domains 76 and 79 and boot begins. (R568) -/
  | inputQualified
  /-- MOD_EN goes low, VIN leaves its limits for the stated time, or MATED separates, so the input stage removes
      power from all 80 domains at once. (R569) -/
  | inputPowerRemoval
  /-- The root of trust finishes verifying the selected firmware slot, falls back to the other slot if needed,
      and starts the first valid slot or enters FW_RECOVERY. (R532) -/
  | fwVerifyDone
  /-- Die bring-up, bridge training and HBM training end, the link and Ethernet domains are ramped, and the
      module enters WAIT_HOST. (R505) -/
  | bootHwTrainingDone (stackFail : BitVec 32) (dieFail : BitVec 7) (bridgeFail : BitVec 18) (samples : BootSamples)
  /-- Auto-negotiation completes on a host port, which links at the highest common speed and runs duplicate
      address detection. (R451) -/
  | ethLinkUp (a : Fin 2) (fast : Bool)
  /-- A host port loses its link and returns to auto-negotiation, keeping its session, buckle lease and egress
      streams. (R451) -/
  | ethLinkDown (a : Fin 2)
  /-- A received frame with a wrong VLAN tag, fragmentation, options or an unknown protocol is discarded and
      counted in RX_OTHER. (R452) -/
  | ethFrameDiscard (a : Fin 2) (tags : List (BitVec 12)) (odd : FrameOddity)
  /-- The port answers an ARP request for its IPv4 address. (R453) -/
  | arpRequest (a : Fin 2) (target : BitVec 32) (peer : NetAddr)
  /-- The port answers a Neighbor Solicitation for one of its IPv6 addresses. (R453) -/
  | neighborSolicitation (a : Fin 2) (target : BitVec 128) (peer : NetAddr)
  /-- The port answers an ICMP or ICMPv6 echo request, up to 100 per second. (R453) -/
  | echoRequest (a : Fin 2) (target : BitVec 128) (data : Bytes) (peer : NetAddr)
  /-- A received OMCP packet fails a receive check of Table 12-3 and is discarded, answered with an error status,
      or answered with its kept reply. (R457) -/
  | omcpPacketReject (a : Fin 2) (pkt : Bytes) (peer : NetAddr)
  /-- A host negotiates the OMCP version and opens a new session on the port, replacing an idle one or a forced
      one. (R458) -/
  | hello (q : Req) (verMin : BitVec 4) (verMax : BitVec 4) (nonce : BitVec 32)
  /-- The session closes, its commands run on without DONE notifications and its egress sub-streams stall. (R459) -/
  | bye (q : Req)
  /-- Returns the state of one of the last 256 command tickets. (R461) -/
  | cmdStatus (q : Req) (ticket : BitVec 32)
  /-- Replaces the session's event class mask for EVENT notifications. (R559) -/
  | notifySub (q : Req) (mask : BitVec 16)
  /-- The session takes the free buckle with a lease, renews its own lease, or receives BUCKLE_HELD. (R464) -/
  | bklAcquire (q : Req) (lease : BitVec 32)
  /-- The holding session extends its buckle lease. (R464) -/
  | bklRenew (q : Req) (lease : BitVec 32)
  /-- The holding session frees the buckle, or marks it to free when its pins clear. (R464) -/
  | bklRelease (q : Req)
  /-- Returns the buckle holder, pin state and remaining lease. (R464) -/
  | bklQuery (q : Req)
  /-- The buckle lease reaches expiry while the buckle is not pinned, so the buckle is freed and the expiry is
      logged. (R464) -/
  | bklExpired
  /-- A session has sent no request for SESSION_IDLE seconds and closes. (R459) -/
  | sessionIdleExpiry (a : Fin 2)
  /-- Returns 1 to 128 consecutive registers, each read at one instant, with _INV pairs read together. (R545) -/
  | regRead (q : Req) (addr : BitVec 32) (count : BitVec 8)
  /-- Writes one register field by field under the access types and the RWL lock, for registers that have no row
      of their own. (R546) -/
  | regWrite (q : Req) (addr : BitVec 32) (value : Word)
  /-- A write of RETRAIN starts full training from DOWN or HELD, or a fast retrain from UP. (R411) -/
  | aflPortRetrain (q : Req) (p : Fin 12) (value : Word)
  /-- Reads HBM lines through the saddlebag under class EGRESS and returns the bytes. (R469) -/
  | memRead (q : Req) (addr : BitVec 40) (len : BitVec 14)
  /-- Writes whole HBM lines under class INGRESS, clearing POISON, or writes nothing when refused. (R469) -/
  | memWrite (q : Req) (addr : BitVec 40) (data : Bytes)
  /-- Returns the held event log entries within the requested number range. (R558) -/
  | eventRead (q : Req) (first : BitVec 32) (count : BitVec 8)
  /-- One fragment of a training record is checked against the retention window and stored in the breeching slot,
      or refused. (R468) -/
  | dataPut (q : Req) (step : Word) (stepInv : Word) (pos : Word) (posInv : Word) (frag : BitVec 11) (data : Bytes)
  /-- Up to 32 whole records are checked and stored entry by entry, with one status returned per entry. (R468) -/
  | dataPutMulti (q : Req) (step : Word) (stepInv : Word) (entries : Bytes)
  /-- The session becomes an egress destination with an initial LIMIT. (R470) -/
  | egressOpen (q : Req) (limit : BitVec 25)
  /-- Updates ACKED and LIMIT of an egress sub-stream, and optionally requests a resend from ACKED. (R470) -/
  | egressCredit (q : Req) (stream : BitVec 32) (sub : Fin 2) (acked : Word) (limit : Word) (resend : Bool)
  /-- The session stops being an egress destination. (R470) -/
  | egressClose (q : Req)
  /-- With credit available, the module sends the next EGRESS packet of a sub-stream, setting LAST on its final
      packet. (R471) -/
  | egressSend (stream : BitVec 32) (sub : Fin 2)
  /-- No sub-stream of a stream advances ACKED for EGRESS_TIMEOUT, so the stream fails and its producer is told.
      (R471) -/
  | egressFailed (stream : BitVec 32)
  /-- Writes configuration image bytes into the staging area, starting a new image at offset 0. (R511) -/
  | cfgLoad (q : Req) (offset : BitVec 32) (data : Bytes)
  /-- Enters COMMITTING and checks the staged image in the order of Table 14-8. (R513) -/
  | cfgCommit (q : Req)
  /-- Commit application finishes fields, HBM initialisation, kernels, routing and preloads, locks RWL fields,
      powers domains, runs stirrups and enters RUNNING. (R514) -/
  | commitComplete (failed : Option (BitVec 32))
  /-- Writes firmware bytes into the inactive slot, clearing its record when the offset is 0. (R535) -/
  | fwUpdateWrite (q : Req) (offset : BitVec 32) (data : Bytes)
  /-- Checks the inactive slot under R531 and, if it is valid, writes the slot-select record to name it. (R535) -/
  | fwUpdateCommit (q : Req)
  /-- Clears the inactive slot's record of bytes received and its VERIFIED mark. (R535) -/
  | fwUpdateAbort (q : Req)
  /-- The root of trust builds and signs an attestation report and sends it with the device certificate as an
      egress stream. (R539) -/
  | attest (q : Req) (nonce : BitVec 384)
  /-- The FUNCTION rung stops issue, drains or abandons work, resets counters, saddles and solvers, and leaves
      the stirrups HALTED. (R518) -/
  | moduleResetFunction (q : Req)
  /-- The 100 ms wait for in-flight descriptors in the FUNCTION rung expires, and the remaining descriptors are
      abandoned. (R518) -/
  | functionRungDrainTimeout
  /-- The MODULE rung is accepted and sends DONE, then starts 10 ms later. (R519) -/
  | moduleResetModule (q : Req)
  /-- The POWER rung is accepted and sends DONE, then starts 10 ms later. (R519) -/
  | moduleResetPower (q : Req)
  /-- The 10 ms delay ends, so the MODULE rung resets registers and reboots from order 3, or the POWER rung
      removes power for 2 s. (R519) -/
  | rungStart
  /-- A halt request is sent to every stirrup. (R581) -/
  | dspHalt (q : Req)
  /-- A halt request reaches a stirrup, which enters STOPPED or HALTED at its next descriptor boundary and
      cancels run-ahead. (R581) -/
  | haltRequestArrival (t : Fin 304)
  /-- Returns STOPPED stirrups to RUN and clears their stop points, and refuses a HALTED one. (R212) -/
  | dspResume (q : Req) (stirrup : BitVec 9)
  /-- Sets or clears a stop point of a stirrup at a step and slot. (R206) -/
  | dspStopAt (q : Req) (stirrup : BitVec 9) (step : Word) (slot : BitVec 24) (en : Bool)
  /-- In quiescence, sends the requested state classes as a snapshot egress stream. (R209) -/
  | dspSnapshot (q : Req) (classes : Word) (ranges : List Word)
  /-- Requests a kernel store bank load as a maintenance activity, which is accepted, queued or refused. (R194) -/
  | kstLoad (q : Req) (d : Fin 4) (b : Fin 2) (gen : BitVec 16) (addr : BitVec 40) (len : BitVec 20)
  /-- The kernel image digest check ends, so the bank becomes SEALED with its generation or EMPTY, and the stamp
      is recomputed. (R194) -/
  | kstLoadDone (d : Fin 4) (b : Fin 2)
  /-- Loads a routing image, which replaces every table at once and rechecks each port's neighbour, or is
      refused. (R422) -/
  | aflRouteLoad (q : Req) (addr : BitVec 40) (len : BitVec 23)
  /-- Live replay of step q resets steps, heads and counters and restarts every stirrup. (R389) -/
  | brcReplayLive (q : Req) (step : Word) (stepInv : Word)
  /-- Dry replay of step q runs the step without tensor writes and stops at step q + 1. (R390) -/
  | brcReplayDry (q : Req) (step : Word) (stepInv : Word)
  /-- Checks a checkpoint header and trailer, derives the restored step and stream counters, and arms
      verification. (R398) -/
  | brcRestore (q : Req) (data : Bytes)
  /-- A quiescent spare takes on a role by writing the four role fields, and the stamp is recomputed. (R392) -/
  | brcTakeover (q : Req) (w : List Word)
  /-- The source member starts sending a binding class's write ranges over the fabric to a destination member.
      (R393) -/
  | mirrorCopy (q : Req) (dest : BitVec 12) (srcMirror : Bool) (dstMirror : Bool)
  /-- The destination accepts an MCOPY frame, taking the MIRROR lock on the first frame, and writes its payload.
      (R438) -/
  | mcopyFrameReceived (p : Fin 12) (f : CopyFrame)
  /-- Both ends finish the copy and its digests, and the command completes with both digests. (R393) -/
  | mirrorCopyDone (peer : Word)
  /-- A mirror copy receives no frame or credit advance for TIMEOUT and ends. (R438) -/
  | copyTimeout (atSource : Bool)
  /-- Requests a soft or hard post-package repair of a candidate row, which is accepted, queued or refused.
      (R273) -/
  | mntPpr (q : Req) (n : Fin 32) (entry : Fin 16) (hard : Bool)
  /-- The row repair finishes, lines are written back, the candidate is cleared and the stack lock is released.
      (R273) -/
  | pprDone (n : Fin 32)
  /-- Removes a queued maintenance activity, or is refused if the activity has started. (R524) -/
  | mntCancel (q : Req) (ticket : BitVec 32)
  /-- A queued maintenance activity stops conflicting with running and earlier activities, takes its locks and
      starts. (R522) -/
  | mntActivityStart (ticket : BitVec 32)
  /-- Sets the board power cap from 1,000 to 3,600 W, effective at the next rein period. (R490) -/
  | pwrCapSet (q : Req) (cap : BitVec 12)
  /-- Requests a switchable power domain ON, which is queued per domain or starts its ramp-up. (R480) -/
  | pwrDomainOn (q : Req) (k : Fin 80)
  /-- Requests a switchable power domain OFF after its quiescence checks. (R482) -/
  | pwrDomainOff (q : Req) (k : Fin 80)
  /-- A domain ramp ends, so the domain reaches ON or OFF, the request sends DONE, and the next waiting request
      takes its turn. (R480) -/
  | domainRampDone (k : Fin 80)
  /-- A fetch of 8 descriptors from the ring returns its data or a memory error to the stirrup. (R159) -/
  | ringFetchDone (t : Fin 304)
  /-- The head descriptor passes the issue checks of Table 5-10 and issues, or faults, advancing the head and the
      step at ring wrap. (R181) -/
  | descriptorIssue (t : Fin 304)
  /-- An issued descriptor ends, writes its completion record, then signals its counter and optionally logs
      DESC_DONE. (R183) -/
  | descriptorComplete (t : Fin 304) (slot : BitVec 24)
  /-- A signal reaches a completion counter, which adds 1, and the waits on it are evaluated again. (R178) -/
  | counterSignal (c : Fin 4096)
  /-- A stirrup's old-generation kernel work drains, and the stirrup switches its current kernel store bank.
      (R195) -/
  | bankSwitch (t : Fin 304)
  /-- No stirrup can issue and no work is in flight apart from fabric-waiting routines, so QUIESCENT is set and
      logged. (R207) -/
  | quiescent
  /-- The stirrup prefetches an eligible later COPY's HBM data into speculative bench lines. (R188) -/
  | runAheadPrefetch (t : Fin 304)
  /-- Completes at issue and signals its counter. (R173) -/
  | nop (t : Fin 304)
  /-- Waits until the breeching reports the step's inputs complete, then completes. (R173) -/
  | stepBegin (t : Fin 304)
  /-- A matrix descriptor streams its passes through the saddle into accumulator tiles and optionally drains
      them. (R78) -/
  | matmul (s : Fin 300)
  /-- A group's shadow rows are loaded after its last old product, so the group switches to the new chunk. (R98) -/
  | weltSwitch (s : Fin 300) (j : Fin 32)
  /-- After a tile's last chain addition, the tile is drained with conversion, scaling, fused row operations and
      amax capture. (R109) -/
  | tileDrain (s : Fin 300)
  /-- The shadow checker finishes recomputing a selected narrow group sum and compares it with the narrow value.
      (R151) -/
  | shadowCheckVerdict (s : Fin 300)
  /-- Copies bench words into scale register file entries. (R172) -/
  | scaleLoad (s : Fin 300)
  /-- Runs a vector kernel's prologue, body trips and epilogue on the saddle. (R221) -/
  | vecKernel (s : Fin 300)
  /-- Loads a vector from the bench or an accumulator tile, with format conversion. (R230) -/
  | vld (u : VecUnit) (vs : Bool) (f : BitVec 56)
  /-- Stores a vector with conversion and optional stochastic rounding. (R231) -/
  | vst (u : VecUnit) (vs : Bool) (f : BitVec 56)
  /-- Loads one element into a scalar register. (R230) -/
  | sld (u : VecUnit) (vs : Bool) (f : BitVec 56)
  /-- Writes the lane index into each lane. (R225) -/
  | vlane (u : VecUnit) (vs : Bool) (f : BitVec 56)
  /-- Broadcasts a scalar to every lane. (R225) -/
  | vbc (u : VecUnit) (vs : Bool) (f : BitVec 56)
  /-- Extracts one lane's element into a scalar. (R225) -/
  | vext (u : VecUnit) (vs : Bool) (f : BitVec 56)
  /-- Adds two scalar registers. (R225) -/
  | sadd (u : VecUnit) (vs : Bool) (f : BitVec 56)
  /-- Multiplies two scalar registers. (R225) -/
  | smul (u : VecUnit) (vs : Bool) (f : BitVec 56)
  /-- Adds an immediate to an address register. (R225) -/
  | aadd (u : VecUnit) (vs : Bool) (f : BitVec 56)
  /-- Reads the trip index into a scalar register. (R225) -/
  | strip (u : VecUnit) (vs : Bool) (f : BitVec 56)
  /-- Lane-wise add, in vector or vector–scalar form. (R226) -/
  | vadd (u : VecUnit) (vs : Bool) (f : BitVec 56)
  /-- Lane-wise subtract. (R226) -/
  | vsub (u : VecUnit) (vs : Bool) (f : BitVec 56)
  /-- Lane-wise multiply. (R226) -/
  | vmul (u : VecUnit) (vs : Bool) (f : BitVec 56)
  /-- Lane-wise fused multiply-add with one rounding. (R226) -/
  | vfma (u : VecUnit) (vs : Bool) (f : BitVec 56)
  /-- Lane-wise correctly rounded division. (R227) -/
  | vdiv (u : VecUnit) (vs : Bool) (f : BitVec 56)
  /-- Lane-wise correctly rounded square root. (R227) -/
  | vsqrt (u : VecUnit) (vs : Bool) (f : BitVec 56)
  /-- Lane-wise reciprocal square root. (R227) -/
  | vrsqrt (u : VecUnit) (vs : Bool) (f : BitVec 56)
  /-- Lane-wise 2 to the power of va. (R227) -/
  | vexp2 (u : VecUnit) (vs : Bool) (f : BitVec 56)
  /-- Lane-wise base-2 logarithm. (R227) -/
  | vlog2 (u : VecUnit) (vs : Bool) (f : BitVec 56)
  /-- Lane-wise minimum. (R228) -/
  | vmin (u : VecUnit) (vs : Bool) (f : BitVec 56)
  /-- Lane-wise maximum. (R228) -/
  | vmax (u : VecUnit) (vs : Bool) (f : BitVec 56)
  /-- Lane-wise absolute value. (R225) -/
  | vabs (u : VecUnit) (vs : Bool) (f : BitVec 56)
  /-- Lane-wise negation. (R225) -/
  | vneg (u : VecUnit) (vs : Bool) (f : BitVec 56)
  /-- Lane-wise type conversion with rounding and saturation. (R228) -/
  | vcvt (u : VecUnit) (vs : Bool) (f : BitVec 56)
  /-- Lane-wise rounding to an integral value. (R225) -/
  | vrint (u : VecUnit) (vs : Bool) (f : BitVec 56)
  /-- Lane-wise bitwise AND. (R225) -/
  | vand (u : VecUnit) (vs : Bool) (f : BitVec 56)
  /-- Lane-wise bitwise OR. (R225) -/
  | vor (u : VecUnit) (vs : Bool) (f : BitVec 56)
  /-- Lane-wise bitwise XOR. (R225) -/
  | vxor (u : VecUnit) (vs : Bool) (f : BitVec 56)
  /-- Lane-wise logical shift left. (R225) -/
  | vshl (u : VecUnit) (vs : Bool) (f : BitVec 56)
  /-- Lane-wise logical shift right. (R225) -/
  | vshr (u : VecUnit) (vs : Bool) (f : BitVec 56)
  /-- Lane-wise arithmetic shift right. (R225) -/
  | vsra (u : VecUnit) (vs : Bool) (f : BitVec 56)
  /-- Lane-wise saturating add. (R228) -/
  | vaddsat (u : VecUnit) (vs : Bool) (f : BitVec 56)
  /-- Lane-wise saturating subtract. (R228) -/
  | vsubsat (u : VecUnit) (vs : Bool) (f : BitVec 56)
  /-- Compares lanes into a predicate register. (R225) -/
  | vcmp (u : VecUnit) (vs : Bool) (f : BitVec 56)
  /-- Selects lane-wise between two vectors by a predicate. (R225) -/
  | vsel (u : VecUnit) (vs : Bool) (f : BitVec 56)
  /-- Predicate AND. (R225) -/
  | pand (u : VecUnit) (vs : Bool) (f : BitVec 56)
  /-- Predicate OR. (R225) -/
  | por (u : VecUnit) (vs : Bool) (f : BitVec 56)
  /-- Predicate NOT. (R225) -/
  | pnot (u : VecUnit) (vs : Bool) (f : BitVec 56)
  /-- Group sum over lanes by a fixed tree. (R233) -/
  | vrsum (u : VecUnit) (vs : Bool) (f : BitVec 56)
  /-- Group maximum over lanes. (R233) -/
  | vrmax (u : VecUnit) (vs : Bool) (f : BitVec 56)
  /-- Group minimum over lanes. (R233) -/
  | vrmin (u : VecUnit) (vs : Bool) (f : BitVec 56)
  /-- Group sum of absolute differences plus vc. (R234) -/
  | vsad (u : VecUnit) (vs : Bool) (f : BitVec 56)
  /-- Writes keyed counter-stream draws to the active lanes. (R235) -/
  | vrng (u : VecUnit) (vs : Bool) (f : BitVec 56)
  /-- Repeats the following L instructions C times. (R222) -/
  | rep (u : VecUnit) (vs : Bool) (f : BitVec 56)
  /-- Every pending resolvable exception of an instruction resolves, and the instruction executes again from
      element 0. (R238) -/
  | vecRestart (u : VecUnit)
  /-- A DMA copy with optional conversion or pre-skew moves rows or lines in order. (R287) -/
  | copy (t : Fin 304)
  /-- Gathers table elements by an index vector in groups of 16. (R244) -/
  | gather (t : Fin 304)
  /-- A group's resolvable exceptions resolve, and the whole group restarts from its index read. (R245) -/
  | gatherGroupRestart (t : Fin 304)
  /-- The latigo assembles a LINEAR or BA batch area, or writes adjoint gradients. (R300) -/
  | latigoAssemble (d : Fin 4)
  /-- The cinch solves the batch's systems by QR, CHOL or LM and writes solutions, status records and factors.
      (R307) -/
  | cinchSolve (d : Fin 4)
  /-- The cinch solves the adjoint systems and writes the adjoint output area. (R323) -/
  | cinchAdjoint (d : Fin 4)
  /-- A burnisher-mode update hands each binding of the list to its stack's burnisher. (R343) -/
  | update (d : Fin 4)
  /-- A trip's stage fill completes, so the update unit executes the trip and writes its stores back. (R336) -/
  | updTripStart (n : Fin 32)
  /-- The landing buffer holds a trip's gradient and step s − 1 has passed, so the girth starts the trip. (R347) -/
  | girthTripStart (p : Fin 12)
  /-- Calls a tack routine after routine and version checks, and writes the return record at its end. (R200) -/
  | tackCall (d : Fin 4)
  /-- Opens a reduce-scatter collective from its schedule. (R428) -/
  | reduceScatter (d : Fin 4)
  /-- Opens an all-gather collective. (R428) -/
  | allGather (d : Fin 4)
  /-- Opens an all-reduce collective. (R428) -/
  | allReduce (d : Fin 4)
  /-- Opens a broadcast collective. (R428) -/
  | broadcast (d : Fin 4)
  /-- Combines up to four HBM ranges on one member without the fabric. (R437) -/
  | localReduce (d : Fin 4)
  /-- Evaluates the local step conditions, latches requests and runs the verdict collective. (R373) -/
  | stepCheck (d : Fin 4)
  /-- When triggered, compares owner and mirror shard digests with the partners. (R385) -/
  | mirrorDigest (d : Fin 4)
  /-- When triggered, streams a checkpoint of the owner bindings to the host. (R395) -/
  | checkpointOut (d : Fin 4)
  /-- A TACK_CALL that names the host-only replay routine faults with ROUTINE_HOST_ONLY. (R200) -/
  | replayStep (d : Fin 4)
  /-- Runs a list of assemble and solve image pairs from one ring slot. (R328) -/
  | cinchDrive (d : Fin 4)
  /-- The tack routine loads a kernel store bank from HBM. (R194) -/
  | tackKstLoad (d : Fin 4)
  /-- The combined verdict record arrives, so the step passes or fails, its record is written, and it is released
      or the module halts. (R376) -/
  | verdict (d : Fin 4)
  /-- Every PERIOD ms the health monitor updates its inputs and computes the risk. (R402) -/
  | healthEvaluation
  /-- A lane loses lock or exceeds SER_LIMIT in 1 ms, so it is spared, retrained, or the port goes DOWN. (R410) -/
  | laneFailure (p : Fin 12) (lane : LostLane)
  /-- A port loses its signal and enters DOWN, discarding frames. (R411) -/
  | lossOfSignal (p : LostSignal)
  /-- Training completes, so the port goes to IDENT, or back to UP after a fast retrain. (R411) -/
  | portTrained (p : Fin 12)
  /-- A port that is not trained within 100 ms enters DOWN. (R411) -/
  | trainingTimeout (p : LostSignal)
  /-- The RETRY interval of a DOWN port elapses, so training starts again. (R411) -/
  | portRetryExpiry (p : Fin 12)
  /-- Every 1 ms a port in IDENT or HELD sends an IDENT frame. (R411) -/
  | identSend (p : Fin 12)
  /-- A received IDENT is checked against the neighbour table and the version is negotiated, so the port goes UP
      or HELD. (R412) -/
  | identReceived (p : Fin 12) (f : Frame)
  /-- A neighbour's STAMP_UPDATE frame updates the recorded neighbour stamp. (R414) -/
  | stampUpdateReceived (p : Fin 12) (f : Frame)
  /-- A good or bad block arrives, whose control word drives ACK, NAK resend, credits and the reined bit. (R416) -/
  | linkBlockReceived (p : Fin 12) (good : Bool) (ctl : BitVec 80)
  /-- At the first block whose BSEQ is a multiple of 64 after GRANT, the logical lane moves onto the spare.
      (R418) -/
  | hitlessSpareSwitch (p : LostSignal)
  /-- Holding credit for a whole frame on a VC, the port starts sending it. (R417) -/
  | frameTransmit (p : Fin 12) (vc : Fin 4)
  /-- A transit frame is looked up and forwarded cut-through, or dropped. (R423) -/
  | frameForward (p : Fin 12) (arrival : Option Frame)
  /-- A DATA frame at its destination passes the acceptance checks and is stored, combined or handed to a girth.
      (R420) -/
  | dataFrameReceived (p : Fin 12) (f : Frame)
  /-- An OPEN frame from a child is combined into the stamp agreement. (R431) -/
  | openFrameReceived (p : Fin 12) (f : Frame)
  /-- OPEN_RESULT gives AGREE, so the collective proceeds or ends with STAMP_MISMATCH. (R431) -/
  | openResultReceived (p : Fin 12) (f : Frame)
  /-- All earlier overlapping stages have completed, so a collective stage starts. (R430) -/
  | collStageStart (coll : BitVec 8) (stage : BitVec 16)
  /-- A collective's timer reaches TIMEOUT, so the collective ends and the module halts. (R443) -/
  | collTimeout (coll : BitVec 8)
  /-- Every 4 µs the rein forms the power estimate and adjusts VCORE and GATE against the cap. (R489) -/
  | reinPeriod (counts : List (Nat × Nat × Nat))
  /-- Each 1 µs window opens the issue gate, and it closes after GATE × 10 ns. (R488) -/
  | gateWindow (closes : Bool)
  /-- 100 µs after both rein conditions cease, the module stops being reined. (R493) -/
  | reinedExit
  /-- Every 1 ms the input voltage, current and power are measured. (R487) -/
  | inputSample (volt : BitVec 16) (amp : BitVec 16) (watt : BitVec 16)
  /-- Every 1 ms each fixed rail is sampled against its set point and minimum. (R495) -/
  | railSample (mv : List (BitVec 14))
  /-- Every 100 µs the hottest junction of each die is read. (R497) -/
  | junctionSample (temps : List (Option (BitVec 8)))
  /-- Every 1 ms while limiting, VCORE or GATE is lowered by one step. (R498) -/
  | thermalLimitAction
  /-- A trip condition holds, so compute and link domains ramp down at once and TRIPPED is entered. (R500) -/
  | thermalTrip
  /-- Every 1 ms each stack temperature is read and the refresh multiplier and throttle are set. (R275) -/
  | hbmTempRead (temps : List (Option (BitVec 8)))
  /-- Patrol scrub reads, corrects or poisons the next line of a stack. (R270) -/
  | scrubLine (n : Fin 32)
  /-- An accepted or started routing load finishes its checks and digest verification, replaces every table and
      recomputes the stamp, or is refused, then sends its DONE and releases the locks of all twelve link ports.
      (R422) -/
  | routingLoadDone
  deriving DecidableEq, Repr

end Sys2Proof
end

