-- ==== Sys2Proof/Config.lean ====
section
/-! DEFINITION. What the spec leaves open, as constants without a body: the free values (DESIGN CHOICE, log entry 2), and the
functions of the root of trust that rest on secret keys and on firmware the spec does not list. -/

namespace Sys2Proof.Config

/-- The n-th free word: a value the spec leaves open, drawn fresh each time (DESIGN CHOICE, log entry 2). -/
opaque freeWord : Nat → Word

/-- The result of an integer lane opcode of a width on the operand for which the spec states none (R228: the absolute value and
the negation of the most negative number): one value for each opcode and width, so that a replay gives it again (R38); DESIGN
CHOICE, log entry 27. -/
opaque unstatedLane : Nat → Nat → Word

/-- Bytes of argument block that an unnamed routine reads, and how deep its calls go and the STATUS it returns: functions of its code,
of its index, version, step and inline arguments, of its block, and of the member's routing image, configuration and verdicts
(R202); DESIGN CHOICE, log entry 22. -/
opaque routineBlock : Bytes → List Word → Nat
opaque routineRun : Bytes → List Word → Bytes → Bytes → List (Nat × Word) → List Word → Nat × Word

/-- Does an ECDSA P-384 signature (r, s) verify over a SHA-384 digest with a SEC1 public key (R528); DESIGN CHOICE, log entry 12. -/
opaque ecdsaVerify : Bytes → Bytes → Bytes → Bytes → Bool

/-- Does an HSS signature verify over a message with an HSS public key (R528); DESIGN CHOICE, log entry 12. -/
opaque hssVerify : Bytes → Bytes → Bytes → Bool

/-- SHA-384 of the ECDSA and of the HSS root public key fused in slot k (Table 15-1); DESIGN CHOICE, log entry 3. -/
opaque rootEcdsaHash : Nat → Bytes
opaque rootHssHash : Nat → Bytes

/-- The device's ECDSA signature (r ‖ s, 96 bytes) of a digest and HSS signature of a message under index n (R539,
R540); its two public keys; the root slot that signed its certificate, and that slot's two signatures of it (Table 15-7); DESIGN
CHOICE, log entry 12. -/
opaque deviceEcdsaSign : Bytes → Bytes
opaque deviceHssSign : Nat → Bytes → Bytes
opaque deviceEcdsaKey : Bytes
opaque deviceHssKey : Bytes
opaque certificateSlot : BitVec 2
opaque certificateEcdsa : Bytes
opaque certificateHss : Bytes

/-- SHA-384 of the root of trust's ROM and of its recovery firmware (Table 15-5); DESIGN CHOICE, log entry 12. -/
opaque romDigest : Bytes
opaque recoveryDigest : Bytes

/-- SHA-384 of the microcode of die x (C0 to C3, L0, L1: 0 to 5) that a firmware payload carries (Table 15-5); log
entry 12. -/
opaque microcodeDigest : Bytes → Nat → Bytes

/-- The set of the saddlebag slice in which a line address is placed (R255 gives no function); DESIGN CHOICE, log entry 13. -/
opaque saddlebagSet : Nat → Nat

/-- The row of a stack that holds a line, and whether its fault lies in pseudo-channel 1 (R252, R262 do not split bank,
row and column bits); DESIGN CHOICE, log entry 13. -/
opaque rowOf : Nat → Nat
opaque rowPseudo : Nat → Bool

/-- The HBM3E minimum of the stack supplies, mV (Table 13-6 gives no number); DESIGN CHOICE, log entry 15. -/
opaque hbmSupplyMin : Nat

/-- The fused coefficient of an activity counter of a domain, the leakage at a core voltage in mV and die temperatures, the fixed
loads, and the whole watts that E shows (R485); DESIGN CHOICE, log entry 20. -/
opaque coefficient : Nat → Nat → Nat
opaque leakage : Nat → List Nat → Nat
opaque fixedPower : Nat
opaque estimateWatts : Nat → BitVec 16

end Sys2Proof.Config
end

