-- ==== Sys2Proof/Machine/RegMap.lean ====
section
/-! DEFINITION. The register map of 16_register_reference.md: where each register lies (R550), its value after module
reset, and its fields that a write can change with their access types (Table 0-4, R546). -/

namespace Sys2Proof.Machine

/-- The registers, one constructor for each row of Tables 16-2 to 16-8. -/
inductive RegKind where
  | feaPart | feaDescVersion | feaSaddles | feaSaddleShape | feaBenchBytes | feaAccTiles
  | feaSrfEntries | feaSbgBytes | feaKstBankBytes | feaCtrPerDie | feaHbmStacks | feaHbmStackBytes
  | feaMaxK | feaRingMaxSlots | feaOpcodes | feaFormats | feaTackVer | feaAflVer
  | feaOmcpVer | feaDomains | feaEventEntries | cfgState | cfgBootStat | cfgLoadStat
  | cfgLoadBytes | cfgCommitLast | cfgMemberId | cfgMemberCount | cfgStartStep | cfgRole
  | cfgRoleInv | cfgPlannerBuild | secStat | secHssIndex | secHssIndexInv | secSerialLo
  | secSerialHi | secMeas | mntLockStat | mntQueueStat | omcCtrl | omcBklLease
  | omcBklStat | omcSession | omcEventStat | omcEventSub | ethCfg | ethPortCtrl
  | ethPortStat | ethMac | ethIp4 | ethIp6Hi | ethIp6Lo | ethCnt
  | pwrCap | pwrVlimit | pwrReinCtrl | pwrStat | pwrInput | pwrDomainEnLo
  | pwrDomainEnHi | pwrRail | pwrDomainStat | thmCtrl | thmStat | thmJunc
  | hltRisk | hltCtrl | hltInputCfg | hltInputStat | brcCtrl | brcStat
  | brcDupCnt | brcLogBase | brcDigestKey | brcPos0 | brcPos0Inv | brcNormBound
  | brcNormBoundInv | brcLastReleased | brcLastReleasedInv | brcOwnerList | brcMirrorList | brcSlotBase
  | updCtrl | updFront | updFrontInv | updSeedShared | updSeedSharedInv | updSeedRole
  | updSeedRoleInv | updSeedPartner | updSeedPartnerInv | updStreamCtr | updBurnStat | updGirthStat
  | updGirthPt | updGirthPtStep | aflCtrl | aflStamp | aflStampInv | aflCollCnt
  | aflSpareMap | aflStepTag | aflStepSent | aflStepRecv | aflPortCtrl | aflPortStat
  | aflNeighId | aflNeighStamp | aflNeighStampInv | aflPortErr | aflPortPtStep | aflPortPt
  | dspModStat | dspTime | dspCtrl | dspRingBase | dspRingSlots | dspCplBase
  | dspStat | dspStep | dspStepInv | dspKgen | dspStopStep | dspStopSlot
  | dspFaultLast | dspGatherStat | dspPhaseBase | dspPhaseMap | dspPhaseNow | dspCtr
  | dspCtrCfg | kstBankStat | sbgCtrl | sbgStat | hbmScrubCtrl | hbmMap
  | hbmProtBase | hbmProtLimit | hbmProtPerm | hbmRefreshMult | hbmEccCnt | hbmEccLast
  | hbmScrubStat | hbmPprAvail | hbmPprCand | cinStat | cinCntFloored | cinCntExcluded
  | cinCntAdjZero | cinCntWarmRej | cinCntMasked | cinStoreEcc | bncEccCnt | sdlCtrl
  | sdlAccFlags | sdlStat | sdlShadowStall | sdlHistCtrl | sdlHistSeq | sdlNarrowCtrl
  | sdlShadowCnt | sdlSkewLast | sdlVecStat | sdlVecRestart | sdlHistBin | sdlSrf
  deriving DecidableEq, Repr

/-- Where a register array lies: base, count and stride of the first index, count and stride of the second. -/
structure RegShape where
  base : Nat
  n1 : Nat
  s1 : Nat
  n2 : Nat
  s2 : Nat
  deriving DecidableEq, Repr

/-- Tables 16-2 to 16-8, Address column. -/
def regShape : RegKind → RegShape
  | .feaPart => ⟨0x0, 1, 0x8, 1, 0x8⟩
  | .feaDescVersion => ⟨0x8, 1, 0x8, 1, 0x8⟩
  | .feaSaddles => ⟨0x10, 1, 0x8, 1, 0x8⟩
  | .feaSaddleShape => ⟨0x18, 1, 0x8, 1, 0x8⟩
  | .feaBenchBytes => ⟨0x20, 1, 0x8, 1, 0x8⟩
  | .feaAccTiles => ⟨0x28, 1, 0x8, 1, 0x8⟩
  | .feaSrfEntries => ⟨0x30, 1, 0x8, 1, 0x8⟩
  | .feaSbgBytes => ⟨0x38, 1, 0x8, 1, 0x8⟩
  | .feaKstBankBytes => ⟨0x40, 1, 0x8, 1, 0x8⟩
  | .feaCtrPerDie => ⟨0x48, 1, 0x8, 1, 0x8⟩
  | .feaHbmStacks => ⟨0x50, 1, 0x8, 1, 0x8⟩
  | .feaHbmStackBytes => ⟨0x58, 1, 0x8, 1, 0x8⟩
  | .feaMaxK => ⟨0x60, 1, 0x8, 1, 0x8⟩
  | .feaRingMaxSlots => ⟨0x68, 1, 0x8, 1, 0x8⟩
  | .feaOpcodes => ⟨0x70, 4, 0x8, 1, 0x8⟩
  | .feaFormats => ⟨0x90, 1, 0x8, 1, 0x8⟩
  | .feaTackVer => ⟨0x98, 1, 0x8, 1, 0x8⟩
  | .feaAflVer => ⟨0x1000, 1, 0x8, 1, 0x8⟩
  | .feaOmcpVer => ⟨0x1008, 1, 0x8, 1, 0x8⟩
  | .feaDomains => ⟨0x1010, 1, 0x8, 1, 0x8⟩
  | .feaEventEntries => ⟨0x1018, 1, 0x8, 1, 0x8⟩
  | .cfgState => ⟨0x10000, 1, 0x8, 1, 0x8⟩
  | .cfgBootStat => ⟨0x10008, 1, 0x8, 1, 0x8⟩
  | .cfgLoadStat => ⟨0x10010, 1, 0x8, 1, 0x8⟩
  | .cfgLoadBytes => ⟨0x10018, 1, 0x8, 1, 0x8⟩
  | .cfgCommitLast => ⟨0x10020, 1, 0x8, 1, 0x8⟩
  | .cfgMemberId => ⟨0x10028, 1, 0x8, 1, 0x8⟩
  | .cfgMemberCount => ⟨0x10030, 1, 0x8, 1, 0x8⟩
  | .cfgStartStep => ⟨0x10038, 1, 0x8, 1, 0x8⟩
  | .cfgRole => ⟨0x10040, 1, 0x8, 1, 0x8⟩
  | .cfgRoleInv => ⟨0x10048, 1, 0x8, 1, 0x8⟩
  | .cfgPlannerBuild => ⟨0x10060, 4, 0x8, 1, 0x8⟩
  | .secStat => ⟨0x20000, 1, 0x8, 1, 0x8⟩
  | .secHssIndex => ⟨0x20008, 1, 0x8, 1, 0x8⟩
  | .secHssIndexInv => ⟨0x20010, 1, 0x8, 1, 0x8⟩
  | .secSerialLo => ⟨0x20018, 1, 0x8, 1, 0x8⟩
  | .secSerialHi => ⟨0x20020, 1, 0x8, 1, 0x8⟩
  | .secMeas => ⟨0x20100, 4, 0x30, 6, 0x8⟩
  | .mntLockStat => ⟨0x30000, 1, 0x8, 1, 0x8⟩
  | .mntQueueStat => ⟨0x30008, 1, 0x8, 1, 0x8⟩
  | .omcCtrl => ⟨0x40000, 1, 0x8, 1, 0x8⟩
  | .omcBklLease => ⟨0x40008, 1, 0x8, 1, 0x8⟩
  | .omcBklStat => ⟨0x40010, 1, 0x8, 1, 0x8⟩
  | .omcSession => ⟨0x40018, 2, 0x8, 1, 0x8⟩
  | .omcEventStat => ⟨0x40028, 1, 0x8, 1, 0x8⟩
  | .omcEventSub => ⟨0x40030, 2, 0x8, 1, 0x8⟩
  | .ethCfg => ⟨0x50000, 1, 0x8, 1, 0x8⟩
  | .ethPortCtrl => ⟨0x50100, 2, 0x40, 1, 0x8⟩
  | .ethPortStat => ⟨0x50108, 2, 0x40, 1, 0x8⟩
  | .ethMac => ⟨0x50110, 2, 0x40, 1, 0x8⟩
  | .ethIp4 => ⟨0x50118, 2, 0x40, 1, 0x8⟩
  | .ethIp6Hi => ⟨0x50120, 2, 0x40, 1, 0x8⟩
  | .ethIp6Lo => ⟨0x50128, 2, 0x40, 1, 0x8⟩
  | .ethCnt => ⟨0x50130, 2, 0x40, 1, 0x8⟩
  | .pwrCap => ⟨0x60000, 1, 0x8, 1, 0x8⟩
  | .pwrVlimit => ⟨0x60008, 1, 0x8, 1, 0x8⟩
  | .pwrReinCtrl => ⟨0x60010, 1, 0x8, 1, 0x8⟩
  | .pwrStat => ⟨0x60018, 1, 0x8, 1, 0x8⟩
  | .pwrInput => ⟨0x60020, 1, 0x8, 1, 0x8⟩
  | .pwrDomainEnLo => ⟨0x60028, 1, 0x8, 1, 0x8⟩
  | .pwrDomainEnHi => ⟨0x60030, 1, 0x8, 1, 0x8⟩
  | .pwrRail => ⟨0x60040, 6, 0x8, 1, 0x8⟩
  | .pwrDomainStat => ⟨0x60100, 80, 0x8, 1, 0x8⟩
  | .thmCtrl => ⟨0x70000, 1, 0x8, 1, 0x8⟩
  | .thmStat => ⟨0x70008, 1, 0x8, 1, 0x8⟩
  | .thmJunc => ⟨0x70010, 7, 0x8, 1, 0x8⟩
  | .hltRisk => ⟨0x80000, 1, 0x8, 1, 0x8⟩
  | .hltCtrl => ⟨0x80008, 1, 0x8, 1, 0x8⟩
  | .hltInputCfg => ⟨0x80100, 13, 0x8, 1, 0x8⟩
  | .hltInputStat => ⟨0x80200, 13, 0x8, 1, 0x8⟩
  | .brcCtrl => ⟨0x90000, 1, 0x8, 1, 0x8⟩
  | .brcStat => ⟨0x90008, 1, 0x8, 1, 0x8⟩
  | .brcDupCnt => ⟨0x90010, 1, 0x8, 1, 0x8⟩
  | .brcLogBase => ⟨0x90018, 1, 0x8, 1, 0x8⟩
  | .brcDigestKey => ⟨0x90020, 1, 0x8, 1, 0x8⟩
  | .brcPos0 => ⟨0x90028, 1, 0x8, 1, 0x8⟩
  | .brcPos0Inv => ⟨0x90030, 1, 0x8, 1, 0x8⟩
  | .brcNormBound => ⟨0x90038, 1, 0x8, 1, 0x8⟩
  | .brcNormBoundInv => ⟨0x90040, 1, 0x8, 1, 0x8⟩
  | .brcLastReleased => ⟨0x90048, 1, 0x8, 1, 0x8⟩
  | .brcLastReleasedInv => ⟨0x90050, 1, 0x8, 1, 0x8⟩
  | .brcOwnerList => ⟨0x90058, 1, 0x8, 1, 0x8⟩
  | .brcMirrorList => ⟨0x90060, 1, 0x8, 1, 0x8⟩
  | .brcSlotBase => ⟨0x90100, 4, 0x8, 1, 0x8⟩
  | .updCtrl => ⟨0xA0000, 1, 0x8, 1, 0x8⟩
  | .updFront => ⟨0xA0008, 1, 0x8, 1, 0x8⟩
  | .updFrontInv => ⟨0xA0010, 1, 0x8, 1, 0x8⟩
  | .updSeedShared => ⟨0xA0020, 1, 0x8, 1, 0x8⟩
  | .updSeedSharedInv => ⟨0xA0028, 1, 0x8, 1, 0x8⟩
  | .updSeedRole => ⟨0xA0030, 1, 0x8, 1, 0x8⟩
  | .updSeedRoleInv => ⟨0xA0038, 1, 0x8, 1, 0x8⟩
  | .updSeedPartner => ⟨0xA0040, 1, 0x8, 1, 0x8⟩
  | .updSeedPartnerInv => ⟨0xA0048, 1, 0x8, 1, 0x8⟩
  | .updStreamCtr => ⟨0xA0800, 256, 0x8, 1, 0x8⟩
  | .updBurnStat => ⟨0xA1000, 32, 0x8, 1, 0x8⟩
  | .updGirthStat => ⟨0xA1100, 12, 0x8, 1, 0x8⟩
  | .updGirthPt => ⟨0xA1200, 12, 0x40, 6, 0x8⟩
  | .updGirthPtStep => ⟨0xA1230, 12, 0x40, 1, 0x8⟩
  | .aflCtrl => ⟨0xC0000, 1, 0x8, 1, 0x8⟩
  | .aflStamp => ⟨0xC0008, 1, 0x8, 1, 0x8⟩
  | .aflStampInv => ⟨0xC0010, 1, 0x8, 1, 0x8⟩
  | .aflCollCnt => ⟨0xC0018, 1, 0x8, 1, 0x8⟩
  | .aflSpareMap => ⟨0xC0020, 2, 0x8, 1, 0x8⟩
  | .aflStepTag => ⟨0xC0040, 2, 0x18, 1, 0x8⟩
  | .aflStepSent => ⟨0xC0048, 2, 0x18, 1, 0x8⟩
  | .aflStepRecv => ⟨0xC0050, 2, 0x18, 1, 0x8⟩
  | .aflPortCtrl => ⟨0xC1000, 12, 0x100, 1, 0x8⟩
  | .aflPortStat => ⟨0xC1008, 12, 0x100, 1, 0x8⟩
  | .aflNeighId => ⟨0xC1010, 12, 0x100, 1, 0x8⟩
  | .aflNeighStamp => ⟨0xC1018, 12, 0x100, 1, 0x8⟩
  | .aflNeighStampInv => ⟨0xC1020, 12, 0x100, 1, 0x8⟩
  | .aflPortErr => ⟨0xC1028, 12, 0x100, 1, 0x8⟩
  | .aflPortPtStep => ⟨0xC1030, 12, 0x100, 1, 0x8⟩
  | .aflPortPt => ⟨0xC1040, 12, 0x100, 6, 0x8⟩
  | .dspModStat => ⟨0x100000, 1, 0x8, 1, 0x8⟩
  | .dspTime => ⟨0x100008, 1, 0x8, 1, 0x8⟩
  | .dspCtrl => ⟨0x110000, 304, 0x200, 1, 0x8⟩
  | .dspRingBase => ⟨0x110008, 304, 0x200, 1, 0x8⟩
  | .dspRingSlots => ⟨0x110010, 304, 0x200, 1, 0x8⟩
  | .dspCplBase => ⟨0x110018, 304, 0x200, 1, 0x8⟩
  | .dspStat => ⟨0x110020, 304, 0x200, 1, 0x8⟩
  | .dspStep => ⟨0x110028, 304, 0x200, 1, 0x8⟩
  | .dspStepInv => ⟨0x110030, 304, 0x200, 1, 0x8⟩
  | .dspKgen => ⟨0x110038, 304, 0x200, 1, 0x8⟩
  | .dspStopStep => ⟨0x110040, 304, 0x200, 1, 0x8⟩
  | .dspStopSlot => ⟨0x110048, 304, 0x200, 1, 0x8⟩
  | .dspFaultLast => ⟨0x110050, 304, 0x200, 1, 0x8⟩
  | .dspGatherStat => ⟨0x110058, 304, 0x200, 1, 0x8⟩
  | .dspPhaseBase => ⟨0x110060, 304, 0x200, 1, 0x8⟩
  | .dspPhaseMap => ⟨0x110080, 304, 0x200, 16, 0x8⟩
  | .dspPhaseNow => ⟨0x110100, 304, 0x200, 8, 0x8⟩
  | .dspCtr => ⟨0x140000, 4096, 0x10, 1, 0x8⟩
  | .dspCtrCfg => ⟨0x140008, 4096, 0x10, 1, 0x8⟩
  | .kstBankStat => ⟨0x400000, 4, 0x10, 2, 0x8⟩
  | .sbgCtrl => ⟨0x410000, 4, 0x10, 1, 0x8⟩
  | .sbgStat => ⟨0x410008, 4, 0x10, 1, 0x8⟩
  | .hbmScrubCtrl => ⟨0x420000, 1, 0x8, 1, 0x8⟩
  | .hbmMap => ⟨0x420100, 4, 0x8, 1, 0x8⟩
  | .hbmProtBase => ⟨0x420200, 16, 0x18, 1, 0x8⟩
  | .hbmProtLimit => ⟨0x420208, 16, 0x18, 1, 0x8⟩
  | .hbmProtPerm => ⟨0x420210, 16, 0x18, 1, 0x8⟩
  | .hbmRefreshMult => ⟨0x421000, 32, 0x100, 1, 0x8⟩
  | .hbmEccCnt => ⟨0x421008, 32, 0x100, 1, 0x8⟩
  | .hbmEccLast => ⟨0x421010, 32, 0x100, 1, 0x8⟩
  | .hbmScrubStat => ⟨0x421018, 32, 0x100, 1, 0x8⟩
  | .hbmPprAvail => ⟨0x421020, 32, 0x100, 1, 0x8⟩
  | .hbmPprCand => ⟨0x421080, 32, 0x100, 16, 0x8⟩
  | .cinStat => ⟨0x480000, 4, 0x100, 1, 0x8⟩
  | .cinCntFloored => ⟨0x480008, 4, 0x100, 1, 0x8⟩
  | .cinCntExcluded => ⟨0x480010, 4, 0x100, 1, 0x8⟩
  | .cinCntAdjZero => ⟨0x480018, 4, 0x100, 1, 0x8⟩
  | .cinCntWarmRej => ⟨0x480020, 4, 0x100, 1, 0x8⟩
  | .cinCntMasked => ⟨0x480028, 4, 0x100, 1, 0x8⟩
  | .cinStoreEcc => ⟨0x480030, 4, 0x100, 1, 0x8⟩
  | .bncEccCnt => ⟨0x490000, 300, 0x8, 1, 0x8⟩
  | .sdlCtrl => ⟨0x1000000, 300, 0x4000, 1, 0x8⟩
  | .sdlAccFlags => ⟨0x1000008, 300, 0x4000, 1, 0x8⟩
  | .sdlStat => ⟨0x1000010, 300, 0x4000, 1, 0x8⟩
  | .sdlShadowStall => ⟨0x1000018, 300, 0x4000, 1, 0x8⟩
  | .sdlHistCtrl => ⟨0x1000020, 300, 0x4000, 1, 0x8⟩
  | .sdlHistSeq => ⟨0x1000028, 300, 0x4000, 1, 0x8⟩
  | .sdlNarrowCtrl => ⟨0x1000030, 300, 0x4000, 1, 0x8⟩
  | .sdlShadowCnt => ⟨0x1000038, 300, 0x4000, 1, 0x8⟩
  | .sdlSkewLast => ⟨0x1000040, 300, 0x4000, 1, 0x8⟩
  | .sdlVecStat => ⟨0x1000048, 300, 0x4000, 1, 0x8⟩
  | .sdlVecRestart => ⟨0x1000050, 300, 0x4000, 1, 0x8⟩
  | .sdlHistBin => ⟨0x1000200, 300, 0x4000, 64, 0x8⟩
  | .sdlSrf => ⟨0x1002000, 300, 0x4000, 1024, 0x8⟩

/-- Reset column; i is the first index. Fuses and stored values: DESIGN CHOICE, log entry 3. -/
def regReset (k : RegKind) (i : Nat) : Word :=
  match k with
  | .feaPart => 0x6432
  | .feaDescVersion => 1
  | .feaSaddles => 0x12C
  | .feaSaddleShape => 0x2020
  | .feaBenchBytes => 0x300000
  | .feaAccTiles => 8
  | .feaSrfEntries => 0x400
  | .feaSbgBytes => 0x8000000
  | .feaKstBankBytes => 0x80000
  | .feaCtrPerDie => 0x400
  | .feaHbmStacks => 0x20
  | .feaHbmStackBytes => 0x800000000
  | .feaMaxK => 0x100000
  | .feaRingMaxSlots => 0x100000
  | .feaOpcodes => [0x0107000301030003, 1, 0, 0].getD i 0
  | .feaFormats => 0xFFFF
  | .feaAflVer => 0x31
  | .feaOmcpVer => 0x21
  | .feaDomains => 0x50
  | .feaEventEntries => 0x1000
  | .cfgRole => 0xFFF
  | .cfgRoleInv => 0x1FFFFFF000
  | .secStat => 0xF0000000000
  | .secHssIndexInv => 0xFFFFF
  | .omcCtrl => 0x1388001E
  | .omcBklLease => 0x7530
  | .ethCfg => 0x000012AE88B50000
  | .pwrCap => 0xC80
  | .pwrVlimit => 0x03520258
  | .pwrReinCtrl => 0x000302BC
  | .pwrStat => 0x320000
  | .pwrDomainEnLo => 0xFFFFFFFFFFFFFFFF
  | .pwrDomainEnHi => 0xFFFF
  | .pwrRail => 0x0FFFC000
  | .thmCtrl => 0x5F
  | .hltCtrl => 0x0064640000C08040
  | .hltInputCfg => [0x30004030, 0x60100080, 0x30002020, 0x60100080, 0x60200080, 0x60200080, 0x50040040, 0x30001020, 0x60100060, 0x70080040, 0x00020040, 0x00060060, 0x00010060].getD i 0
  | .brcStat => 1
  | .brcPos0Inv => 0xFFFFFFFFFFFFFFFF
  | .brcNormBound => 0x7FF0000000000000
  | .brcNormBoundInv => 0x800FFFFFFFFFFFFF
  | .brcLastReleasedInv => 0xFFFFFFFFFFFFFFFF
  | .updFrontInv => 0xFFFFFFFFFFFFFFFF
  | .updSeedSharedInv => 0xFFFFFFFFFFFFFFFF
  | .updSeedRoleInv => 0xFFFFFFFFFFFFFFFF
  | .updSeedPartnerInv => 0xFFFFFFFFFFFFFFFF
  | .aflCtrl => 0x00A03233
  | .aflStampInv => 0xFFFFFFFFFFFFFFFF
  | .aflPortCtrl => 0x00040001
  | .aflPortStat => 0x7654321000000000
  | .aflNeighStampInv => 0xFFFFFFFFFFFFFFFF
  | .dspCtrl => 0x4080
  | .dspStepInv => 0xFFFFFFFFFFFFFFFF
  | .dspCtr => 0x0000FFFFFF000000
  | .sbgCtrl => 8
  | .hbmScrubCtrl => 0x00101801
  | .hbmRefreshMult => 1
  | .hbmPprAvail => 0xFFFFFFFF
  | .sdlHistCtrl => 0xFE2
  | .sdlNarrowCtrl => 0x1110
  | _ => 0

/-- Access types that a write can act on (Table 0-4); a field not listed is RO. -/
inductive Access where
  | rw | rwl | w1c | wo
  deriving DecidableEq, Repr

/-- Which written values a field takes; any other is ignored (R546). -/
inductive Takes where
  | any
  | within (lo hi : Nat)
  | zeroBits (mask : Nat)
  deriving DecidableEq, Repr

structure RegField where
  hi : Nat
  lo : Nat
  acc : Access
  takes : Takes
  deriving DecidableEq, Repr

/-- The fields of a register that a write can act on, from the chapters' register tables. CFG_MEMBER_COUNT takes 4,097 to 8,191 and
DSP_RING_SLOTS takes more than 1,048,576 as written: the tables give a range, and no response to a value beyond it (DESIGN CHOICE,
log entry 73). -/
def regFields : RegKind → List RegField
  | .cfgMemberId => [⟨11, 0, .rwl, .any⟩]
  | .cfgMemberCount => [⟨12, 0, .rwl, .any⟩]
  | .cfgStartStep => [⟨63, 0, .rwl, .any⟩]
  | .cfgRole => [⟨36, 25, .rwl, .any⟩, ⟨24, 12, .rwl, .any⟩, ⟨11, 0, .rwl, .any⟩]
  | .cfgRoleInv => [⟨36, 25, .rwl, .any⟩, ⟨24, 12, .rwl, .any⟩, ⟨11, 0, .rwl, .any⟩]
  | .omcCtrl => [⟨31, 16, .rw, (.within 1 65535)⟩, ⟨15, 0, .rw, (.within 1 65535)⟩]
  | .omcBklLease => [⟨31, 0, .rw, (.within 1 600000)⟩]
  | .ethCfg => [⟨47, 32, .rw, (.within 1 65535)⟩, ⟨31, 16, .rw, (.within 1536 65535)⟩]
  | .ethPortCtrl => [⟨11, 0, .rw, .any⟩]
  | .ethIp4 => [⟨31, 0, .rw, .any⟩]
  | .ethIp6Hi => [⟨63, 0, .rw, .any⟩]
  | .ethIp6Lo => [⟨63, 0, .rw, .any⟩]
  | .pwrCap => [⟨11, 0, .rw, (.within 1000 3600)⟩]
  | .pwrVlimit => [⟨25, 16, .rw, .any⟩, ⟨9, 0, .rw, .any⟩]
  | .pwrReinCtrl => [⟨19, 16, .rw, (.within 1 15)⟩, ⟨9, 0, .rw, .any⟩]
  | .pwrDomainEnLo => [⟨63, 0, .rwl, .any⟩]
  | .pwrDomainEnHi => [⟨15, 0, .rwl, .any⟩]
  | .pwrRail => [⟨29, 29, .w1c, .any⟩, ⟨28, 28, .w1c, .any⟩]
  | .thmCtrl => [⟨7, 0, .rw, (.within 70 95)⟩]
  | .hltCtrl => [⟨63, 48, .rw, .any⟩, ⟨47, 40, .rw, (.within 1 255)⟩, ⟨23, 16, .rw, .any⟩, ⟨15, 8, .rw, .any⟩, ⟨7, 0, .rw, .any⟩]
  | .hltInputCfg => [⟨31, 28, .rw, .any⟩, ⟨23, 8, .rw, .any⟩, ⟨7, 0, .rw, .any⟩]
  | .brcCtrl => [⟨61, 60, .rwl, .any⟩, ⟨59, 36, .rwl, .any⟩, ⟨35, 0, .rwl, .any⟩]
  | .brcStat => [⟨6, 6, .w1c, .any⟩]
  | .brcLogBase => [⟨39, 6, .rwl, .any⟩]
  | .brcDigestKey => [⟨63, 0, .rwl, .any⟩]
  | .brcPos0 => [⟨63, 0, .rwl, .any⟩]
  | .brcPos0Inv => [⟨63, 0, .rwl, .any⟩]
  | .brcNormBound => [⟨63, 0, .rwl, .any⟩]
  | .brcNormBoundInv => [⟨63, 0, .rwl, .any⟩]
  | .brcOwnerList => [⟨63, 48, .rwl, .any⟩, ⟨39, 0, .rwl, .any⟩]
  | .brcMirrorList => [⟨63, 48, .rwl, .any⟩, ⟨39, 0, .rwl, .any⟩]
  | .brcSlotBase => [⟨39, 6, .rwl, .any⟩]
  | .updCtrl => [⟨0, 0, .rwl, .any⟩]
  | .updSeedShared => [⟨63, 0, .rwl, .any⟩]
  | .updSeedSharedInv => [⟨63, 0, .rwl, .any⟩]
  | .updSeedRole => [⟨63, 0, .rwl, .any⟩]
  | .updSeedRoleInv => [⟨63, 0, .rwl, .any⟩]
  | .updSeedPartner => [⟨63, 0, .rwl, .any⟩]
  | .updSeedPartnerInv => [⟨63, 0, .rwl, .any⟩]
  | .aflCtrl => [⟨27, 20, .rw, (.within 1 255)⟩, ⟨19, 8, .rw, (.within 1 4095)⟩, ⟨7, 4, .rwl, (.within 1 3)⟩, ⟨3, 0, .rwl, .any⟩]
  | .aflSpareMap => [⟨7, 7, .rwl, .any⟩, ⟨2, 0, .rwl, (.within 0 5)⟩, ⟨15, 15, .rwl, .any⟩, ⟨10, 8, .rwl, (.within 0 5)⟩, ⟨23, 23, .rwl, .any⟩, ⟨18, 16, .rwl, (.within 0 5)⟩, ⟨31, 31, .rwl, .any⟩, ⟨26, 24, .rwl, (.within 0 5)⟩]
  | .aflPortCtrl => [⟨23, 8, .rw, (.within 1 65535)⟩, ⟨1, 1, .wo, .any⟩, ⟨0, 0, .rwl, .any⟩]
  | .dspCtrl => [⟨15, 12, .rw, (.within 0 8)⟩, ⟨8, 0, .rw, (.within 0 384)⟩]
  | .dspRingBase => [⟨47, 5, .rwl, (.zeroBits 3)⟩]
  | .dspRingSlots => [⟨20, 0, .rwl, .any⟩]
  | .dspCplBase => [⟨47, 5, .rwl, .any⟩]
  | .dspStopStep => [⟨63, 0, .rw, .any⟩]
  | .dspStopSlot => [⟨31, 31, .rw, .any⟩, ⟨23, 0, .rw, .any⟩]
  | .dspFaultLast => [⟨63, 63, .w1c, .any⟩]
  | .dspPhaseBase => [⟨47, 7, .rwl, .any⟩]
  | .dspPhaseMap => [⟨63, 63, .rwl, .any⟩, ⟨55, 32, .rwl, .any⟩, ⟨31, 8, .rwl, .any⟩, ⟨7, 0, .rwl, .any⟩]
  | .dspCtrCfg => [⟨23, 0, .rwl, .any⟩]
  | .sbgCtrl => [⟨3, 0, .rwl, (.within 0 12)⟩]
  | .hbmScrubCtrl => [⟨23, 16, .rw, (.within 1 255)⟩, ⟨15, 8, .rw, (.within 1 168)⟩, ⟨0, 0, .rw, .any⟩]
  | .hbmMap => [⟨0, 0, .rwl, .any⟩]
  | .hbmProtBase => [⟨39, 12, .rwl, .any⟩]
  | .hbmProtLimit => [⟨39, 12, .rwl, .any⟩]
  | .hbmProtPerm => [⟨15, 15, .rwl, .any⟩, ⟨14, 14, .rwl, .any⟩, ⟨13, 0, .rwl, (.zeroBits 0x2400)⟩]
  | .hbmRefreshMult => [⟨9, 8, .rwl, (.within 0 2)⟩]
  | .hbmEccLast => [⟨63, 63, .w1c, .any⟩]
  | .sdlCtrl => [⟨8, 8, .rwl, .any⟩, ⟨7, 0, .rw, .any⟩]
  | .sdlAccFlags => (List.range 24).map fun x => ⟨8 * (x / 3) + x % 3, 8 * (x / 3) + x % 3, .w1c, .any⟩
  | .sdlHistCtrl => [⟨13, 12, .rw, .any⟩, ⟨11, 0, .rw, .any⟩]
  | .sdlHistSeq => [⟨33, 33, .w1c, .any⟩, ⟨32, 32, .w1c, .any⟩]
  | .sdlNarrowCtrl => [⟨47, 32, .rw, .any⟩, ⟨15, 12, .rw, .any⟩, ⟨9, 9, .rw, .any⟩, ⟨8, 8, .rw, .any⟩, ⟨4, 0, .rw, (.within 6 16)⟩]
  | .sdlSkewLast => [⟨31, 31, .w1c, .any⟩]
  | _ => []

def regKinds0 : List RegKind :=
  [.feaPart, .feaDescVersion, .feaSaddles, .feaSaddleShape, .feaBenchBytes, .feaAccTiles, .feaSrfEntries, .feaSbgBytes, .feaKstBankBytes, .feaCtrPerDie, .feaHbmStacks, .feaHbmStackBytes, .feaMaxK, .feaRingMaxSlots, .feaOpcodes, .feaFormats, .feaTackVer, .feaAflVer, .feaOmcpVer, .feaDomains, .feaEventEntries, .cfgState, .cfgBootStat, .cfgLoadStat]

def regKinds1 : List RegKind :=
  [.cfgLoadBytes, .cfgCommitLast, .cfgMemberId, .cfgMemberCount, .cfgStartStep, .cfgRole, .cfgRoleInv, .cfgPlannerBuild, .secStat, .secHssIndex, .secHssIndexInv, .secSerialLo, .secSerialHi, .secMeas, .mntLockStat, .mntQueueStat, .omcCtrl, .omcBklLease, .omcBklStat, .omcSession, .omcEventStat, .omcEventSub, .ethCfg, .ethPortCtrl]

def regKinds2 : List RegKind :=
  [.ethPortStat, .ethMac, .ethIp4, .ethIp6Hi, .ethIp6Lo, .ethCnt, .pwrCap, .pwrVlimit, .pwrReinCtrl, .pwrStat, .pwrInput, .pwrDomainEnLo, .pwrDomainEnHi, .pwrRail, .pwrDomainStat, .thmCtrl, .thmStat, .thmJunc, .hltRisk, .hltCtrl, .hltInputCfg, .hltInputStat, .brcCtrl, .brcStat]

def regKinds3 : List RegKind :=
  [.brcDupCnt, .brcLogBase, .brcDigestKey, .brcPos0, .brcPos0Inv, .brcNormBound, .brcNormBoundInv, .brcLastReleased, .brcLastReleasedInv, .brcOwnerList, .brcMirrorList, .brcSlotBase, .updCtrl, .updFront, .updFrontInv, .updSeedShared, .updSeedSharedInv, .updSeedRole, .updSeedRoleInv, .updSeedPartner, .updSeedPartnerInv, .updStreamCtr, .updBurnStat, .updGirthStat]

def regKinds4 : List RegKind :=
  [.updGirthPt, .updGirthPtStep, .aflCtrl, .aflStamp, .aflStampInv, .aflCollCnt, .aflSpareMap, .aflStepTag, .aflStepSent, .aflStepRecv, .aflPortCtrl, .aflPortStat, .aflNeighId, .aflNeighStamp, .aflNeighStampInv, .aflPortErr, .aflPortPtStep, .aflPortPt, .dspModStat, .dspTime, .dspCtrl, .dspRingBase, .dspRingSlots, .dspCplBase]

def regKinds5 : List RegKind :=
  [.dspStat, .dspStep, .dspStepInv, .dspKgen, .dspStopStep, .dspStopSlot, .dspFaultLast, .dspGatherStat, .dspPhaseBase, .dspPhaseMap, .dspPhaseNow, .dspCtr, .dspCtrCfg, .kstBankStat, .sbgCtrl, .sbgStat, .hbmScrubCtrl, .hbmMap, .hbmProtBase, .hbmProtLimit, .hbmProtPerm, .hbmRefreshMult, .hbmEccCnt, .hbmEccLast]

def regKinds6 : List RegKind :=
  [.hbmScrubStat, .hbmPprAvail, .hbmPprCand, .cinStat, .cinCntFloored, .cinCntExcluded, .cinCntAdjZero, .cinCntWarmRej, .cinCntMasked, .cinStoreEcc, .bncEccCnt, .sdlCtrl, .sdlAccFlags, .sdlStat, .sdlShadowStall, .sdlHistCtrl, .sdlHistSeq, .sdlNarrowCtrl, .sdlShadowCnt, .sdlSkewLast, .sdlVecStat, .sdlVecRestart, .sdlHistBin, .sdlSrf]

/-- Every register kind. -/
def regKinds : List RegKind :=
  regKinds0 ++ regKinds1 ++ regKinds2 ++ regKinds3 ++ regKinds4 ++ regKinds5 ++ regKinds6

/-- Address of a register by kind and indices. -/
def regAddr (k : RegKind) (i j : Nat) : Nat :=
  let r := regShape k
  r.base + i * r.s1 + j * r.s2

/-- The indices at which an address names a register of a shape (R543). -/
def regIndex (r : RegShape) (a : Nat) : Option (Nat × Nat) :=
  if a < r.base then none
  else
    let o := a - r.base
    let i := o / r.s1
    let rest := o % r.s1
    let j := rest / r.s2
    if i < r.n1 ∧ j < r.n2 ∧ rest % r.s2 = 0 then some (i, j) else none

/-- Search the kinds for the register at an address. -/
def regFindIn : List RegKind → Nat → Option (RegKind × Nat × Nat)
  | [], _ => none
  | k :: ks, a =>
    match regIndex (regShape k) a with
    | some (i, j) => some (k, i, j)
    | none => regFindIn ks a

/-- The register at an address, or none where the address is not a register (R543, R544). -/
def regFind (a : Nat) : Option (RegKind × Nat × Nat) := regFindIn regKinds a

/-- The _INV companion of a value register (R508, R545). -/
def invCompanion : RegKind → Option RegKind
  | .cfgRole => some .cfgRoleInv
  | .brcPos0 => some .brcPos0Inv
  | .brcNormBound => some .brcNormBoundInv
  | .brcLastReleased => some .brcLastReleasedInv
  | .updFront => some .updFrontInv
  | .updSeedShared => some .updSeedSharedInv
  | .updSeedRole => some .updSeedRoleInv
  | .updSeedPartner => some .updSeedPartnerInv
  | .aflStamp => some .aflStampInv
  | .aflNeighStamp => some .aflNeighStampInv
  | .secHssIndex => some .secHssIndexInv
  | .dspStep => some .dspStepInv
  | _ => none

/-- Is a register itself an _INV companion. -/
def isInvCompanion : RegKind → Bool
  | .cfgRoleInv | .brcPos0Inv | .brcNormBoundInv | .brcLastReleasedInv | .updFrontInv | .updSeedSharedInv
  | .updSeedRoleInv | .updSeedPartnerInv | .aflStampInv | .aflNeighStampInv | .secHssIndexInv | .dspStepInv => true
  | _ => false

/-- The ETH and OMC blocks (Table 16-1), whose registers the MODULE rung keeps (R549). -/
def keptByModuleRung (a : Nat) : Bool := decide (a / 0x10000 = 4 ∨ a / 0x10000 = 5)

/-- The SDL and BNC registers, which read zero while their saddle group is not ON (R549), with their saddle. -/
def saddleOfReg (a : Nat) : Option Nat :=
  if a / 0x10000 = 0x49 then some (a % 0x10000 / 8)
  else if a / 0x1000000 ≥ 1 then some ((a - 0x1000000) / 0x4000)
  else none

/-- The bits of a register that hold RW or RWL fields. -/
def keepMask (k : RegKind) : Word :=
  (regFields k).foldl (fun m f => if f.acc = .rw || f.acc = .rwl then m ||| place f.lo (f.hi + 1 - f.lo) (2 ^ 64 - 1) else m) 0

end Sys2Proof.Machine
end

