-- ==== Sys2Proof/Machine/State.lean ====
section
/-! DEFINITION. Everything the spec gives the module to hold, as plain data, and its value at reset. Most of it is the
register words themselves (`regs`); what registers only report is held in the structures below. -/

namespace Sys2Proof.Machine

/-- Module states (R502 Table 14-1), in code order. -/
inductive ModState where
  | boot | waitHost | committing | running | resetting | tripped | fwRecovery
  deriving DecidableEq, Repr

/-- Where boot stands (R505 Table 14-3): not booting, before order 3 ends, before order 6 ends. -/
inductive BootStage where
  | idle | verify | training
  deriving DecidableEq, Repr

/-- Power domain states (Table 13-2). -/
inductive DomState where
  | off | rampUp | on | rampDown
  deriving DecidableEq, Repr

/-- A PWR_DOMAIN request (R479): the state asked for, its ticket and the port it arrived on. -/
structure DomReq where
  on : Bool
  ticket : BitVec 32
  port : Fin 2
  deriving DecidableEq, Repr

/-- One power domain (R476 to R484): its state, whether its ramp-up has one of the four places of R484, when the ramp
ends, the request in its turn and the requests that wait. -/
structure Domain where
  st : DomState := .off
  active : Bool := false
  due : Word := 0
  turn : Option DomReq := none
  waiting : List DomReq := []
  deriving DecidableEq, Repr

/-- The two rungs that start 10 ms after their DONE (R519). -/
inductive Rung where
  | module | power
  deriving DecidableEq, Repr

/-- The FUNCTION rung in progress (R518). -/
inductive RungWait where
  | none
  | function (ticket : BitVec 32) (since : Word)
  deriving DecidableEq, Repr

/-- The input stage (R561, R568 to R570): the levels of the pins MATED and MOD_EN, which are the carrier's; the ns for which VIN has
stayed within 48 V to 58 V with both of them good; and the ns since the stage last removed power. -/
structure InputStage where
  mated : Bool := true
  modEn : Bool := true
  vinHeld : Nat := 10_000_000
  offFor : Nat := 2_000_000_000
  deriving DecidableEq, Repr

/-- The management die's own state (13, 14, 17). -/
structure Mgmt where
  /-- The input stage applies power (R568, R569). -/
  supplied : Bool := false
  input : InputStage := {}
  /-- The level of the pin MEDIA_SEL (R563); it is the carrier's, whatever power the module has. -/
  mediaSel : Bool := false
  st : ModState := .boot
  bootStage : BootStage := .idle
  hwFailed : Bool := false
  commitFailed : Bool := false
  lastRung : BitVec 2 := 0
  /-- The POWER code in the root of trust's non-volatile store (R519). -/
  powerCode : Bool := false
  rung : RungWait := .none
  /-- Rungs accepted whose start is due, in order (R519). -/
  delayed : List (Rung × Word) := []
  /-- RWL fields are locked (R514 order 5). -/
  locked : Bool := false
  /-- Power domains, OFF where not listed. -/
  domains : List (Nat × Domain) := []
  /-- E of the last periods, newest first, at most 250 (R485: the 1 ms running mean). -/
  estimates : List Nat := []
  /-- Consecutive periods above the cap at VMIN and GATE 10, and within the cap (R491). -/
  overPeriods : Nat := 0
  underPeriods : Nat := 0
  /-- End of the last rein period, and when REINED is to end (R493). -/
  lastPeriod : Word := 0
  reinedEnd : Option Word := none
  /-- GATE in force in the present 1 µs window, and whether the gate is open (R488). -/
  gateLevel : Nat := 100
  gateOpen : Bool := true
  /-- The rails have been sampled (R495). -/
  railsRead : Bool := false
  /-- Time of the last SUPPLY_GUARD event of each rail (R495). -/
  guardLogged : List (Nat × Option Word) := []
  /-- Successive samples at or above 105 °C per junction and per stack (R500). -/
  hotJunctions : List (Nat × Nat) := []
  hotStacks : List (Nat × Nat) := []
  /-- Time of the last junction reading of each die, while readings are lost (R500). -/
  lostSince : List (Nat × Option Word) := []
  /-- Failed temperature reads in a row per stack (R277). -/
  failedReads : List (Nat × Nat) := []
  /-- Events of each health monitor input in the present period (R402), and the end of the last period. -/
  hlt : List (Nat × Nat) := []
  hltLast : Word := 0
  deriving DecidableEq, Repr

/-- An OMCP packet the module sends (Table 12-2); STAMP_INV and CRC follow from the rest. -/
structure OmcpPacket where
  ver : BitVec 4
  kind : BitVec 4
  flags : BitVec 8
  opcode : BitVec 16
  status : BitVec 16
  session : BitVec 16
  seq : BitVec 32
  ticket : BitVec 32
  stamp : Word
  payload : Bytes
  deriving DecidableEq, Repr

/-- A reply kept for resending (R460). -/
structure Kept where
  seq : BitVec 32
  pkt : OmcpPacket
  dest : NetAddr
  deriving DecidableEq, Repr

/-- An open session (R458 to R460, R470, R472). -/
structure Session where
  id : BitVec 16
  ver : BitVec 4
  peer : NetAddr
  high : Option (BitVec 32) := none
  kept : List Kept := []
  executed : List (BitVec 32) := []
  last : Word
  notes : BitVec 32 := 0
  egress : Option (BitVec 25) := none
  deriving DecidableEq, Repr

/-- One host port (12): the last session identifier, the session, and the echo answers of the present second (R453). -/
structure HostPort where
  lastSid : BitVec 16 := 0
  session : Option Session := none
  echoes : Nat := 0
  echoSecond : Word := 0
  deriving DecidableEq, Repr

/-- The buckle (R464, R465). `pins` are the tickets that pin it; `lapsed` is the holder it was last taken from by
expiry and when (R466). -/
structure Buckle where
  holder : Option (Fin 2 × BitVec 16) := none
  expiry : Word := 0
  pins : List (BitVec 32) := []
  release : Bool := false
  lapsed : Option (Fin 2 × BitVec 16 × Word) := none
  deriving DecidableEq, Repr

/-- A command ticket (R461). -/
structure Ticket where
  num : BitVec 32
  opcode : BitVec 16
  status : BitVec 16
  done : Bool
  session : BitVec 16
  port : Fin 2
  detail : Word
  deriving DecidableEq, Repr

/-- What an egress stream carries (R470), with the command that made it. -/
inductive Producer where
  | attest (ticket : BitVec 32)
  | snapshot (ticket : BitVec 32)
  | checkpoint (step : Word)
  deriving DecidableEq, Repr

/-- A sub-stream (R470): the port it goes to, its counts, and whether LAST has been sent. -/
structure SubStream where
  port : Fin 2
  acked : Nat := 0
  limit : Nat
  sent : Nat := 0
  last : Bool := false
  deriving DecidableEq, Repr

/-- An egress stream (R470, R471): its bytes so far, whether more may come, its sub-streams, and when ACKED last
advanced. -/
structure Egress where
  num : BitVec 32
  data : Bytes
  more : Bool
  producer : Producer
  subs : List SubStream
  advanced : Word
  deriving DecidableEq, Repr

/-- An event log entry (Table 16-11); SEQ follows from its place. -/
structure LogEntry where
  code : BitVec 16
  time : Word
  step : Word
  srcKind : BitVec 4
  srcIndex : BitVec 12
  slot : Option (BitVec 24)
  p0 : Word
  p1 : Word
  p2 : Word
  deriving DecidableEq, Repr

/-- Die M's host side (12, 16). -/
structure HostSide where
  portA : HostPort := {}
  portB : HostPort := {}
  buckle : Buckle := {}
  nextTicket : BitVec 32 := 1
  /-- The last 256 tickets, newest first (R461). -/
  tickets : List Ticket := []
  streams : List Egress := []
  /-- Number of the next stream; DESIGN CHOICE, log entry 6. -/
  nextStream : BitVec 32 := 1
  /-- The event log, newest first, at most 4,096 entries, and the number the next entry gets (R553). -/
  log : List LogEntry := []
  logHead : BitVec 32 := 0
  deriving DecidableEq, Repr

/-- Configuration loading and commit (14). -/
structure ConfigStore where
  /-- The staged image, 0 where not written, and which bytes have been received (R511). -/
  staged : List Host.Cell := []
  received : List (Nat × Bool) := []
  /-- The commit in progress: its ticket (R513). -/
  commit : Option (BitVec 32) := none
  /-- The routing image in force (R421, R422). -/
  route : Bytes := []
  deriving DecidableEq, Repr

/-- A firmware slot (R530, R535): its bytes, 0 where never written, the record of bytes received, VERIFIED. -/
structure FwSlot where
  mem : List Host.Cell := []
  got : List (Nat × Bool) := []
  verified : Bool := false
  deriving DecidableEq, Repr

/-- One copy of the slot-select record (R536). -/
structure SelCopy where
  seq : Word := 0
  seqInv : Word := 0
  slot : BitVec 1 := 0
  slotInv : BitVec 1 := 0
  deriving DecidableEq, Repr

/-- The root of trust (15). -/
structure Security where
  slot0 : FwSlot := {}
  slot1 : FwSlot := {}
  sel0 : SelCopy := {}
  sel1 : SelCopy := {}
  /-- Of the running image: VERSION, FLOOR_SVN and REVOKE (Table 15-3). -/
  version : Word := 0
  floorSvn : BitVec 8 := 0
  revoke : BitVec 4 := 0
  /-- Extensions of measurement register 3 (Table 15-6). -/
  configExtends : BitVec 32 := 0
  /-- HSS index 2^20 − 1 has been used (R541). -/
  hssSpent : Bool := false
  deriving DecidableEq, Repr

/-- What a maintenance activity does (Table 14-12). The destination of a mirror copy is an activity too (R526). -/
inductive Activity where
  | kernelLoad (d : Fin 4) (b : Fin 2) (gen : BitVec 16) (addr : BitVec 40) (len : BitVec 20)
  | routeLoad (addr : BitVec 40) (len : BitVec 23)
  | mirrorCopy (dest : BitVec 12) (srcMirror dstMirror : Bool)
  | mirrorTake (source : BitVec 12)
  | rowRepair (n : Fin 32) (entry : Fin 16) (hard : Bool)
  deriving DecidableEq, Repr

/-- A maintenance activity with its ticket, or the die whose tack routine asked for it; a copy's destination has
neither. -/
structure Act where
  ticket : Option (BitVec 32)
  tack : Option Nat
  what : Activity
  since : Word
  deriving DecidableEq, Repr

/-- Maintenance activities, in request order (R522), and what waits of the hosts' requests: with the port of each, those that a
row repair holds up (R273) and those behind them in their session (R460). -/
structure Maint where
  running : List Act := []
  queued : List Act := []
  held : List (Fin 2 × Instr) := []
  deriving DecidableEq, Repr

/-- Replacement policy of a saddlebag line (Table 7-3). -/
inductive Policy where
  | normal | stream | keep
  deriving DecidableEq, Repr

/-- What a line's codeword holds beside its 64 bytes (R261, Table 7-4): POISON, the reserved bits of c64, the stored
address tag against the right one (xor), and the symbols in error against the right codeword. -/
structure LineMeta where
  poison : Bool := false
  rsv : BitVec 7 := 0
  tagXor : BitVec 8 := 0
  sym : List (Nat × Byte) := []
  deriving DecidableEq, Repr

/-- A line held in a saddlebag slice (R255 to R260): its line number, its policy, and for a dirty line what HBM still
holds beneath it. -/
structure SbgLine where
  line : Nat
  policy : Policy
  below : Option (Bytes × LineMeta)
  deriving DecidableEq, Repr

/-- A row with corrected errors (R271), and whether it has become a repair candidate in this pass (R272). -/
structure RowCount where
  row : Nat
  count : Nat
  named : Bool := false
  deriving DecidableEq, Repr

/-- A 32-byte bench sector (R188 to R191). -/
inductive SectorState where
  | ordinary
  | speculative (slot : Nat)
  | void
  deriving DecidableEq, Repr

/-- An 8-byte bench or working-store word with an error (R267, R294). -/
inductive WordError where
  | good | correctable | uncorrectable
  deriving DecidableEq, Repr

/-- HBM, saddlebag and benches (07). `hbm` and `lines` give what a read through the slices meets; unlisted bytes read
0, unlisted lines have valid metadata. Bench byte o of saddle n has key 3145728 n + o. -/
structure Mem where
  hbm : List Host.Cell := []
  lines : List (Nat × LineMeta) := []
  /-- Lines in the slices, most recently used first. -/
  sbg : List SbgLine := []
  tracker : List (Nat × List RowCount) := []
  /-- Pseudo-channels whose repair resource is spent, by soft and by hard repair. -/
  pprSoft : List (Nat × Word) := []
  pprHard : List (Nat × Word) := []
  bench : List Host.Cell := []
  sectors : List (Nat × Option SectorState) := []
  voided : List (Nat × Bool) := []
  benchErr : List (Nat × WordError) := []
  /-- Words of the working stores with an error, by 8,388,608 × die + word (R294). -/
  cinErr : List (Nat × WordError) := []
  /-- HBM lines whose next transfer over a die-to-die bridge meets an error (R237). -/
  bridgeErr : List (Nat × Bool) := []
  /-- Command/address and write data parity errors that the next transfer of each stack meets, and transfers repeated for one,
  by stack (R250). -/
  parity : List (Nat × Nat) := []
  repeats : List (Nat × Nat) := []
  /-- What HBM holds beneath the clean slice copy of a line that scrub or a repair has rewritten there (R256, R269); a line read
  from HBM again shows it. -/
  under : List (Nat × Bytes × LineMeta) := []
  deriving DecidableEq, Repr

/-- Why an access gave nothing: the first address past HBM, the address of the line, or the address denied and its region. -/
inductive MemErr where
  | range (addr : Nat)
  | protect (addr region : Nat) (wr : Bool)
  | uncorrectable (addr : Nat)
  | badTag (addr : Nat)
  | poison (addr : Nat)
  deriving DecidableEq, Repr

/-- Stirrup states (Table 5-13), in code order. -/
inductive StirrupState where
  | off | run | stopped | halted
  deriving DecidableEq, Repr

/-- A fetched descriptor (R159): its slot and its sixteen words, or why the fetch of its lines gave none. -/
structure Fetched where
  slot : Nat
  words : List Word
  err : Option MemErr
  deriving DecidableEq, Repr

/-- How far a descriptor in flight has come: issued, executing (with more commands to come), or ended. -/
inductive Phase where
  | issued | executing | ended
  deriving DecidableEq, Repr

/-- A descriptor in flight (R182, R183): slot, step, its words, the bank and generation it runs under, its fault with
DETAIL if it has ended in one, its store flags (bits 3 to 0: RSVD, NAN, OVF, SAT), for a TACK_CALL the STATUS of its
return record (R201), and for a MATMUL that has ended the SDL_HIST_CTRL it latched and the counts it will publish as it
completes (R74). -/
structure InFlight where
  slot : Nat
  step : Word
  words : List Word
  bank : Nat
  gen : BitVec 16
  issued : Word
  phase : Phase := .issued
  fault : Option (Nat × Word) := none
  stf : BitVec 4 := 0
  ret : Option Word := none
  counts : Option (Word × List (Nat × Nat)) := none
  deriving DecidableEq, Repr

/-- A stirrup's phase record (Table 9-9): its step, first issue, last completion, category totals, and first issue and last completion
of the phase map entries that issued. -/
structure PhaseRec where
  step : Word
  began : Word
  lastDone : Word
  cats : List Word
  marks : List (Nat × Option (Word × Word))
  deriving DecidableEq, Repr

/-- A stirrup (05): head slot, current bank, switching (R195), the check that holds the head (0: none), fetched
descriptors, descriptors in flight (oldest first), and a halt request on its way (true: to HALTED, R581). Its step and
stop point are registers. -/
structure Stirrup where
  st : StirrupState := .off
  head : Nat := 0
  bank : Nat := 0
  switching : Bool := false
  hold : Nat := 0
  fetched : List Fetched := []
  flight : List InFlight := []
  request : Option Bool := none
  /-- Slots of later COPYs that run-ahead has prefetched (R188). -/
  prefetched : List Nat := []
  /-- Phase timer of the step held (R363, R364): first issue, last completion, and first issue and last completion of each
  phase map entry that issued. -/
  began : Option Word := none
  lastDone : Word := 0
  marks : List (Nat × Option (Word × Word)) := []
  /-- Records of earlier steps of which descriptors are still in flight. -/
  past : List PhaseRec := []
  deriving DecidableEq, Repr

/-- The streams of a block-scaled operand (R132): its elements, its first-level and its second-level scales. -/
inductive OperandStream where
  | element | first | second
  deriving DecidableEq, Repr

/-- A slip of an address generator, which the skew rule is there to find (R132, R133): from block `block` of a descriptor on,
counted from 0, the generator of a stream of A or B stands `ahead` blocks from the right count. `checker`: the stream that
feeds the shadow checker, not the saddle's input or shadow-load path. A sound part has none. -/
structure Slip where
  onB : Bool
  checker : Bool
  stream : OperandStream
  block : Nat
  ahead : Int
  deriving DecidableEq, Repr

/-- A selected narrow group sum that awaits its verdict (R148 to R151): its index, streamed row, lane column and group, the
narrow value and the checked one, and the first blocks of A and of B that it takes, counted from 0 in the descriptor. -/
structure ShadowCheck where
  index : Nat
  row : Nat
  lane : Nat
  group : Nat
  narrow : Nat
  checked : Nat
  blockA : Nat
  blockB : Nat
  deriving DecidableEq, Repr

/-- A MATMUL in execution (03, 04): its slot and step, what it latched at its start (ACC_GUARD, SDL_NARROW_CTRL,
SDL_HIST_CTRL), passes done, groups switched for the next one, group sums formed, checks that wait, tiles drained, its
fused row results so far (by quadrant and row), whether it has logged a reserved code, whether the chunk loaded last holds
one, the histogram counts of its drained tiles, which join the active bank at its completion (R71, R74), and the slips of its
generators. -/
structure MatRun where
  slot : Nat
  step : Word
  guard : BitVec 8
  narrow : Word
  hist : Word
  pass : Nat := 0
  groups : Nat := 0
  sums : Nat := 0
  checks : List ShadowCheck := []
  drained : Nat := 0
  rowMax : List (Nat × Nat) := []
  rowSum : List (Nat × Nat) := []
  reserved : Bool := false
  loadedReserved : Bool := false
  bank : List (Nat × Nat) := []
  slips : List Slip := []
  deriving DecidableEq, Repr

/-- A saddle (03, 04): accumulator tile slots by 1,024 × tile + 32 × row + column, the store flags of each tile (R66), the
active and shadow stationary registers by 32 × row + column, the active histogram bank with the SDL_HIST_CTRL its counts
were taken under, the SDL_HIST_CTRL of the snapshot bank (R73, R74), the matrix descriptors in execution, oldest first, and
the slips that its generators will make in the next one: they count anew at each descriptor's start (R132). Tags and tile
flags are the registers SDL_STAT and SDL_ACC_FLAGS. -/
structure Saddle where
  tiles : List (Nat × Word) := []
  stf : List (Nat × BitVec 4) := []
  active : List (Nat × Word) := []
  shadow : List (Nat × Word) := []
  bank : List (Nat × Nat) := []
  bankCtrl : Word := 0
  snapCtrl : Word := 0xFE2
  runs : List MatRun := []
  slips : List Slip := []
  deriving DecidableEq, Repr

/-- What a kernel's instructions take from their descriptor or binding (R217, R218, R334): the slot and step, the kernel and
its trips, declared ranges (base, length, writable), increments of a0 to a5, and the terms of draws and stochastic stores;
for an update kernel also COUNT, the tensors' FMT codes (0: absent), PERBLK and GRAD_FMT. -/
structure VecCtx where
  slot : Nat := 0
  step : Word := 0
  kernel : Nat := 0
  trips : Nat := 0
  ranges : List (Nat × Nat × Bool) := []
  incs : List Int := []
  elemBase : Word := 0
  mode : Nat := 0
  stream : Nat := 0
  layer : Nat := 0
  mirror : Bool := false
  count : Nat := 0
  formats : List Nat := []
  perblk : Nat := 0
  gradFmt : Nat := 0
  deriving DecidableEq, Repr

/-- A fault of a vector instruction: its code, the CAUSE of Table 6-6 and the lane. -/
structure VecFault where
  code : Nat
  cause : Nat
  lane : Nat
  deriving DecidableEq, Repr

/-- A vector unit (R215, Table 9-1): vector registers by number, each by lane; p1 to p7 (p0 is all ones); s and a
registers; the context of the kernel it runs or ran last, how many instructions of it have executed and where it stands; the
instruction that waits for resolvable exceptions, with its restarts; the fault that ended the last kernel or instruction; the
store flags; the accumulator tiles it has written since the kernel's start (R66); the stage of a trip: the gradient window,
tensor windows and the stores made (tensor, element, code); and the instructions gathered for a REP given outside a kernel,
with how many it still waits for. -/
structure Vec where
  v : List (Nat × List (Nat × Word)) := []
  p : List (Nat × List (Nat × Bool)) := []
  sr : List (Nat × Word) := []
  ar : List (Nat × Word) := []
  ctx : VecCtx := {}
  running : Bool := false
  done : Nat := 0
  trip : Nat := 0
  sect : Nat := 1
  pc : Nat := 0
  wait : Option Word := none
  restarts : Nat := 0
  fault : Option VecFault := none
  stf : BitVec 4 := 0
  wrote : List Nat := []
  grad : List Nat := []
  stage : List (Nat × List Nat) := []
  stores : List (Nat × Nat × Nat) := []
  block : List Word := []
  need : Nat := 0
  deriving DecidableEq, Repr

/-- A GATHER in execution (R244 to R246): its slot and step, the next group to start, the groups that wait for resolvable
exceptions with their restarts, the lowest element that met an unresolvable one with its fault code and CAUSE, and whether it
has logged a denial (R281). -/
structure GatherRun where
  slot : Nat
  step : Word
  next : Nat := 0
  held : List (Nat × Nat) := []
  bad : Option (Nat × Nat × Nat) := none
  told : Bool := false
  deriving DecidableEq, Repr

/-- Kernel store bank states (Table 5-15); ACTIVE is SEALED with users. -/
inductive BankState where
  | empty | loading | sealed
  deriving DecidableEq, Repr

/-- A kernel store bank (R193, R194): its generation and image while SEALED. -/
structure KstBank where
  st : BankState := .empty
  gen : BitVec 16 := 0
  image : Bytes := []
  deriving DecidableEq, Repr

/-- How far a tack routine in progress has come: its call has started it, its collective runs, its kernel load runs, or it
waits for the trailer of a checkpoint (stream and shard digest). -/
inductive TackPhase where
  | started
  | collective (id : Nat)
  | kernelLoad
  | checkpoint (stream : BitVec 32) (digest : Word)
  deriving DecidableEq, Repr

/-- A tack routine in progress (R199 to R203): its die, the slot and step of its TACK_CALL, its index, and how deep its calls of
other routines have gone (R203). -/
structure TackRun where
  die : Nat
  slot : Nat
  step : Word
  routine : Nat
  phase : TackPhase
  depth : Nat := 0
  deriving DecidableEq, Repr

/-- Dispatch (05). -/
structure Disp where
  /-- Stirrups 0 to 303; OFF where not listed. -/
  stirrups : List (Nat × Stirrup) := []
  /-- Signals on their way to counters (R178), oldest first. -/
  signals : List Nat := []
  /-- Kernel store banks by 2d + b. -/
  banks : List (Nat × KstBank) := []
  quiescent : Bool := false
  tack : List TackRun := []
  /-- GATHERs in execution by stirrup, oldest first. -/
  gathers : List (Nat × List GatherRun) := []
  deriving DecidableEq, Repr

/-- Link port states (Table 11-2), in code order. -/
inductive PortState where
  | off | train | down | ident | up | held
  deriving DecidableEq, Repr

/-- A frame waiting to leave a port: its VC there, the collective and stage it belongs to, or none. -/
structure TxFrame where
  vc : Nat
  frame : Frame
  owner : Option (Nat × Nat)
  deriving DecidableEq, Repr

/-- A hitless sparing under way (R418): logical lane, spare slot, whether this end asked for it, and whether GRANT has
been sent or received. -/
structure Sparing where
  lane : Nat
  slot : Nat
  asked : Bool
  granted : Bool
  deriving DecidableEq, Repr

/-- A link port (R409 to R418). Credits and blocks are counted modulo 2^16. -/
structure LinkPort where
  st : PortState := .off
  /-- The training under way is a fast retrain. -/
  fast : Bool := false
  /-- When TRAIN or DOWN was entered. -/
  since : Word := 0
  everUp : Bool := false
  version : BitVec 2 := 0
  heldReason : BitVec 3 := 0
  /-- This end has accepted the neighbour's IDENT. -/
  accepted : Bool := false
  /-- Words 0 and 8 of the last well-formed IDENT received since full training (Table 11-4). -/
  ident : Option (Word × Word) := none
  /-- LANE_MAP: physical lane of each logical lane; 8 to 11 are the die's spares. -/
  lanes : List Nat := [0, 1, 2, 3, 4, 5, 6, 7]
  /-- Physical lanes out of use until module reset (R410), and the last failure of each logical lane. -/
  dead : List Nat := []
  failed : List (Nat × Option Word) := []
  sparing : Option Sparing := none
  /-- Lanes that have failed and wait for the switch under way to end, oldest first (R410, R418). -/
  again : List Nat := []
  reinedRx : Bool := false
  /-- BSEQ of the next block sent, and the blocks not acknowledged, oldest first, each with the frame it carries. -/
  nextSeq : BitVec 16 := 0
  replay : List (BitVec 16 × Option TxFrame) := []
  /-- BSEQ of the last good block received in order, and whether NAK is set. -/
  rxSeq : BitVec 16 := 0xFFFF
  nak : Bool := false
  /-- Successive NAKs received for one BSEQ. -/
  naks : Option (BitVec 16 × Nat) := none
  /-- Units sent on each VC, units the peer has freed, and units freed here, of VC 0 to VC 3. -/
  sentUnits : List (BitVec 16) := [0, 0, 0, 0]
  peerFreed : List (BitVec 16) := [0, 0, 0, 0]
  freed : List (BitVec 16) := [0, 0, 0, 0]
  queue : List TxFrame := []
  /-- Frames received for other members that wait for their output link, oldest first. -/
  transit : List Frame := []
  /-- The steps whose totals the port and its girth are counting (R361). -/
  step : Option Word := none
  girthStep : Option Word := none
  deriving DecidableEq, Repr

/-- What a collective serves: a routine with an argument block, STEP_CHECK, or MIRROR_DIGEST (R588). -/
inductive CollUse where
  | routine | check | digest
  deriving DecidableEq, Repr

/-- A stage of a schedule (Table 11-11): LEN in units, OFFSET in bytes (in elements for RECV_GIRTH). -/
structure Stage where
  op : Nat
  left : Bool
  sig : Bool
  nocomb : Bool
  peer : Nat
  fwd : Nat
  tag : Nat
  bind : Nat
  len : Nat
  off : Nat
  deriving DecidableEq, Repr

/-- How far a stage has come: started, the port its frames come on once one has, which units it has written, how many of its frames
have not left, and ended. -/
structure Prog where
  started : Bool := false
  via : Option Nat := none
  got : List (Nat × Bool) := []
  frames : Nat := 0
  done : Bool := false
  deriving DecidableEq, Repr

/-- An open collective (R428 to R446). `buf` is its HBM buffer; a step check or digest comparison has the bytes of its
record in `record` instead. `heard` gives each child's AND and OR. -/
structure Coll where
  id : Nat
  sched : Nat
  step : Word
  stamp : Word
  use : CollUse
  die : Nat
  slot : Nat
  fmt : Nat
  op : Nat
  ctr : Option Nat
  buf : Nat
  binds : List (Nat × Nat)
  parent : Nat
  children : List Nat
  stages : List Stage
  prog : List Prog
  heard : List (Nat × Word × Word) := []
  openSent : Bool := false
  agree : Option Bool := none
  timer : Word
  coincided : Bool := false
  record : List Host.Cell := []
  deriving DecidableEq, Repr

/-- A collective that a timeout ended (R443 to R445): its state then, and when. -/
structure TimedOut where
  coll : Coll
  time : Word
  deriving DecidableEq, Repr

/-- A chunk in a girth's landing buffer (R346, R347): its port, its stage, the binding with its index in the table, the
step, the first element, the number of elements and their width, the gradient bytes and which units of them have landed, the
trips done, and the kernel store bank it runs from once it is open. -/
structure Landing where
  port : Nat
  coll : Nat
  stage : Nat
  bind : Nat
  index : Nat
  step : Word
  first : Nat
  count : Nat
  width : Nat
  grad : List Host.Cell := []
  got : List (Nat × Bool) := []
  trips : Nat := 0
  bank : Nat := 0
  deriving DecidableEq, Repr

/-- A mirror copy in progress at one end (R393, R438, R526): as source, the bytes of its ranges sent so far and whether the
peer's digest is awaited. -/
structure MirrorCopy where
  source : Bool
  peer : Nat
  srcMirror : Bool
  dstMirror : Bool
  ticket : Option (BitVec 32)
  done : Nat := 0
  timer : Word
  deriving DecidableEq, Repr

/-- An MCOPY frame that waits for the MIRROR lock (R526): its port, the class that its copy writes, and when it came. -/
structure HeldCopy where
  port : Nat
  frame : Frame
  mirror : Bool
  time : Word
  deriving DecidableEq, Repr

/-- The fabric (11). -/
structure Fabric where
  colls : List Coll := []
  ended : List TimedOut := []
  landing : List Landing := []
  copy : Option MirrorCopy := none
  /-- Link ports 0 to 11; a port that is not listed is as at module reset. -/
  ports : List (Nat × LinkPort) := []
  /-- Frames for this member that wait in a receive buffer, with their port, oldest first. -/
  buffer : List (Nat × Frame) := []
  /-- MCOPY frames that wait for the MIRROR lock (R526), oldest first. -/
  copyHeld : List HeldCopy := []
  /-- Counters marked by a routine that waits for fabric arrivals (R362): the counter, and the collective and step of the routine. -/
  marks : List (Nat × Nat × Word) := []
  /-- Time of the last ROUTE_DROP of each input, and frames dropped since. -/
  dropLog : List (Nat × Option (Word × Nat)) := []
  deriving DecidableEq, Repr

/-- A binding of an UPDATE given to a burnisher (R343): the die and slot of the UPDATE, its index in the list, its address
and its bytes, its step, the trips done, and the kernel store bank it runs from once it is open. -/
structure UpdWork where
  die : Nat
  slot : Nat
  index : Nat
  bind : Nat
  bytes : Bytes
  step : Word
  trips : Nat := 0
  bank : Nat := 0
  deriving DecidableEq, Repr

/-- The update units (09): the bindings waiting at each burnisher, in list order, and the sums of squared gradient elements
of trips whose segment is not complete (R351): binding address, step, trip and sum. -/
structure Update where
  queues : List (Nat × List UpdWork) := []
  norms : List (Nat × Word × Nat × Word) := []
  deriving DecidableEq, Repr

/-- A value held with its complement (R18, R28). -/
structure Held where
  v : Word := 0
  inv : Word := ~~~0
  deriving DecidableEq, Repr

/-- A value as it is stored, its complement with it. -/
def Held.of (v : Word) : Held := ⟨v, ~~~v⟩
/-- The two agree. -/
def Held.ok (x : Held) : Bool := complOk x.v x.inv

/-- The verdict of a step (R376). -/
structure Verdict where
  step : Word
  pass : Bool
  req : BitVec 2
  loss : Held
  lossSum : Held
  deriving DecidableEq, Repr

/-- Restore verification (R401): the step it waits for, LOSS_NEXT and LOSS_SUM_NEXT. -/
structure VerifyArm where
  step : Word
  loss : Held
  lossSum : Held
  deriving DecidableEq, Repr

/-- Step assurance (10): which fragments of each slot's records have been received, by slot then position index × 2,048 +
fragment; the step of a dry replay; restore verification; the last verdict and those before it, newest first; the requests latched for the verdict under
way, with the step's local loss, FAIL bits and REQ; and the steps of the verdicts that last carried each request. -/
structure Assure where
  got : List (Nat × List (Nat × Bool)) := []
  dry : Option Word := none
  verify : Option VerifyArm := none
  verdict : Option Verdict := none
  older : List Verdict := []
  loss : Held := {}
  fail : BitVec 8 := 0
  req : BitVec 2 := 0
  lastDigest : Option Word := none
  lastCkpt : Option Word := none
  deriving DecidableEq, Repr

/-- What the module has sent on its host ports and link ports. An OMCP packet and an echo reply carry the flags and fragment offset of
their IPv4 header, where they have one (R452). -/
inductive Sent where
  | omcp (a : Fin 2) (dest : NetAddr) (frag : Option (BitVec 16)) (pkt : OmcpPacket)
  | arpReply (a : Fin 2) (dest : NetAddr) (ip : BitVec 32)
  | neighborAdvert (a : Fin 2) (dest : NetAddr) (ip : BitVec 128)
  | addressProbe (a : Fin 2) (ip : BitVec 128)
  | echoReply (a : Fin 2) (dest : NetAddr) (frag : Option (BitVec 16)) (data : Bytes)
  | frame (p : Fin 12) (vc : Nat) (f : Frame)
  | control (p : Fin 12) (ctl : BitVec 80)
  deriving DecidableEq, Repr

/-- The state of the module. `pending` is the queue of commands, first in first out; `freeCount` numbers the free
values drawn so far (the model's own fields; DESIGN CHOICE, log entries 2 and 10). -/
structure State where
  pending : List Instr := []
  freeCount : Nat := 0
  /-- Module time base, ns (R360). -/
  time : Word := 0
  /-- Newest first. -/
  sent : List Sent := []
  /-- Register words by address, each as its difference (xor) from the register's reset value; 0 where not listed. -/
  regs : List (Nat × Word) := []
  /-- Totals of the phase timers (R361), in ns, by 8 × unit + category. -/
  phases : List (Nat × Nat) := []
  /-- The complements with which the configuration store holds its fields (R28, R514): the RW and RWL bits of a register, by
  address, each as its difference from the complement of the reset value. -/
  cfgInv : List (Nat × Word) := []
  m : Mgmt := {}
  h : HostSide := {}
  c : ConfigStore := {}
  sec : Security := {}
  maint : Maint := {}
  mem : Mem := {}
  d : Disp := {}
  /-- Saddles 0 to 299. -/
  sdl : List (Nat × Saddle) := []
  /-- Vector units: of saddle n at n, of burnisher n at 300 + n, of girth p at 332 + p. -/
  vec : List (Nat × Vec) := []
  f : Fabric := {}
  u : Update := {}
  a : Assure := {}
  deriving DecidableEq, Repr

/-- Reasons the machine stops with a fault: none. Every fault the spec describes is a next state (a completion
record, an event, a status), so no command raises one. -/
inductive Fault where
  deriving DecidableEq, Repr

/-- Reasons a command has no meaning. -/
inductive Refusal where
  /-- Raised by exec for a command that has no meaning yet; safe. -/
  | notModelled (mnemonic : String)
  /-- Raised by an event row that cannot occur in the state (a ramp that ends where none runs, a packet on a port
  whose link is down); the spec gives such an event no effect, and a run stops there; safe. -/
  | notEnabled (row : String)
  deriving DecidableEq, Repr

/-- The outcome of a command. -/
abbrev Out := Host.Outcome State Fault Refusal

/-- The module right after reset: no input power, every register at its reset value (16), nothing stored. -/
def State.reset : State := {}

end Sys2Proof.Machine
end

