-- ==== Sys2Proof/Machine/Regs.lean ====
section
/-! DEFINITION. Register words (R543, R549): reading and writing them whole and by field. -/

namespace Sys2Proof.Machine

def State.reg (s : State) (k : RegKind) (i j : Nat) : Word := sget 0 s.regs (regAddr k i j) ^^^ regReset k i

def State.setReg (s : State) (k : RegKind) (i j : Nat) (v : Word) : State :=
  { s with regs := sset 0 s.regs (regAddr k i j) (v ^^^ regReset k i) }

/-- The complement with which the configuration store holds the RW and RWL fields of a register (R28, R514). -/
def State.regInv (s : State) (k : RegKind) (i j : Nat) : Word :=
  sget 0 s.cfgInv (regAddr k i j) ^^^ (~~~(regReset k i) &&& keepMask k)

def State.setInv (s : State) (k : RegKind) (i j : Nat) (v : Word) : State :=
  { s with cfgInv := sset 0 s.cfgInv (regAddr k i j) ((v ^^^ ~~~(regReset k i)) &&& keepMask k) }

/-- Write a register with the complement of its configuration fields (R28). -/
def State.setCfg (s : State) (k : RegKind) (i j : Nat) (v : Word) : State := (s.setReg k i j v).setInv k i j (~~~v)

/-- One field of a register word. -/
def State.fld (s : State) (k : RegKind) (i j lo n : Nat) : Nat := field (s.reg k i j) lo n

def State.setFld (s : State) (k : RegKind) (i j lo n v : Nat) : State :=
  s.setReg k i j (setField (s.reg k i j) lo n v)

/-- Add to a counter field that wraps. -/
def State.countWrap (s : State) (k : RegKind) (i j lo n add : Nat) : State :=
  s.setFld k i j lo n (s.fld k i j lo n + add)

/-- Add to a counter field that holds at its largest value. -/
def State.countHold (s : State) (k : RegKind) (i j lo n add : Nat) : State :=
  s.setFld k i j lo n (min (2 ^ n - 1) (s.fld k i j lo n + add))

/-- Write a value register and its _INV companion (R28). -/
def State.setPair (s : State) (k ki : RegKind) (i : Nat) (v : Word) : State :=
  (s.setReg k i 0 v).setReg ki i 0 (~~~v)

/-- A value register agrees with its _INV companion (R18): CFG_ROLE over its 37 bits (Table 10-18), the others over all 64. -/
def regHeld (s : State) (k : RegKind) : Bool :=
  match invCompanion k with
  | some ki => s.reg ki 0 0 == ~~~(s.reg k 0 0) &&& (if k = .cfgRole then 0x1FFFFFFFFF else ~~~0)
  | none => true

end Sys2Proof.Machine
end

