-- ==== Sys2Proof/Machine/Waits.lean ====
section
/-! DEFINITION. What units wait for: counters (R175, R176), the stages of collectives (R430), trips of girths (R347) and routines
that wait only for fabric arrivals (R207). -/

namespace Sys2Proof.Machine

/-! Stirrups. -/

def State.stir (s : State) (t : Nat) : Stirrup := sget {} s.d.stirrups t
def State.setStir (s : State) (t : Nat) (x : Stirrup) : State :=
  { s with d := { s.d with stirrups := sset {} s.d.stirrups t x } }

def State.stepOf (s : State) (t : Nat) : Word := s.reg .dspStep t 0

/-! Descriptor words (R160 to R163). -/

def dWord (ws : List Word) (off : Nat) : Word := ws.getD (off / 8) 0
/-- A field of n bits at bit lo of the word at a byte offset that is a multiple of 8. -/
def dField (ws : List Word) (off lo n : Nat) : Nat := field (dWord ws off) lo n
def dOpcode (ws : List Word) : Nat := dField ws 0 56 8
def dKgen (ws : List Word) : Nat := dField ws 0 40 16
def dSlot (ws : List Word) : Nat := dField ws 0 8 24
def dEvent (ws : List Word) : Bool := bit (dWord ws 0) 38
def dNoRunahead (ws : List Word) : Bool := bit (dWord ws 0) 39

/-- The wait fields (Table 5-3). -/
def dWait (ws : List Word) (i : Nat) : Word := dWord ws (16 + 8 * i)
def waitOn (w : Word) : Bool := bit w 63
def waitCtr (w : Word) : Nat := field w 48 12
def waitTerm (w : Word) : Nat := field w 24 24
def waitTermInv (w : Word) : Nat := field w 0 24

/-! Counters (R174 to R176). -/

def ctrValue (s : State) (c : Nat) : Nat := s.fld .dspCtr c 0 0 24

/-- The target of a wait (R176). -/
def waitTarget (s : State) (c term : Nat) (step : Word) : Nat :=
  (s.fld .dspCtrCfg c 0 0 24 * (step - s.reg .cfgStartStep 0 0).toNat + term) % 2 ^ 24

/-- The wait is satisfied (R176). -/
def waitMet (s : State) (c term : Nat) (step : Word) : Bool :=
  (ctrValue s c + 2 ^ 24 - waitTarget s c term step) % 2 ^ 24 < 2 ^ 23

/-- Both waits are satisfied at a step (R176). -/
def waitsMet (s : State) (ws : List Word) (step : Word) : Bool :=
  [dWait ws 0, dWait ws 1].all fun w => !waitOn w || waitMet s (waitCtr w) (waitTerm w) step

/-! Routes and roles. -/

def imgByte (img : Bytes) (o : Nat) : Nat := (img.getD o 0).toNat
def imgNat (img : Bytes) (o n : Nat) : Nat := leNat ((img.drop o).take n)
def imgWord (img : Bytes) (o : Nat) : Word := BitVec.ofNat 64 (imgNat img o 8)

/-- The member that holds a role. -/
def roleMember (img : Bytes) (role : Nat) : Option Nat :=
  let e := imgNat img (128 + 2 * role) 2
  if e.testBit 15 ∧ role < 4096 then some (e % 4096) else none

/-- The route entry (IN, DEST): the output port, 15 for local delivery, and OUT_VC. -/
def routeEntry (img : Bytes) (inp dest : Nat) : Option (Nat × Nat) :=
  let e := imgByte img (8416 + 4096 * inp + dest)
  if e.testBit 7 then some (e % 16, e / 32 % 4) else none

/-! Collectives. -/

/-- Bytes of one element of a direct FMT code (Table 5-6a); RAW counts bytes. -/
def elemBytes : Nat → Nat
  | 1 => 8 | 2 => 4 | 3 => 2 | 4 => 2 | 7 => 4 | _ => 1

/-- Where a stage's local range begins, from BUF (R430). -/
def stageStart (c : Coll) (st : Stage) : Nat :=
  if st.op = 3 then (c.binds.getD st.bind (0, 0)).2 + st.off * elemBytes c.fmt else st.off

def stageBytes (st : Stage) : Nat := 64 * st.len

/-- The local ranges of two stages overlap. -/
def stagesMeet (c : Coll) (x y : Stage) : Bool :=
  decide (stageStart c x < stageStart c y + stageBytes y ∧ stageStart c y < stageStart c x + stageBytes x)

def State.coll (s : State) (id : Nat) : Option Coll := s.f.colls.find? fun c : Coll => c.id == id

/-- Every earlier stage whose local range overlaps its own has completed (R430). -/
def mayStart (c : Coll) (k : Nat) (st : Stage) : Bool :=
  ((c.stages.zip c.prog).take k).all fun x : Stage × Prog => x.2.done || !stagesMeet c x.1 st

/-! Girths. -/

/-- Elements of the next trip of a chunk. -/
def chunkNext (x : Landing) : Nat := min 1024 (x.count - 1024 * x.trips)

/-- Every unit of the next trip's gradient has landed (R347). -/
def tripLanded (x : Landing) : Bool :=
  let lo := 1024 * x.trips * x.width
  let hi := lo + chunkNext x * x.width
  (List.range (ceilDiv hi 64 - lo / 64)).all fun i => sget false x.got (lo / 64 + i)

/-- The chunk that girth p works on: the first to have landed whose collective is open. -/
def girthChunk (s : State) (p : Nat) : Option (Landing × Coll) :=
  (s.f.landing.filter fun x : Landing => x.port == p && decide (1024 * x.trips < x.count)).findSome? fun x =>
    (s.f.colls.find? fun c : Coll => c.id == x.coll && c.step == x.step).map fun c => (x, c)

/-- Step s − 1 has passed (R347, R370), as far as BRC_LAST_RELEASED agrees with its complement (R29). -/
def priorPassed (s : State) (step : Word) : Bool := regHeld s .brcLastReleased && decide (0 ≤ (s.reg .brcLastReleased 0 0 - (step - 1)).toInt)

/-! Quiescence (R207). -/

/-- A TACK_CALL whose routine waits only for fabric arrivals; one whose collective restore has closed (R439) waits for its
replay. -/
def waitsFabric (s : State) (t : Nat) (f : InFlight) : Bool :=
  match s.d.tack.find? fun r : TackRun => r.die + 300 == t && r.slot == f.slot && r.step == f.step with
  | none => false
  | some r =>
    match r.phase with
    | .collective id =>
      match s.coll id with
      | none => true
      | some c =>
        dOpcode f.words == 0x40 && f.phase == .executing
          && ((c.stages.zip c.prog).zipIdx.all fun z : (Stage × Prog) × Nat => z.1.2.frames == 0 && (z.1.2.started || !mayStart c z.2 z.1.1))
          && !(c.agree == some true && c.prog.all fun q : Prog => q.done)
          && !(s.f.landing.any fun x : Landing => x.coll == c.id && tripLanded x && priorPassed s x.step)
    | _ => false

end Sys2Proof.Machine
end

