-- ==== Sys2Proof/Machine/Timer.lean ====
section
/-! DEFINITION. Module time (R360) and the phase timers (R361, Table 9-8). A timer's totals are kept by unit and category: stirrup t is unit
t, girth p unit 304 + p and link port p unit 316 + p. Where the model's rows take no time (a trip, a frame), the category that counts
it sees what of it lasts (DESIGN CHOICE, log entry 16). -/

namespace Sys2Proof.Machine

def girthUnit (p : Nat) : Nat := 304 + p
def portUnit (p : Nat) : Nat := 316 + p
/-- Units with a timer. -/
def timerUnits : Nat := 328

/-! Categories (Table 9-8). -/

/-- The port on which the frames of a receive stage come: the one they have come on, or else the way to its PEER (R424; DESIGN CHOICE,
log entry 16). -/
def stagePort (s : State) (st : Stage) (q : Prog) : Option Nat :=
  match q.via with
  | some p => some p
  | none =>
    match (roleMember s.c.route st.peer).bind fun m => routeEntry s.c.route 12 m with
    | some (o, _) => if o < 12 then some o else none
    | none => none

/-- An open collective waits for data on a port: a receive stage has not completed. -/
def awaitsData (s : State) (p : Nat) (c : Coll) : Bool :=
  (c.stages.zip c.prog).any fun z : Stage × Prog => z.1.op != 0 && !z.2.done && stagePort s z.1 z.2 == some p

/-- Category of link port p. A frame sent and not yet acknowledged is payload that moves. -/
def portCat (s : State) (p : Nat) : Nat :=
  let x : LinkPort := sget {} s.f.ports p
  let sends := x.queue.any fun t : TxFrame => t.owner.isSome
  if x.st == .train || x.sparing.isSome then 0
  else if sends && !s.m.gateOpen then 1
  else if x.replay.any fun b : BitVec 16 × Option TxFrame => b.2.isSome then 2
  else if s.f.colls.isEmpty || !(sends || s.f.colls.any (awaitsData s p)) then 5
  else if x.reinedRx then 3
  else 4

/-- The mark of a counter (R362): 0 none, 1 FABRIC, 2 REINED_PEER, which it is while a port that its routine waits on is in that
category. -/
def counterMark (s : State) (c : Nat) : Nat :=
  match s.f.marks.find? fun m : Nat × Nat × Word => m.1 == c with
  | none => 0
  | some m =>
    match s.coll m.2.1 with
    | none => 1
    | some x =>
      let slow := (x.stages.zip x.prog).any fun z : Stage × Prog =>
        z.1.op != 0 && z.1.sig && !z.2.done && (match stagePort s z.1 z.2 with
          | some p => portCat s p == 3
          | none => false)
      if slow then 2 else 1

/-- The head is held at check 6: the counters of its waits that are not satisfied. -/
def heldOn (s : State) (t : Nat) : List Nat :=
  let x := s.stir t
  match x.fetched with
  | f :: _ =>
    if x.hold = 6 then
      ([dWait f.words 0, dWait f.words 1].filter fun w => waitOn w && !waitMet s (waitCtr w) (waitTerm w) (s.reg .dspStep t 0)).map waitCtr
    else []
  | [] => []

/-- Counters that TACK_CALLs in flight, waiting for fabric, will signal. -/
def fabricOn (s : State) (t : Nat) : List Nat :=
  (s.f.colls.filter fun c : Coll => 300 + c.die == t && (s.stir t).flight.any fun f : InFlight =>
    f.slot == c.slot && f.step == c.step && dOpcode f.words == 0x40 && waitsFabric s t f).filterMap fun c : Coll => c.ctr

/-- Category of stirrup t. -/
def stirrupCat (s : State) (t : Nat) : Nat :=
  let x := s.stir t
  let held := heldOn s t
  let marks := (held ++ fabricOn s t).map (counterMark s)
  if x.st != .run then 0
  else if x.hold == 8 && !s.m.gateOpen then 1
  else if x.flight.any fun f : InFlight => dOpcode f.words != 0x01 && !waitsFabric s t f then 2
  else if marks.contains 2 then 3
  else if marks.contains 1 then 4
  else if x.flight.any fun f : InFlight => dOpcode f.words == 0x01 then 5
  else if !held.isEmpty then 6
  else 7

/-- Category of girth p. With the gate closed the start of a trip whose elements are there is gated, whatever else it waits for. -/
def girthCat (s : State) (p : Nat) : Nat :=
  match girthChunk s p with
  | none => 5
  | some (x, _) =>
    if tripLanded x && !s.m.gateOpen then 0
    else if !tripLanded x then 4
    else if !priorPassed s x.step then 3
    else 2

/-- Category of a unit. -/
def unitCat (s : State) (u : Nat) : Nat :=
  if u < 304 then stirrupCat s u else if u < 316 then girthCat s (u - 304) else portCat s (u - 316)

/-! Totals. -/

/-- Add n to the totals of some keys, in rising order. -/
def addTimes (n : Nat) : List (Nat × Nat) → List Nat → List (Nat × Nat)
  | [], ks => ks.map fun k => (k, n)
  | (k, v) :: m, ks =>
    let rest := ks.dropWhile fun j => decide (j < k)
    ((ks.takeWhile fun j => decide (j < k)).map fun j => (j, n))
      ++ (if rest.head? = some k then (k, v + n) :: addTimes n m rest.tail else (k, v) :: addTimes n m rest)

/-- Nanoseconds that a unit has spent in a category since its step began. -/
def State.phaseTime (s : State) (u k : Nat) : Word := BitVec.ofNat 64 (sget 0 s.phases (8 * u + k) % 2 ^ 48)

/-- A unit's totals begin again at zero. -/
def clearPhases (s : State) (u : Nat) : State :=
  { s with phases := s.phases.filter fun z : Nat × Nat => z.1 / 8 != u }

/-- n nanoseconds pass: every unit counts them under its category (R361). -/
def State.pass (s : State) (n : Nat) : State :=
  { s with time := s.time + BitVec.ofNat 64 n, phases := addTimes n s.phases ((List.range timerUnits).map fun u => 8 * u + unitCat s u) }

/-- Carry module time forward to an instant, never back. -/
def State.atTime (s : State) (t : Word) : State := if s.time.toNat < t.toNat then s.pass (t.toNat - s.time.toNat) else s

/-- One nanosecond at the input stage with power off: qualification goes on while MATED is seated and MOD_EN is high (R561, R568). -/
def InputStage.tick (x : InputStage) : InputStage :=
  { x with vinHeld := if x.mated && x.modEn then x.vinHeld + 1 else 0, offFor := x.offFor + 1 }

/-- One nanosecond passes (DESIGN CHOICE, log entry 10). Module time goes on once input power is applied (R360); without it only the
input stage counts. -/
def State.tick (s : State) : State :=
  if s.m.supplied then s.pass 1 else { s with m := { s.m with input := s.m.input.tick } }

end Sys2Proof.Machine
end

