-- ==== Sys2Proof/Machine/Ops.lean ====
section
/-! DEFINITION. The operations every family shares: register words (R543, R549), the event log (R553 to R557), free
values, notifications, tickets (R461, R472) and the buckle (R464 to R466). -/

namespace Sys2Proof.Machine

/-! Register words. -/

def State.after (s : State) (ns : Nat) : Word := s.time + BitVec.ofNat 64 ns

/-- Draw a free word. -/
def State.free (s : State) : Word × State := (Config.freeWord s.freeCount, { s with freeCount := s.freeCount + 1 })

/-- Free bytes. -/
def freeBytes : Nat → State → Bytes × State
  | 0, s => ([], s)
  | n + 1, s =>
    let (w, s1) := s.free
    let (bs, s2) := freeBytes n s1
    (BitVec.setWidth 8 w :: bs, s2)

def State.send (s : State) (x : Sent) : State := { s with sent := x :: s.sent }

/-- An event that the health monitor counts on input i (Table 10-11). -/
def State.bump (s : State) (i n : Nat) : State :=
  { s with m := { s.m with hlt := sset 0 s.m.hlt i (sget 0 s.m.hlt i + n) } }

/-! Sources of events (Table 16-12). -/

structure Src where
  kind : Nat
  index : Nat
  deriving DecidableEq, Repr

def srcModule : Src := ⟨0, 0⟩
def srcStirrup (t : Nat) : Src := ⟨1, t⟩
def srcSaddle (n : Nat) : Src := ⟨2, n⟩
def srcDie (n : Nat) : Src := ⟨3, n⟩
def srcStack (n : Nat) : Src := ⟨4, n⟩
def srcLink (p : Nat) : Src := ⟨5, p⟩
def srcHost (a : Nat) : Src := ⟨6, a⟩
def srcDomain (k : Nat) : Src := ⟨7, k⟩
def srcRail (i : Nat) : Src := ⟨8, i⟩
def srcGirth (p : Nat) : Src := ⟨9, p⟩
def srcBurnisher (n : Nat) : Src := ⟨10, n⟩

/-- The eight words of entry number n (Table 16-11). -/
def entryWords (n : BitVec 32) (e : LogEntry) : List Word :=
  [ place 32 32 n.toNat ||| place 16 16 e.code.toNat, e.time, e.step, ~~~e.step,
    place 60 4 e.srcKind.toNat ||| place 48 12 e.srcIndex.toNat ||| placeBit 47 e.slot.isSome
      ||| place 0 24 ((e.slot.getD 0).toNat), e.p0, e.p1, e.p2 ]

def HostSide.port (h : HostSide) (a : Fin 2) : HostPort := if a = 0 then h.portA else h.portB
def HostSide.setPort (h : HostSide) (a : Fin 2) (x : HostPort) : HostSide :=
  if a = 0 then { h with portA := x } else { h with portB := x }

def State.session (s : State) (a : Fin 2) : Option Session := (s.h.port a).session

def State.setSession (s : State) (a : Fin 2) (x : Option Session) : State :=
  { s with h := s.h.setPort a { s.h.port a with session := x } }

/-- Flags and fragment offset of the IPv4 header of a packet that the module sends: Don't Fragment, offset 0 (R452); none in the other
forms. -/
def ipv4Fragment (d : NetAddr) : Option (BitVec 16) :=
  match d.form with
  | .udp4 => some 0x4000
  | .raw | .udp6 => none

/-- Send an OMCP packet from a host port. -/
def State.sendOmcp (s : State) (a : Fin 2) (d : NetAddr) (k : OmcpPacket) : State := s.send (.omcp a d (ipv4Fragment d) k)

/-- Send one NOTIFY of a kind to the session of a port (R472); nothing where none is open. A DONE carries its ticket. -/
def notify (s : State) (a : Fin 2) (kind : Nat) (ticket : BitVec 32) (payload : Bytes) : State :=
  match s.session a with
  | none => s
  | some x =>
    let n := x.notes + 1
    let pkt : OmcpPacket := ⟨x.ver, 2, 0, BitVec.ofNat 16 kind, 0, x.id, n, ticket, s.reg .aflStamp 0 0, payload⟩
    (s.setSession a (some { x with notes := n })).sendOmcp a x.peer pkt

/-- Notify the session of a port of an entry whose class it has subscribed to (R559). -/
def notifyEntry (s : State) (a : Fin 2) (n : BitVec 32) (e : LogEntry) : State :=
  if bit (s.reg .omcEventSub a.val 0) (field (BitVec.setWidth 64 e.code) 8 8) then
    notify s a 2 0 (wordsBytes (entryWords n e))
  else s

/-- Log one event (R553 to R557). `desc` gives step and slot of the descriptor it concerns; without one, STEP is the
step of die stirrup 300 (R555). -/
def logEvent (s : State) (code : Nat) (src : Src) (desc : Option (Word × BitVec 24)) (p0 p1 p2 : Word) : State :=
  let step := match desc with
    | some d => d.1
    | none => s.reg .dspStep 300 0
  let e : LogEntry := ⟨BitVec.ofNat 16 code, s.time, step, BitVec.ofNat 4 src.kind, BitVec.ofNat 12 src.index,
    desc.map Prod.snd, p0, p1, p2⟩
  let n := s.h.logHead
  let s1 := { s with h := { s.h with log := (e :: s.h.log).take 4096, logHead := n + 1 } }
  notifyEntry (notifyEntry s1 0 n e) 1 n e

/-- Log an event that no descriptor is concerned by. -/
def logModule (s : State) (code : Nat) (src : Src) (p0 p1 p2 : Word) : State := logEvent s code src none p0 p1 p2

/-- A mismatch of a value and its complement (R29): `kind` is the value's row of Table 1-5. -/
def logComplement (s : State) (src : Src) (kind : Nat) (v inv : Word) : State :=
  logModule (s.bump 5 1) 0x0C00 src (BitVec.ofNat 64 kind) v inv

/-- The row of Table 1-5 of a value register. -/
def heldKind : RegKind → Nat
  | .brcPos0 => 6
  | .updSeedShared | .updSeedRole | .updSeedPartner => 7
  | .brcLastReleased | .updFront => 5
  | _ => 2

/-- The first of some value registers that does not agree with its companion: its row of Table 1-5, and the pair. -/
def firstUnheld (s : State) (ks : List RegKind) : Option (Nat × Word × Word) :=
  (ks.find? fun k : RegKind => !regHeld s k).map fun k =>
    (heldKind k, s.reg k 0 0, match invCompanion k with
      | some ki => s.reg ki 0 0
      | none => 0)

/-- COMPLEMENT_ERROR of the first of some value registers that is to be used and does not agree (R29). -/
def noteHeld (s : State) (ks : List RegKind) : State :=
  match firstUnheld s ks with
  | none => s
  | some (k, v, inv) => logComplement s srcModule k v inv

/-- The member's role, first position and seeds: what a checkpoint's header and a restore use (R395, R398). -/
def heldBad (s : State) : Option (Nat × Word × Word) := firstUnheld s [.cfgRole, .brcPos0, .updSeedShared, .updSeedRole]

/-- COMPLEMENT_ERROR of a value that the module holds itself (R28, R29). -/
def noteValue (s : State) (kind : Nat) (x : Held) : State := if x.ok then s else logComplement s srcModule kind x.v x.inv

/-! The buckle. -/

/-- A word of milliseconds, in ns. -/
def msNs (ms : Nat) : Nat := ms * 1000000

/-- P0 of BKL_EXPIRED. -/
def holderWord (a : Fin 2) (sid : BitVec 16) : Word := place 48 16 sid.toNat ||| place 47 1 a.val

def freeBuckle (s : State) : State :=
  { s with h := { s.h with buckle := { holder := none, expiry := 0, pins := [], release := false, lapsed := s.h.buckle.lapsed } } }

/-- The lease has run out: the buckle is freed and the expiry logged (R464). -/
def expireBuckle (s : State) : State :=
  match s.h.buckle.holder with
  | none => s
  | some (a, sid) =>
    let s1 := freeBuckle s
    let s2 := { s1 with h := { s1.h with buckle := { s1.h.buckle with lapsed := some (a, sid, s.time) } } }
    logModule s2 0x0600 (srcHost a.val) (holderWord a sid) 0 0

/-- Take a ticket's pin off the buckle (R465): with the last pin gone, a release that waits is done, and a lease that
has passed expires. -/
def unpin (s : State) (ticket : BitVec 32) : State :=
  let b := s.h.buckle
  if ticket ∈ b.pins then
    let pins := b.pins.erase ticket
    let s1 := { s with h := { s.h with buckle := { b with pins := pins } } }
    if pins.isEmpty then
      if b.release then freeBuckle s1
      else if b.expiry.toNat ≤ s.time.toNat then expireBuckle s1
      else s1
    else s1
  else s

/-! Tickets. -/

/-- Open a ticket for an opcode (R461); a command that needs the buckle pins it (R465). -/
def openTicket (s : State) (q : Req) (opcode status : Nat) (pins : Bool) : BitVec 32 × State :=
  let n := s.h.nextTicket
  let t : Ticket := ⟨n, BitVec.ofNat 16 opcode, BitVec.ofNat 16 status, false, q.session, q.port, 0⟩
  let keep := s.h.tickets.filter fun x : Ticket => !x.done || (n - x.num).toNat < 256
  let b := s.h.buckle
  (n, { s with h := { s.h with nextTicket := n + 1, tickets := t :: keep, buckle := if pins then { b with pins := n :: b.pins } else b } })

def State.ticket (s : State) (n : BitVec 32) : Option Ticket := s.h.tickets.find? fun x : Ticket => x.num = n

/-- End a ticket with its one DONE (R461), some words after DETAIL: the notification goes to the session that issued the command, if
it is still open, and the pin comes off the buckle. -/
def finishTicketWith (s : State) (n : BitVec 32) (status : Nat) (detail : Word) (more : List Word) : State :=
  match s.ticket n with
  | none => s
  | some t =>
    let t' : Ticket := { t with status := BitVec.ofNat 16 status, done := true, detail := detail }
    let s1 := { s with h := { s.h with tickets := s.h.tickets.map fun x : Ticket => if x.num = n then t' else x } }
    let w0 := place 0 16 t.opcode.toNat ||| place 16 16 status ||| place 32 32 n.toNat
    let s2 := match s1.session t.port with
      | some x => if x.id = t.session then notify s1 t.port 1 n (wordsBytes ([w0, detail] ++ more)) else s1
      | none => s1
    unpin s2 n

/-- End a ticket with DETAIL alone. -/
def finishTicket (s : State) (n : BitVec 32) (status : Nat) (detail : Word) : State := finishTicketWith s n status detail []

/-- End the ticket of work that may have none (the tack's own requests). -/
def finishOpt (s : State) (n : Option (BitVec 32)) (status : Nat) (detail : Word) : State :=
  match n with
  | some k => finishTicket s k status detail
  | none => s

/-! Domains and module state. -/

def State.domain (s : State) (k : Nat) : Domain := sget {} s.m.domains k
def State.setDomain (s : State) (k : Nat) (d : Domain) : State :=
  { s with m := { s.m with domains := sset {} s.m.domains k d } }
def State.domainOn (s : State) (k : Nat) : Bool := (s.domain k).st == .on

/-- The power domain of a saddle group: saddle n lies in group n / 5 (R24, R476). -/
def saddleDomain (n : Nat) : Nat := n / 5

/-- The domain of stirrup t: its saddle's group, or the die-common domain of a die stirrup (R156, R476). -/
def stirrupDomain (t : Nat) : Nat := if t < 300 then t / 5 else 60 + (t - 300)

def modCode : ModState → Nat
  | .boot => 0 | .waitHost => 1 | .committing => 2 | .running => 3 | .resetting => 4 | .tripped => 5 | .fwRecovery => 6

def State.setMod (s : State) (x : ModState) : State := { s with m := { s.m with st := x } }

/-- The outcome of an event that cannot occur in the state. -/
def disabled (row : String) : Out := .refused (.notEnabled row)

end Sys2Proof.Machine
end

