-- ==== Sys2Proof/Machine/Float.lean ====
section
/-! DEFINITION. The number formats of 02_number_formats.md: floating-point encodings (R40 to R43), NaN propagation
(R44), rounding (R58, R60), conversions (R63 to R65) and IEEE arithmetic on exact dyadic values. -/

namespace Sys2Proof.Machine

/-- The floating-point formats of Table 2-2. -/
inductive Fmt where
  | fp64 | fp32 | bf16 | fp16 | e4m3 | e5m2 | e2m1
  deriving DecidableEq, Repr

/-- Fraction width (Table 2-2). -/
def fracBits : Fmt → Nat
  | .fp64 => 52 | .fp32 => 23 | .bf16 => 7 | .fp16 => 10 | .e4m3 => 3 | .e5m2 => 2 | .e2m1 => 1

/-- Exponent width (Table 2-2). -/
def expBits : Fmt → Nat
  | .fp64 => 11 | .fp32 => 8 | .bf16 => 8 | .fp16 => 5 | .e4m3 => 4 | .e5m2 => 5 | .e2m1 => 2

/-- Exponent bias (Table 2-2). -/
def expBias : Fmt → Nat
  | .fp64 => 1023 | .fp32 => 127 | .bf16 => 127 | .fp16 => 15 | .e4m3 => 7 | .e5m2 => 15 | .e2m1 => 1

/-- Bits of one code. -/
def fmtWidth (f : Fmt) : Nat := 1 + expBits f + fracBits f

/-- Magnitude code of the largest finite value (Table 2-3). -/
def maxFiniteCode : Fmt → Nat
  | .e4m3 => 0x7E
  | .e2m1 => 0x7
  | f => ((2 ^ expBits f - 1) <<< fracBits f) - 1

/-- A value as the arithmetic sees it: a finite dyadic number (−1)^neg · m · 2^e (m = 0 is a signed zero), an
infinity, or a NaN whose payload is the 52-bit fraction field it has when extended to FP64 (Table 2-7, last row). -/
inductive FV where
  | fin (neg : Bool) (m : Nat) (e : Int)
  | inf (neg : Bool)
  | nan (neg : Bool) (payload : Nat)
  deriving DecidableEq, Repr

/-- The quiet bit of a 52-bit fraction (R43). -/
def quietBit : Nat := 2 ^ 51

/-- The positive canonical NaN (R44). -/
def FV.qnan : FV := .nan false quietBit
def FV.zero : FV := .fin false 0 0
def FV.one : FV := .fin false 1 0
def FV.ofNat (n : Nat) : FV := .fin false n 0
def FV.ofInt (i : Int) : FV := .fin (decide (i < 0)) i.natAbs 0

def FV.isNaN : FV → Bool
  | .nan _ _ => true
  | _ => false
def FV.isInf : FV → Bool
  | .inf _ => true
  | _ => false
def FV.isFinite : FV → Bool
  | .fin _ _ _ => true
  | _ => false
def FV.isZero : FV → Bool
  | .fin _ 0 _ => true
  | _ => false
def FV.signBit : FV → Bool
  | .fin s _ _ => s
  | .inf s => s
  | .nan s _ => s
def FV.neg : FV → FV
  | .fin s m e => .fin (!s) m e
  | .inf s => .inf (!s)
  | .nan s p => .nan (!s) p
def FV.abs : FV → FV
  | .fin _ m e => .fin false m e
  | .inf _ => .inf false
  | .nan _ p => .nan false p

/-- Read a code of a format (R40, R41); a signalling NaN reads as quiet (R43). -/
def fdecode (f : Fmt) (code : Nat) : FV :=
  let fb := fracBits f
  let s := code.testBit (expBits f + fb)
  let E := (code >>> fb) % 2 ^ expBits f
  let F := code % 2 ^ fb
  let special := match f with
    | .e2m1 => false
    | .e4m3 => E == 15 && F == 7
    | _ => E == 2 ^ expBits f - 1
  if special then
    if F == 0 then .inf s else .nan s (F <<< (52 - fb) ||| quietBit)
  else if E == 0 then .fin s F (1 - (expBias f : Int) - fb)
  else .fin s (F + 2 ^ fb) ((E : Int) - expBias f - fb)

/-- How a store rounds: to nearest even (R58), or stochastically with the 16-bit draw of the element (R60). -/
inductive RMode where
  | rne
  | stoch (r : Nat)
  deriving DecidableEq, Repr

/-- Round num ÷ 2^k to an integer. -/
def roundShift (md : RMode) (num k : Nat) : Nat :=
  let a := num >>> k
  let rem := num - (a <<< k)
  match md with
  | .rne =>
    let half := 2 * rem
    if half > 2 ^ k || (half == 2 ^ k && a % 2 == 1) then a + 1 else a
  | .stoch r => if r < (rem <<< 16) >>> k then a + 1 else a

/-- Round the magnitude m · 2^e to the quantum 2^q: the multiple of the quantum. -/
def roundTo (md : RMode) (m : Nat) (e q : Int) : Nat :=
  if q ≤ e then m <<< (e - q).toNat else roundShift md m (q - e).toNat

/-- The quantum of format f near the magnitude m · 2^e, m > 0: exponent of its last fraction bit. -/
def quantumOf (f : Fmt) (m : Nat) (e : Int) : Int :=
  let qmin : Int := 1 - (expBias f : Int) - fracBits f
  max qmin ((Nat.log2 m : Int) + e - fracBits f)

/-- The code of a rounded magnitude, taking the exponent range as unbounded above (R63). -/
def magCode (f : Fmt) (md : RMode) (m : Nat) (e : Int) : Nat :=
  if m = 0 then 0 else
    let qmin : Int := 1 - (expBias f : Int) - fracBits f
    let q := quantumOf f m e
    ((q - qmin).toNat <<< fracBits f) + roundTo md m e q

/-- Flags a conversion sets (Table 2-8): saturated, overflowed, NaN. -/
structure StoreFlags where
  sat : Bool := false
  ovf : Bool := false
  nan : Bool := false
  rsvd : Bool := false
  deriving DecidableEq, Repr

def StoreFlags.or (a b : StoreFlags) : StoreFlags :=
  ⟨a.sat || b.sat, a.ovf || b.ovf, a.nan || b.nan, a.rsvd || b.rsvd⟩

/-- The sign bit of format f placed. -/
def signPlace (f : Fmt) (s : Bool) : Nat := if s then 2 ^ (expBits f + fracBits f) else 0

/-- The code of infinity's magnitude; formats without one answer the largest finite code. -/
def infCode (f : Fmt) : Nat :=
  match f with
  | .e4m3 => 0x7F
  | .e2m1 => 0x7
  | _ => (2 ^ expBits f - 1) <<< fracBits f

/-- The code of a NaN (R41, R64): the fraction bits that fit, the quiet bit set. -/
def nanCode (f : Fmt) (s : Bool) (payload : Nat) : Nat :=
  signPlace f s +
  match f with
  | .e4m3 => 0x7F
  | .e5m2 => 0x7E
  | .e2m1 => 0
  | _ => infCode f + ((payload ||| quietBit) >>> (52 - fracBits f))

/-- Convert a value to a direct float destination (Table 2-7) under a rounding mode, with the flags it sets. -/
def fconv (f : Fmt) (md : RMode) (v : FV) : Nat × StoreFlags :=
  match v with
  | .nan s p => (nanCode f s p, { nan := true })
  | .inf s =>
    match f with
    | .e4m3 => (signPlace f s + 0x7F, { nan := true })
    | .e2m1 => (signPlace f s + 0x7, { sat := true })
    | _ => (signPlace f s + infCode f, {})
  | .fin s m e =>
    let c := magCode f md m e
    if c ≤ maxFiniteCode f then (signPlace f s + c, {})
    else match f with
      | .e4m3 => (signPlace f s + 0x7E, { sat := true })
      | .e2m1 => (signPlace f s + 0x7, { sat := true })
      | _ => (signPlace f s + infCode f, { ovf := true })

/-- Round to nearest even into a format: the code of an arithmetic result (R58, R45). -/
def fround (f : Fmt) (v : FV) : Nat := (fconv f .rne v).1

/-- Round to an integer under a mode: the signed integer nearest a finite value. -/
def roundInt (md : RMode) (s : Bool) (m : Nat) (e : Int) : Int :=
  let n := roundTo md m e 0
  if s then -(n : Int) else (n : Int)

/-- Saturate an integer to n bits, two's complement. -/
def satInt (n : Nat) (i : Int) : Int × Bool :=
  let lo : Int := -(2 ^ (n - 1) : Nat)
  let hi : Int := (2 ^ (n - 1) : Nat) - 1
  if i < lo then (lo, true) else if hi < i then (hi, true) else (i, false)

/-- Direct conversion of a float to an n-bit integer (Table 2-7): round, then saturate. -/
def fconvInt (n : Nat) (md : RMode) (v : FV) : Int × StoreFlags :=
  match v with
  | .nan _ _ => (0, { nan := true })
  | .inf s => (if s then -(2 ^ (n - 1) : Nat) else (2 ^ (n - 1) : Nat) - 1, { sat := true })
  | .fin s m e =>
    let (i, st) := satInt n (roundInt md s m e)
    (i, { sat := st })

/-- The two's complement code of an integer, n bits. -/
def intCode (n : Nat) (i : Int) : Nat := (i % (2 ^ n : Nat)).toNat

/-! Exact arithmetic on values; each result is exact unless said, to be rounded once by `fround`. -/

/-- First NaN among the operands, in operand order (R44). -/
def firstNaN : List FV → Option FV
  | [] => none
  | .nan s p :: _ => some (.nan s (p ||| quietBit))
  | _ :: vs => firstNaN vs

/-- A finite value as a signed multiple of 2^q, q at most its exponent. -/
def scaledTo (q : Int) (s : Bool) (m : Nat) (e : Int) : Int :=
  let n := m <<< (e - q).toNat
  if s then -(n : Int) else (n : Int)

/-- Exact sum of two finite values; an exact zero of two negative zeros is negative, every other is +0 (R45). -/
def finAdd (s1 : Bool) (m1 : Nat) (e1 : Int) (s2 : Bool) (m2 : Nat) (e2 : Int) : FV :=
  let q := min e1 e2
  let t := scaledTo q s1 m1 e1 + scaledTo q s2 m2 e2
  if t = 0 then .fin (s1 && s2) 0 0 else .fin (decide (t < 0)) t.natAbs q

def FV.add (a b : FV) : FV :=
  match firstNaN [a, b] with
  | some n => n
  | none =>
    match a, b with
    | .inf s, .inf t => if s = t then .inf s else .qnan
    | .inf s, _ => .inf s
    | _, .inf t => .inf t
    | .fin s1 m1 e1, .fin s2 m2 e2 => finAdd s1 m1 e1 s2 m2 e2
    | _, _ => .qnan

/-- a − b: the sign of b is turned, a NaN b keeps its own sign (R44). -/
def FV.sub (a b : FV) : FV := if b.isNaN then FV.add a b else FV.add a b.neg

def FV.mul (a b : FV) : FV :=
  match firstNaN [a, b] with
  | some n => n
  | none =>
    let s := xor a.signBit b.signBit
    match a, b with
    | .fin _ m1 e1, .fin _ m2 e2 => .fin s (m1 * m2) (e1 + e2)
    | _, _ => if a.isZero || b.isZero then .qnan else .inf s

/-- a × b + c with no rounding between (R44 order A, B, C). -/
def FV.fma (a b c : FV) : FV :=
  match firstNaN [a, b, c] with
  | some n => n
  | none => FV.add (FV.mul a b) c

/-- Quotient to 128 significant bits or more with a sticky last bit, so that one rounding of it is the correct
rounding of the quotient in every format. -/
def FV.div (a b : FV) : FV :=
  match firstNaN [a, b] with
  | some n => n
  | none =>
    let s := xor a.signBit b.signBit
    match a, b with
    | .inf _, .inf _ => .qnan
    | .inf _, _ => .inf s
    | _, .inf _ => .fin s 0 0
    | .fin _ m1 e1, .fin _ m2 e2 =>
      if m2 = 0 then (if m1 = 0 then .qnan else .inf s)
      else if m1 = 0 then .fin s 0 0
      else
        let k := 130 + Nat.log2 m2
        let n := m1 <<< k
        let q := n / m2
        let st := if n % m2 = 0 then 0 else 1
        .fin s (2 * q + st) (e1 - e2 - k - 1)
    | _, _ => .qnan

/-- One bit of an integer square root after another, from bit b − 1 down. -/
def isqrtGo : Nat → Nat → Nat → Nat
  | 0, _, r => r
  | b + 1, n, r => let c := r + 2 ^ b; isqrtGo b n (if c * c ≤ n then c else r)

/-- The integer square root. -/
def isqrt (n : Nat) : Nat := isqrtGo (Nat.log2 n / 2 + 1) n 0

/-- Square root to 128 significant bits or more with a sticky last bit. -/
def FV.sqrt (a : FV) : FV :=
  match a with
  | .nan s p => .nan s (p ||| quietBit)
  | .inf s => if s then .qnan else .inf false
  | .fin s m e =>
    if m = 0 then .fin s 0 0
    else if s then .qnan
    else
      let k : Nat := if e % 2 = 0 then 260 else 261
      let n := m <<< k
      let r := isqrt n
      let st := if r * r = n then 0 else 1
      .fin false (2 * r + st) ((e - k) / 2 - 1)

/-- Compare two numbers that are not NaN: −1, 0 or 1. -/
def FV.cmp (a b : FV) : Int :=
  match a, b with
  | .inf s, .inf t => if s = t then 0 else if s then -1 else 1
  | .inf s, _ => if s then -1 else 1
  | _, .inf t => if t then 1 else -1
  | .fin s1 m1 e1, .fin s2 m2 e2 =>
    let q := min e1 e2
    let d := scaledTo q s1 m1 e1 - scaledTo q s2 m2 e2
    if d < 0 then -1 else if d = 0 then 0 else 1
  | _, _ => 0

def FV.lt (a b : FV) : Bool := !a.isNaN && !b.isNaN && FV.cmp a b == -1
def FV.le (a b : FV) : Bool := !a.isNaN && !b.isNaN && FV.cmp a b != 1
def FV.eqv (a b : FV) : Bool := !a.isNaN && !b.isNaN && FV.cmp a b == 0

/-- Multiply by 2^k exactly. -/
def FV.scale2 (v : FV) (k : Int) : FV :=
  match v with
  | .fin s m e => .fin s m (e + k)
  | v => v

/-- floor(log₂ |v|) of a non-zero finite value (R69). -/
def expOf (m : Nat) (e : Int) : Int := (Nat.log2 m : Int) + e

/-- Round into a format and read the result back. -/
def fvIn (f : Fmt) (v : FV) : FV := fdecode f (fround f v)

/-- Arithmetic on codes of one format, each rounded once (R58). -/
def faddc (f : Fmt) (a b : Nat) : Nat := fround f (FV.add (fdecode f a) (fdecode f b))
def fsubc (f : Fmt) (a b : Nat) : Nat := fround f (FV.sub (fdecode f a) (fdecode f b))
def fmulc (f : Fmt) (a b : Nat) : Nat := fround f (FV.mul (fdecode f a) (fdecode f b))
def fmac (f : Fmt) (a b c : Nat) : Nat := fround f (FV.fma (fdecode f a) (fdecode f b) (fdecode f c))
def fdivc (f : Fmt) (a b : Nat) : Nat := fround f (FV.div (fdecode f a) (fdecode f b))
def fsqrtc (f : Fmt) (a : Nat) : Nat := fround f (FV.sqrt (fdecode f a))

/-- The FP64 code of an integer constant. -/
def f64OfInt (i : Int) : Nat := fround .fp64 (FV.ofInt i)

end Sys2Proof.Machine
end

