-- ==== Sys2Proof/Machine/Functions.lean ====
section
/-! DEFINITION. The correctly rounded functions of R227 and of the solver: 1 ÷ √x, 2^x, log₂ x, sine and cosine. Each
gives the exact result where it is a dyadic number, and else a lower bound with hundreds of correct bits and a sticky last
bit, so that one rounding of it is the correct rounding. -/

namespace Sys2Proof.Machine

/-- 1 ÷ √a (R227). -/
def FV.rsqrt (a : FV) : FV :=
  match a with
  | .nan s p => .nan s (p ||| quietBit)
  | .inf s => if s then .qnan else .zero
  | .fin s m e =>
    if m = 0 then .inf s
    else if s then .qnan
    else
      let m1 := if e % 2 = 0 then m else 2 * m
      let e1 := if e % 2 = 0 then e else e - 1
      let k := 140 + Nat.log2 m1
      let r := isqrt (2 ^ (2 * k) / m1)
      let st := if r * r * m1 = 2 ^ (2 * k) then 0 else 1
      .fin false (2 * r + st) (-(e1 / 2) - k - 1)

/-! 2^x and log₂ x. -/

/-- Fraction bits of the fixed-point numbers below. -/
def fixBits : Nat := 330

/-- ln 2. -/
def ln2Fix : Nat := 0x2C5C85FDF473DE6AF278ECE600FCBDABD03CD0C99CA62D8B628345D6E2EABE8AF9EE1D881B7AEB26156

/-- Taylor terms of e^y from term k on; y, the term and the sum in fixed point. -/
def expGo : Nat → Nat → Nat → Nat → Nat → Nat
  | 0, _, _, _, sum => sum
  | n + 1, k, y, term, sum => let t := (term * y) >>> fixBits / (k + 1); expGo n (k + 1) y t (sum + t)

/-- 2^f for a fraction f. -/
def exp2Fix (f : Nat) : Nat := expGo 90 0 ((f * ln2Fix) >>> fixBits) (2 ^ fixBits) (2 ^ fixBits)

/-- 2^x (R227). -/
def FV.exp2 (a : FV) : FV :=
  match a with
  | .nan s p => .nan s (p ||| quietBit)
  | .inf s => if s then .zero else .inf false
  | .fin s m e =>
    if m = 0 then .one
    else if 12 ≤ expOf m e then .fin false 1 (if s then -5000 else 5000)
    else if 0 ≤ e then .fin false 1 (if s then -((m <<< e.toNat : Nat) : Int) else ((m <<< e.toNat : Nat) : Int))
    else
      let k := (-e).toNat
      let n : Int := if s then -((m >>> k : Nat) : Int) else ((m >>> k : Nat) : Int)
      let fr := m % 2 ^ k
      if fr = 0 then .fin false 1 n
      else
        let n1 := if s then n - 1 else n
        let f := ((if s then 2 ^ k - fr else fr) <<< fixBits) >>> k
        .fin false (2 * exp2Fix f + 1) (n1 - fixBits - 1)

/-- Terms of atanh from w^(2k + 1) on. -/
def atanhGo : Nat → Nat → Nat → Nat → Nat → Nat
  | 0, _, _, _, sum => sum
  | n + 1, k, w2, p, sum => atanhGo n (k + 1) w2 ((p * w2) >>> fixBits) (sum + p / (2 * k + 1))

/-- log₂ x (R227). -/
def FV.log2 (a : FV) : FV :=
  match a with
  | .nan s p => .nan s (p ||| quietBit)
  | .inf s => if s then .qnan else .inf false
  | .fin s m e =>
    if m = 0 then .inf true
    else if s then .qnan
    else
      let l := Nat.log2 m
      let x := expOf m e
      if m = 2 ^ l then FV.ofInt x
      else
        let w := ((m - 2 ^ l) <<< fixBits) / (m + 2 ^ l)
        let lg := ((2 * atanhGo 110 0 ((w * w) >>> fixBits) w 0) <<< fixBits) / ln2Fix
        if 0 ≤ x then .fin false (2 * (x.toNat * 2 ^ fixBits + lg) + 1) (-(fixBits : Int) - 1)
        else .fin true (2 * ((-x).toNat * 2 ^ fixBits - lg - 1) + 1) (-(fixBits : Int) - 1)

/-! Sine and cosine. -/

/-- Fraction bits of π ÷ 2 below. -/
def halfPiBits : Nat := 1500

/-- π ÷ 2. -/
def halfPi : Nat :=
  0xD2CDACE186A9C95793009E2E8D811943042F86520BC8C5C6D9C77C73CEE5
    + (0x4D22C7F51FA499EBF06CABA47B9475B2C38C5E6AC410AA5773DAA520EE12 <<< 240)
    + (0xE4822F8963FCC9250CCA3D9C8B67B8400F97142C77E0B31B4906C38ABA73 <<< 480)
    + (0xCC4BCFD8DE89885D34C6FDAD617FEB96DE80D6FDBDC70D7F6B5133F4B5D3 <<< 720)
    + (0x809BBDF2A33679A748636605614DBE4BE286E9FC26ADADAA3848BC90B6AE <<< 960)
    + (0x9898CC51701B839A252049C1114CF98E804177D4C76273644A29410F31C6 <<< 1200)
    + (0x1921FB54442D1846 <<< 1440)

/-- Fraction bits of a reduced angle. -/
def angleBits : Nat := 600

/-- Alternating Taylor terms: from term t of degree k on, each next one is t · r² ÷ ((k + 1)(k + 2)). -/
def trigGo : Nat → Nat → Nat → Nat → Bool → Int → Int
  | 0, _, _, _, _, sum => sum
  | n + 1, k, r2, t, sg, sum =>
    trigGo n (k + 2) r2 ((t * r2) >>> angleBits / ((k + 1) * (k + 2))) (!sg) (if sg then sum - t else sum + t)

def sinFix (r : Nat) : Nat := (trigGo 90 1 ((r * r) >>> angleBits) r false 0).toNat
def cosFix (r : Nat) : Nat := (trigGo 90 0 ((r * r) >>> angleBits) (2 ^ angleBits) false 0).toNat

/-- Quadrant and reduced angle of a magnitude m · 2^e. -/
def reduceAngle (m : Nat) (e : Int) : Nat × Nat :=
  let x := if 0 ≤ e then (m <<< e.toNat) <<< halfPiBits else (m <<< halfPiBits) >>> (-e).toNat
  (x / halfPi % 4, (x % halfPi) >>> (halfPiBits - angleBits))

/-- A fixed-point result with its sticky bit. -/
def trigResult (s : Bool) (v : Nat) : FV := .fin s (2 * v + 1) (-(angleBits : Int) - 1)

/-- The sine, correctly rounded with one rounding of the result. -/
def FV.sin (a : FV) : FV :=
  match a with
  | .nan s p => .nan s (p ||| quietBit)
  | .inf _ => .qnan
  | .fin s m e =>
    if m = 0 then .fin s 0 0
    else if expOf m e < -100 then .fin s (m <<< 200 - 1) (e - 200)
    else
      let (q, r) := reduceAngle m e
      if q = 0 then trigResult s (sinFix r) else if q = 1 then trigResult s (cosFix r)
      else if q = 2 then trigResult (!s) (sinFix r) else trigResult (!s) (cosFix r)

/-- The cosine, correctly rounded with one rounding of the result. -/
def FV.cos (a : FV) : FV :=
  match a with
  | .nan s p => .nan s (p ||| quietBit)
  | .inf _ => .qnan
  | .fin _ m e =>
    if m = 0 then .one
    else if expOf m e < -100 then .fin false (2 ^ 200 - 1) (-200)
    else
      let (q, r) := reduceAngle m e
      if q = 0 then trigResult false (cosFix r) else if q = 1 then trigResult true (sinFix r)
      else if q = 2 then trigResult true (cosFix r) else trigResult false (sinFix r)

end Sys2Proof.Machine
end

