-- ==== Sys2Proof/Machine/Bench.lean ====
section
/-! DEFINITION. The benches (R282): bytes, the word code (R267), and speculative and void sectors (R188 to R191). -/

namespace Sys2Proof.Machine

def benchSize : Nat := 3145728

/-- Why a bench read gave nothing: an uncorrectable word (R267) or a void sector (R191), with its bench offset. -/
inductive BenchErr where
  | uncorrectable (off : Nat)
  | void (off : Nat)
  deriving DecidableEq, Repr

def State.benchByte (s : State) (n o : Nat) : Byte := sget 0 s.mem.bench (n * benchSize + o)

def State.benchRaw (s : State) (n o len : Nat) : Bytes := (List.range len).map fun i => s.benchByte n (o + i)

/-- What a sector of bench n is where it is not listed: void once the bench has been voided as a whole. -/
def State.benchRest (s : State) (n : Nat) : SectorState := if sget false s.mem.voided n then .void else .ordinary

/-- State of the sector that holds byte o of bench n. -/
def State.sector (s : State) (n o : Nat) : SectorState := (sget none s.mem.sectors (n * 98304 + o / 32)).getD (s.benchRest n)

def State.benchWord (s : State) (n o : Nat) : WordError := sget .good s.mem.benchErr (n * 393216 + o / 8)

/-- The sectors, by offset of their first byte, that a range touches. -/
def sectorsOf (o len : Nat) : List Nat := if len = 0 then [] else (List.range ((o + len - 1) / 32 - o / 32 + 1)).map fun i => 32 * (o / 32 + i)

def benchWordsOf (o len : Nat) : List Nat := if len = 0 then [] else (List.range ((o + len - 1) / 8 - o / 8 + 1)).map fun i => 8 * (o / 8 + i)

/-- The first thing that makes a range unreadable: a void sector, or an uncorrectable word. -/
def benchBad (s : State) (n o len : Nat) : Option BenchErr :=
  match (sectorsOf o len).find? fun x => s.sector n x == .void with
  | some x => some (.void x)
  | none =>
    match (benchWordsOf o len).find? fun x => s.benchWord n x == .uncorrectable with
    | some x => some (.uncorrectable x)
    | none => none

/-- Correct the correctable words of a range: they are written back and counted (R267). -/
def benchCorrect (s : State) (n o len : Nat) : State :=
  (benchWordsOf o len).foldl (fun s x =>
    if s.benchWord n x = .correctable then
      { (s.bump 2 1).countHold .bncEccCnt n 0 32 32 1 with mem := { s.mem with benchErr := sset .good s.mem.benchErr (n * 393216 + x / 8) .good } }
    else s) s

/-- Read a bench range (R267, R191). -/
def benchRead (s : State) (n o len : Nat) : Except BenchErr Bytes × State :=
  match benchBad s n o len with
  | some (.uncorrectable x) => (.error (.uncorrectable x), (s.bump 3 1).countHold .bncEccCnt n 0 0 32 1)
  | some (.void x) => (.error (.void x), s)
  | none => (.ok (s.benchRaw n o len), benchCorrect s n o len)

/-- Mark the sectors of a range. -/
def markSectors (s : State) (n o len : Nat) (x : SectorState) : State :=
  let v := if x = s.benchRest n then none else some x
  { s with mem := { s.mem with sectors := (sectorsOf o len).foldl (fun m a => sset none m (n * 98304 + a / 32) v) s.mem.sectors } }

/-- Put bytes into a bench; words written whole are good again, a narrower write leaves an uncorrectable word so, and
corrects and counts a correctable one (R267). -/
def benchPut (s : State) (n o : Nat) (bs : Bytes) : State :=
  let errs := (benchWordsOf o bs.length).foldl (fun m x =>
    let whole := decide (o ≤ x ∧ x + 8 ≤ o + bs.length)
    if whole || sget .good m (n * 393216 + x / 8) == .correctable then sset .good m (n * 393216 + x / 8) .good else m) s.mem.benchErr
  let bytes := bs.zipIdx.foldl (fun m x => sset 0 m (n * benchSize + o + x.2) x.1) s.mem.bench
  let fixed := ((benchWordsOf o bs.length).filter fun x =>
    !decide (o ≤ x ∧ x + 8 ≤ o + bs.length) && s.benchWord n x == .correctable).length
  let s1 := if fixed = 0 then s else (s.bump 2 fixed).countHold .bncEccCnt n 0 32 32 fixed
  { s1 with mem := { s1.mem with bench := bytes, benchErr := errs } }

/-- The void sectors that a write covers only in part: what it leaves of them is undefined (R191). -/
def partVoid (s : State) (n o len : Nat) : List Nat :=
  (sectorsOf o len).filter fun x => s.sector n x == .void && !decide (o ≤ x ∧ x + 32 ≤ o + len)

/-- A void sector's bytes become free values. -/
def freshSector (n : Nat) (s : State) (x : Nat) : State :=
  let (bs, s1) := freeBytes 32 s
  { s1 with mem := { s1.mem with bench := bs.zipIdx.foldl (fun m z => sset 0 m (n * benchSize + x + z.2) z.1) s1.mem.bench } }

/-- Write a bench range: its sectors are ordinary again (R191). -/
def benchWrite (s : State) (n o : Nat) (bs : Bytes) : State :=
  markSectors (benchPut ((partVoid s n o bs.length).foldl (freshSector n) s) n o bs) n o bs.length .ordinary

/-- Fault code of a failed bench read (Table 5-14, Table 7-10), and its DETAIL (R290; chapter 05 gives BENCH_VOID none). -/
def benchFault : BenchErr → Nat
  | .uncorrectable _ => 0x21
  | .void _ => 0x0B
def benchDetail : BenchErr → Word
  | .uncorrectable x => place 56 8 1 ||| place 0 48 x
  | .void _ => 0

/-- Every sector of a bench is void (R483). -/
def voidBench (s : State) (n : Nat) : State :=
  { s with mem := { s.mem with
      sectors := s.mem.sectors.filter fun x : Nat × Option SectorState => x.1 / 98304 ≠ n
      voided := sset false s.mem.voided n true } }

/-- Speculative sectors of bench n become void (R191). -/
def voidSpeculative (s : State) (n : Nat) : State :=
  { s with mem := { s.mem with sectors := s.mem.sectors.filterMap fun x : Nat × Option SectorState =>
      match x.2 with
      | some (.speculative _) =>
        if x.1 / 98304 ≠ n then some x else if s.benchRest n = .void then none else some (x.1, some .void)
      | _ => some x } }

end Sys2Proof.Machine
end

