-- ==== Sys2Proof/Machine/Memory.lean ====
section
/-! DEFINITION. HBM and its saddlebag slices (07): the address map (R252), the symbol code (R261 to R266), slices and
hints (R255 to R260), error accounting and repair candidates (R263, R271, R272), protection regions (R279 to R281). -/

namespace Sys2Proof.Machine

/-! The address map. -/

def hbmSize : Nat := 2 ^ 40

/-- The stack that owns a module address (R252 Table 7-2). -/
def stackOf (s : State) (a : Nat) : Nat :=
  let d := a / 2 ^ 38 % 4
  let o := a % 2 ^ 38
  8 * d + if s.fld .hbmMap d 0 0 1 = 0 then o / 2 ^ 35 else o / 2 ^ 8 % 8

/-- The channel of a module address (R252). -/
def channelOf (s : State) (a : Nat) : Nat :=
  let d := a / 2 ^ 38 % 4
  if s.fld .hbmMap d 0 0 1 = 0 then a / 2 ^ 8 % 16 else a / 2 ^ 11 % 16

/-- The address of line i of stack n, in increasing address (R252, R268). -/
def stackLine (s : State) (n i : Nat) : Nat :=
  let d := n / 8
  let k := n % 8
  if s.fld .hbmMap d 0 0 1 = 0 then d * 2 ^ 38 + k * 2 ^ 35 + 64 * i
  else d * 2 ^ 38 + (i / 4) * 2 ^ 11 + k * 2 ^ 8 + (i % 4) * 64

/-! The symbol code over GF(2^8) (R261). -/

/-- Multiply by α. -/
def gfDouble (x : Nat) : Nat := if x < 128 then 2 * x else (2 * x) ^^^ 0x11D

/-- Multiply in GF(2^8), over the low n bits of b. -/
def gfMulGo : Nat → Nat → Nat → Nat
  | 0, _, _ => 0
  | n + 1, a, b => (if b % 2 = 1 then a else 0) ^^^ gfMulGo n (gfDouble a) (b / 2)

def gfMul (a b : Nat) : Nat := gfMulGo 8 a b

def gfPow (a : Nat) : Nat → Nat
  | 0 => 1
  | n + 1 => gfMul a (gfPow a n)

/-- The inverse of a non-zero element: its 254th power. -/
def gfInv (a : Nat) : Nat := gfPow a 254

/-- The locator of symbol i: the power of α that C(x) gives it. -/
def symLocator (i : Nat) : Nat := gfPow 2 (71 - i)

/-- The six syndromes of an error pattern. -/
def syndromes (e : List (Nat × Byte)) : List Nat :=
  (List.range 6).map fun j => e.foldl (fun a x => a ^^^ gfMul x.2.toNat (gfPow (symLocator x.1) j)) 0

/-- The error pattern of weight at most 2 with given syndromes, if there is one (minimum distance 7). -/
def locate (syn : List Nat) : Option (List (Nat × Byte)) :=
  if syn.all (· == 0) then some []
  else
    let s0 := syn.getD 0 0
    let s1 := syn.getD 1 0
    match (List.range 72).find? fun i => syndromes [(i, BitVec.ofNat 8 s0)] == syn with
    | some i => some [(i, BitVec.ofNat 8 s0)]
    | none =>
      let pairs := (List.range 72).flatMap fun i => (List.range i).map fun k => (i, k)
      let sol := fun (p : Nat × Nat) =>
        let x := symLocator p.1
        let y := symLocator p.2
        let v := gfMul (gfMul s0 y ^^^ s1) (gfInv (x ^^^ y))
        [(p.1, BitVec.ofNat 8 v), (p.2, BitVec.ofNat 8 (v ^^^ s0))]
      (pairs.find? fun p => syndromes (sol p) == syn).map sol

/-- What a read of a line's codeword gives (R263 Table 7-5, R264). -/
inductive Decoded where
  | clean
  | corrected (syms : List Nat)
  | uncorrectable
  | badTag
  deriving DecidableEq, Repr

/-- Apply an error pattern to the data bytes of a line. -/
def flipBytes (bs : Bytes) (e : List (Nat × Byte)) : Bytes :=
  bs.zipIdx.map fun (b, i) => e.foldl (fun a x => if x.1 = i then a ^^^ x.2 else a) b

/-- The metadata and data of a line after an error pattern of its symbols: c64 and c65 carry POISON, the reserved bits
and the tag. -/
def flipMeta (m : LineMeta) (e : List (Nat × Byte)) : LineMeta :=
  e.foldl (fun (m : LineMeta) (x : Nat × Byte) =>
    if x.1 = 64 then { m with poison := xor m.poison (x.2.toNat.testBit 7), rsv := m.rsv ^^^ BitVec.setWidth 7 x.2 }
    else if x.1 = 65 then { m with tagXor := m.tagXor ^^^ x.2 } else m) { m with sym := [] }

/-- Decode a line: the outcome, and the line as the decoder gives it. -/
def decodeLine (bs : Bytes) (m : LineMeta) : Decoded × Bytes × LineMeta :=
  match locate (syndromes m.sym) with
  | none => (.uncorrectable, bs, m)
  | some fix =>
    let e := m.sym ++ fix
    let bs' := flipBytes bs e
    let m' := flipMeta m e
    if m'.tagXor ≠ 0 ∨ m'.rsv ≠ 0 then (.badTag, bs, m)
    else if fix.isEmpty then (.clean, bs', m') else (.corrected (fix.map Prod.fst), bs', m')

/-! Lines. -/

def State.byte (s : State) (a : Nat) : Byte := sget 0 s.mem.hbm a

/-- n bytes from an address, as they stand. -/
def State.bytesAt (s : State) (a n : Nat) : Bytes := (List.range n).map fun i => s.byte (a + i)

/-- Put bytes at an address, as they are. -/
def putBytes (m : List Host.Cell) (a : Nat) : Bytes → List Host.Cell
  | [] => m
  | b :: bs => putBytes (sset 0 m a b) (a + 1) bs

def State.lineMeta (s : State) (l : Nat) : LineMeta := sget {} s.mem.lines l

/-- Set a line's content: data and metadata. -/
def setLine (s : State) (l : Nat) (bs : Bytes) (m : LineMeta) : State :=
  { s with mem := { s.mem with hbm := putBytes s.mem.hbm (64 * l) bs, lines := sset {} s.mem.lines l m } }

/-- The bytes of line l. -/
def State.line (s : State) (l : Nat) : Bytes := s.bytesAt (64 * l) 64

/-! Error accounting. -/

/-- A row is entered as a repair candidate in the first free entry, or logged only (R272). `ue`: it showed a UE. -/
def addCandidate (s : State) (n l : Nat) (ue : Bool) (count : Nat) : State :=
  let s := s.bump 9 1
  match (List.range 16).find? fun i => ! bit (s.reg .hbmPprCand n i) 63 with
  | some i =>
    let w := placeBit 63 true ||| placeBit 62 ue ||| place 56 6 (min 63 count) ||| place 6 34 l
    logModule (s.setReg .hbmPprCand n i w) 0x0207 (srcStack n) (BitVec.ofNat 64 (64 * l)) (placeBit 4 ue ||| place 0 4 i) 0
  | none => logModule s 0x0207 (srcStack n) (BitVec.ofNat 64 (64 * l)) (placeBit 5 true ||| placeBit 4 ue) 0

/-- Is the row of a line already a candidate of its stack. -/
def isCandidate (s : State) (n l : Nat) : Bool :=
  (List.range 16).any fun i =>
    let w := s.reg .hbmPprCand n i
    bit w 63 && Config.rowOf (field w 6 34) == Config.rowOf l

/-- Enter a row's line as a candidate; one that is a candidate already has its entry brought up to date: a UE marks it, and a
correction counts, to 63 (Table 7-18). -/
def markCandidate (s : State) (n l : Nat) (ue : Bool) (count : Nat) : State :=
  match (List.range 16).find? fun i =>
      let w := s.reg .hbmPprCand n i
      bit w 63 && Config.rowOf (field w 6 34) == Config.rowOf l with
  | none => addCandidate s n l ue count
  | some i =>
    let w := s.reg .hbmPprCand n i
    s.setReg .hbmPprCand n i (if ue then w ||| placeBit 62 true else setField w 56 6 (min 63 (field w 56 6 + 1)))

/-- What the tracker of a stack holds of a row. -/
def trackedRow (s : State) (n r : Nat) : RowCount := ((sget [] s.mem.tracker n).find? fun x : RowCount => x.row = r).getD ⟨r, 0, false⟩

/-- Put a row first in the tracker of 64 rows (R271): where there is no room, the row with the lowest count makes it. -/
def trackRow (rows : List RowCount) (x : RowCount) : List RowCount :=
  let rest := rows.filter fun y : RowCount => y.row ≠ x.row
  if rest.length < 64 then x :: rest
  else
    let low := rest.foldl (fun (a : Nat) (y : RowCount) => min a y.count) (2 ^ 64)
    match rest.find? fun y : RowCount => y.count = low with
    | some v => x :: rest.erase v
    | none => rest

/-- First error since VALID was cleared goes into HBM_ECC_LAST (Table 7-16). -/
def captureEcc (s : State) (n l : Nat) (ue : Bool) (sym0 sym1 : Nat) : State :=
  if bit (s.reg .hbmEccLast n 0) 63 then s
  else s.setReg .hbmEccLast n 0 (placeBit 63 true ||| placeBit 62 ue ||| place 55 7 sym1 ||| place 48 7 sym0 ||| place 6 34 l)

/-- A corrected error on a line (R263, R271, R272). -/
def accountCE (s : State) (l : Nat) (syms : List Nat) : State :=
  let n := stackOf s (64 * l)
  let s1 := captureEcc ((s.bump 0 1).countHold .hbmEccCnt n 0 32 32 1) n l false (syms.getD 0 127) (syms.getD 1 127)
  let old := trackedRow s1 n (Config.rowOf l)
  let reached := decide (s1.fld .hbmScrubCtrl 0 0 16 8 ≤ old.count + 1)
  let rows := trackRow (sget [] s1.mem.tracker n) { old with count := old.count + 1, named := old.named || reached }
  let s2 := { s1 with mem := { s1.mem with tracker := sset [] s1.mem.tracker n rows } }
  if isCandidate s2 n l ∨ (reached ∧ ¬ old.named) then markCandidate s2 n l false (old.count + 1) else s2

/-- ADDR_TAG of an address (Table 7-4). -/
def lineTag (a : Nat) : Nat :=
  (a / 2 ^ 6 % 256) ^^^ (a / 2 ^ 14 % 256) ^^^ (a / 2 ^ 22 % 256) ^^^ (a / 2 ^ 30 % 256) ^^^ (a / 2 ^ 38 % 4)

/-- The address tag a line's codeword decodes to, against the right one (xor). -/
def decodedTagXor (m : LineMeta) : Nat := (flipMeta m (m.sym ++ (locate (syndromes m.sym)).getD [])).tagXor.toNat

/-- The row of a line that could not be corrected becomes a candidate, with the corrections that the tracker has counted (R272). A
tag error counts as uncorrectable there (R264). -/
def lineLost (s : State) (l : Nat) : State :=
  let n := stackOf s (64 * l)
  markCandidate s n l true (trackedRow s n (Config.rowOf l)).count

/-- An uncorrectable line met by a requester class, by index (R263, R272): counted, captured, logged; its row becomes a
candidate. -/
def accountUE (s : State) (l cls : Nat) : State :=
  let n := stackOf s (64 * l)
  let s1 := captureEcc ((s.bump 1 1).countHold .hbmEccCnt n 0 0 32 1) n l true 127 127
  lineLost (logModule s1 0x0200 (srcStack n) (BitVec.ofNat 64 (64 * l)) (BitVec.ofNat 64 cls) 0) l

/-- A line with metadata m whose tag or reserved metadata is wrong (R264): counted, captured, logged. -/
def accountTagOf (s : State) (l : Nat) (m : LineMeta) : State :=
  let n := stackOf s (64 * l)
  let s1 := captureEcc ((s.bump 1 1).countHold .hbmEccCnt n 0 0 32 1) n l true 127 127
  let t := lineTag (64 * l)
  lineLost (logModule s1 0x0201 (srcStack n) (BitVec.ofNat 64 (64 * l)) (place 8 8 t ||| place 0 8 (t ^^^ decodedTagXor m)) 0) l

/-- The same of a line as it is read. -/
def accountTag (s : State) (l : Nat) : State := accountTagOf s l (s.lineMeta l)

/-! Requester classes and protection (R279 to R281). -/

/-- Requester classes in Table 7-8 order. -/
inductive Class where
  | fetch | sdma | ddma | upd | solv | ingress | egress
  deriving DecidableEq, Repr

def classIndex : Class → Nat
  | .fetch => 0 | .sdma => 1 | .ddma => 2 | .upd => 3 | .solv => 4 | .ingress => 5 | .egress => 6

/-- The GRANT bit of a class for a read or a write (Table 7-8). -/
def grantBit (c : Class) (wr : Bool) : Nat := 2 * classIndex c + if wr then 1 else 0

/-- The lowest-numbered enabled region that covers an address (R279). -/
def regionOf (s : State) (a : Nat) : Option Nat :=
  (List.range 16).find? fun r =>
    let b := s.fld .hbmProtBase r 0 12 28
    let l := s.fld .hbmProtLimit r 0 12 28
    bit (s.reg .hbmProtPerm r 0) 15 && decide (b ≤ l) && decide (b ≤ a / 4096 ∧ a / 4096 ≤ l)

/-- The region that denies an access to a page, if one does. -/
def denies (s : State) (c : Class) (wr : Bool) (a : Nat) : Option Nat :=
  match regionOf s a with
  | some r => if bit (s.reg .hbmProtPerm r 0) (grantBit c wr) then none else some r
  | none => none

/-- The first address and region that deny an access of n bytes, judged page by page (R279). -/
def denied (s : State) (c : Class) (wr : Bool) (a n : Nat) : Option (Nat × Nat) :=
  if n = 0 then none else
  (List.range ((a + n - 1) / 4096 - a / 4096 + 1)).findSome? fun i =>
    let x := if i = 0 then a else (a / 4096 + i) * 4096
    (denies s c wr x).map fun r => (x, r)

/-- The event of a denied access, one for each descriptor or command (R281). -/
def logDenied (s : State) (c : Class) (addr region : Nat) (wr : Bool) : State :=
  logModule s 0x0203 (srcStack (stackOf s addr)) (BitVec.ofNat 64 addr)
    (placeBit 12 wr ||| place 8 4 region ||| place 0 4 (classIndex c)) 0

/-! Slices. -/

/-- The set a line is placed in: one set of its stack's slice. -/
def sameSet (s : State) (l l' : Nat) : Bool :=
  stackOf s (64 * l) == stackOf s (64 * l') && Config.saddlebagSet l % 16384 == Config.saddlebagSet l' % 16384

/-- Remove the last element that satisfies a test. -/
def dropLastSuch (p : SbgLine → Bool) (xs : List SbgLine) : List SbgLine :=
  match xs.reverse.find? p with
  | some v => xs.erase v
  | none => xs

/-- The least recently used KEEP line of a set becomes NORMAL (R259). -/
def demoteLast (p : SbgLine → Bool) (xs : List SbgLine) : List SbgLine :=
  match xs.reverse.find? p with
  | some v => xs.map fun x => if x = v then { x with policy := .normal } else x
  | none => xs

/-- Put a line at the front of its set, most recently used, making room: a set holds 16 lines and at most KEEP_WAYS
KEEP lines; a KEEP line leaves only for another KEEP line (R255, R258, R259). A line that finds no room is not held. -/
def allocate (s : State) (x : SbgLine) : List SbgLine :=
  let rest := s.mem.sbg.filter fun y : SbgLine => y.line ≠ x.line
  let inSet := fun y : SbgLine => sameSet s x.line y.line
  let keeps := (rest.filter fun y => inSet y && y.policy == .keep).length
  let ways := s.fld .sbgCtrl (64 * x.line / 2 ^ 38 % 4) 0 0 4
  let rest1 := if x.policy = .keep ∧ ways ≤ keeps then demoteLast (fun y => inSet y && y.policy == .keep) rest else rest
  let x1 := if x.policy = .keep ∧ ways = 0 then { x with policy := .normal } else x
  let rest2 :=
    if (rest1.filter inSet).length < 16 then rest1
    else if rest1.any fun y => inSet y && y.policy != .keep then dropLastSuch (fun y => inSet y && y.policy != .keep) rest1
    else if x1.policy = .keep then dropLastSuch inSet rest1 else rest1
  if (rest2.filter inSet).length < 16 then x1 :: rest2 else rest2

def sbgFind (s : State) (l : Nat) : Option SbgLine := s.mem.sbg.find? fun y : SbgLine => y.line = l

/-- Count a hit or a miss of the slice that owns a line (Table 7-13). -/
def countSbg (s : State) (l : Nat) (hit : Bool) : State :=
  s.countWrap .sbgStat (64 * l / 2 ^ 38 % 4) 0 (if hit then 32 else 0) 32 1

/-- The parity errors that transfers still meet, and the transfers repeated, by stack, after a transfer of a line: one that meets an
error is repeated and counted (Table 7-1). -/
def parityMet (s : State) (p : List (Nat × Nat) × List (Nat × Nat)) (l : Nat) : List (Nat × Nat) × List (Nat × Nat) :=
  let n := stackOf s (64 * l)
  let k := sget 0 p.1 n
  if k = 0 then p else (sset 0 p.1 n 0, sset 0 p.2 n (sget 0 p.2 n + k))

/-- Transfers of lines between their slices and their stacks. -/
def transfers (s : State) (ls : List Nat) : State :=
  let p := ls.foldl (parityMet s) (s.mem.parity, s.mem.repeats)
  { s with mem := { s.mem with parity := p.1, repeats := p.2 } }

def transfer (s : State) (l : Nat) : State := transfers s [l]

/-- Put a line into its slice; a dirty line that leaves for it is written back to its stack, a transfer of its own. -/
def holdLine (s : State) (x : SbgLine) : State :=
  let xs := allocate s x
  let gone := s.mem.sbg.filter fun y : SbgLine => y.below.isSome && !xs.any fun z : SbgLine => z.line == y.line
  transfers { s with mem := { s.mem with sbg := xs } } (gone.map fun y : SbgLine => y.line)

/-- What HBM holds beneath the clean slice copy of a line, where scrub or a repair has rewritten it; a copy without error has nothing
else beneath it. -/
def State.rewritten (s : State) (l : Nat) : Option (Bytes × LineMeta) :=
  if s.lineMeta l = {} then none else (s.mem.under.find? fun z : Nat × Bytes × LineMeta => z.1 == l).map Prod.snd

/-- The slice's copy of a line is all there is of it. -/
def forgetUnder (s : State) (l : Nat) : State :=
  if (s.rewritten l).isSome then
    { s with mem := { s.mem with under := s.mem.under.filter fun z : Nat × Bytes × LineMeta => z.1 != l } }
  else s

/-- A line that its slice does not hold is as HBM holds it. -/
def reveal (s : State) (l : Nat) : State :=
  if (sbgFind s l).isSome then s
  else match s.rewritten l with
    | some (bs, m) => setLine (forgetUnder s l) l bs m
    | none => s

/-- A read of a line passes its slice (R256, R258): hit or miss is counted and the line is allocated, or its policy and
age renewed. -/
def sbgRead (s : State) (pol : Policy) (l : Nat) : State :=
  match sbgFind s l with
  | some x => holdLine (countSbg s l true) { x with policy := pol }
  | none =>
    let s1 := transfer (countSbg s l false) l
    if pol = .stream then s1 else holdLine s1 ⟨l, pol, none⟩

/-- A write of a line passes its slice (R256, R258): a dirty line keeps what HBM holds beneath it, `old` where it was clean; whole-line
STREAM writes go around the slice and invalidate its copy. A miss of a part of a line fills the line from its stack. -/
def sbgWrite (s : State) (pol : Policy) (l : Nat) (whole : Bool) (old : Bytes × LineMeta) : State :=
  match sbgFind s l with
  | some x =>
    let s1 := countSbg s l true
    if pol = .stream ∧ whole then transfer { s1 with mem := { s1.mem with sbg := s1.mem.sbg.erase x } } l
    else holdLine s1 ⟨l, pol, some (x.below.getD old)⟩
  | none =>
    let s1 := countSbg s l false
    if pol = .stream then transfer s1 l else holdLine (if whole then s1 else transfer s1 l) ⟨l, pol, some old⟩

/-- A DISCARD read has read a line: the slice drops it (R260). A later read of a dropped dirty line gives its contents
now or the older ones beneath: a free choice (DESIGN CHOICE, log entry 40). Regions with NO_DISCARD keep it. -/
def sbgDiscard (s : State) (l : Nat) : State :=
  let kept := match regionOf s (64 * l) with
    | some r => bit (s.reg .hbmProtPerm r 0) 14
    | none => false
  if kept then s
  else match sbgFind s l with
    | none => s
    | some x =>
      let s1 := { s with mem := { s.mem with sbg := s.mem.sbg.erase x } }
      match x.below with
      | none => s1
      | some (bs, m) =>
        let (f, s2) := s1.free
        if bit f 0 then setLine s2 l bs m else s2

/-! Reads and writes. -/

/-- Read one line through its slice (R263 to R266): data, or why there is none. -/
def readLine (s : State) (c : Class) (pol : Policy) (l : Nat) : Except MemErr Bytes × State :=
  let s1 := sbgRead (reveal s l) pol l
  let a := 64 * l
  match decodeLine (s1.line l) (s1.lineMeta l) with
  | (.uncorrectable, _, _) => (.error (.uncorrectable a), accountUE s1 l (classIndex c))
  | (.badTag, _, _) => (.error (.badTag a), accountTag s1 l)
  | (.clean, bs, m) => if m.poison then (.error (.poison a), s1.bump 1 1) else (.ok bs, s1)
  | (.corrected syms, bs, m) =>
    let s2 := accountCE (setLine (forgetUnder s1 l) l bs m) l syms
    if m.poison then (.error (.poison a), s2.bump 1 1) else (.ok bs, s2)

/-- Read lines one after another, stopping at the first that gives nothing. -/
def readLines (c : Class) (pol : Policy) : List Nat → State → Except MemErr Bytes × State
  | [], s => (.ok [], s)
  | l :: ls, s =>
    match readLine s c pol l with
    | (.error e, s1) => (.error e, s1)
    | (.ok bs, s1) =>
      match readLines c pol ls s1 with
      | (.error e, s2) => (.error e, s2)
      | (.ok rest, s2) => (.ok (bs ++ rest), s2)

/-- The lines that n bytes from an address touch. -/
def linesOf (a n : Nat) : List Nat := if n = 0 then [] else (List.range ((a + n - 1) / 64 - a / 64 + 1)).map (a / 64 + ·)

/-- The lock of a stack is held (R273). -/
def stackLocked (s : State) (n : Nat) : Bool :=
  s.maint.running.any fun a : Act => match a.what with | .rowRepair k _ _ => k.val == n | _ => false

/-- Some HBM byte of a range lies on a locked stack. -/
def hbmLocked (s : State) (a n : Nat) : Bool :=
  s.maint.running.any (fun x : Act => match x.what with | .rowRepair _ _ _ => true | _ => false)
    && (linesOf a n).any fun l => stackLocked s (stackOf s (64 * l))

/-- Some of the ranges, given as (address, bytes), lies on a locked stack. -/
def rangesLocked (s : State) (rs : List (Nat × Nat)) : Bool := rs.any fun r => hbmLocked s r.1 r.2

/-- A saddlebag hint of an operand (Table 7-3). -/
structure Hint where
  policy : Policy := .normal
  discard : Bool := false
  deriving DecidableEq, Repr

/-- Read n bytes of HBM for a requester class (R256, R266, R279 to R281). -/
def memRead (s : State) (c : Class) (h : Hint) (a n : Nat) : Except MemErr Bytes × State :=
  if hbmSize < a + n then (.error (.range (max a hbmSize)), s)
  else match denied s c false a n with
    | some (x, r) => (.error (.protect x r false), s)
    | none =>
      let ls := linesOf a n
      match readLines c h.policy ls s with
      | (.error e, s1) => (.error e, s1)
      | (.ok bs, s1) =>
        let s2 := if h.discard then ls.foldl sbgDiscard s1 else s1
        (.ok ((bs.drop (a % 64)).take n), s2)

/-- Put bytes over part of a line. -/
def patchBytes (d : Bytes) (o : Nat) (bs : Bytes) : Bytes := d.take o ++ bs ++ d.drop (o + bs.length)

/-- Write bytes inside one line (R265): a whole line clears POISON; a narrower write is a read–modify–write at the
controller, which poisons a line that it cannot read and never clears POISON. -/
def writeLine (s0 : State) (c : Class) (pol : Policy) (a : Nat) (bs : Bytes) : State :=
  let l := a / 64
  let s := reveal s0 l
  let old := (s.line l, s.lineMeta l)
  let held := (s.rewritten l).getD old
  if bs.length = 64 then setLine (sbgWrite (forgetUnder s l) pol l true held) l bs {}
  else
    let s1 := sbgWrite (forgetUnder s l) pol l false held
    let asRead := patchBytes (flipBytes old.1 old.2.sym) (a % 64) bs
    match decodeLine old.1 old.2 with
    | (.clean, d, m) => setLine s1 l (patchBytes d (a % 64) bs) { poison := m.poison }
    | (.corrected syms, d, m) => accountCE (setLine s1 l (patchBytes d (a % 64) bs) { poison := m.poison }) l syms
    | (.uncorrectable, _, _) => setLine (accountUE s1 l (classIndex c)) l asRead { poison := true }
    | (.badTag, _, _) => setLine (accountTag s1 l) l asRead { poison := true }

/-- Write bytes line by line; `fuel` bounds the lines. -/
def writeLines (c : Class) (pol : Policy) : Nat → Nat → Bytes → State → State
  | 0, _, _, s => s
  | _, _, [], s => s
  | fuel + 1, a, bs, s =>
    let k := 64 - a % 64
    writeLines c pol fuel (a + k) (bs.drop k) (writeLine s c pol a (bs.take k))

/-- Write bytes of HBM for a requester class: nothing is written where a page denies it (R281). -/
def memWrite (s : State) (c : Class) (h : Hint) (a : Nat) (bs : Bytes) : Option MemErr × State :=
  if hbmSize < a + bs.length then (some (.range (max a hbmSize)), s)
  else match denied s c true a bs.length with
    | some (x, r) => (some (.protect x r true), s)
    | none => (none, writeLines c h.policy (bs.length / 64 + 2) a bs s)

/-- A read–modify–write that must find its lines good (R586): the first line that is bad, if one is. -/
def badLine (s : State) (a n : Nat) : Option MemErr :=
  (linesOf a n).findSome? fun l =>
    match decodeLine ((reveal s l).line l) ((reveal s l).lineMeta l) with
    | (.uncorrectable, _, _) => some (.uncorrectable (64 * l))
    | (.badTag, _, _) => some (.badTag (64 * l))
    | (_, _, m) => if m.poison then some (.poison (64 * l)) else none

/-- The first bad line that a write of n bytes reads: one that it covers in part only (R265). -/
def partBad (s : State) (a n : Nat) : Option MemErr :=
  ((linesOf a n).filter fun l => decide (64 * l < a ∨ a + n < 64 * l + 64)).findSome? fun l => badLine s (64 * l) 64

/-- Log what an access that failed logs for its descriptor or command beyond the line's own events (R281). -/
def noteErr (s : State) (c : Class) (e : MemErr) : State :=
  match e with
  | .protect a r wr => logDenied s c a r wr
  | _ => s

/-- A failed access that is reported only now, by the descriptor that it concerns (R159): its event and counts. -/
def accountErr (s : State) (c : Class) (e : MemErr) : State :=
  match e with
  | .uncorrectable a => accountUE s (a / 64) (classIndex c)
  | .badTag a => accountTag s (a / 64)
  | .poison _ => s.bump 1 1
  | .protect _ _ _ | .range _ => noteErr s c e

/-- The fault code of a failed access (Table 7-10). -/
def errFault : MemErr → Nat
  | .range _ => 0x20
  | .uncorrectable _ => 0x21
  | .poison _ => 0x22
  | .badTag _ => 0x23
  | .protect _ _ _ => 0x24

/-- DETAIL of a memory fault met after issue (R290): the HBM line address, with the CAUSE that Table 6-6 gives an uncorrectable
line or a denial; a tag error and a poisoned line count as uncorrectable there (DESIGN CHOICE, log entry 66). -/
def errDetail : MemErr → Word
  | .range a => place 0 48 (a / 64 * 64)
  | .uncorrectable a | .badTag a | .poison a => place 56 8 1 ||| place 0 48 (a / 64 * 64)
  | .protect a _ _ => place 56 8 2 ||| place 0 48 (a / 64 * 64)

/-- n bytes of HBM from an address become free values, in good lines. -/
def scramble (s : State) (a n : Nat) : State :=
  let (bs, s1) := freeBytes n s
  { s1 with mem := { s1.mem with hbm := putBytes s1.mem.hbm a bs } }

end Sys2Proof.Machine
end

