-- ==== Sys2Proof/Machine/Stirrup.lean ====
section
/-! DEFINITION. What every descriptor shares: the stirrups' states and halts (R184, R185, R581), completion records and
signals (R178, R183, R586), kernel store banks (R193) and quiescence (R207). -/

namespace Sys2Proof.Machine

/-- The stirrup's step agrees with its complement (R158). -/
def stepGood (s : State) (t : Nat) : Bool := complOk (s.reg .dspStep t 0) (s.reg .dspStepInv t 0)

/-- SIGNAL and EXEC, the two halves of the word at 32. -/
def dSignal (ws : List Word) : Option Nat := if bit (dWord ws 32) 31 then some (dField ws 32 0 12) else none
def dExec (ws : List Word) : Nat := dField ws 32 32 32
def dHist (ws : List Word) : Nat := dField ws 32 62 2
def dStoreMode (ws : List Word) : Nat := dField ws 32 60 2
def dStream (ws : List Word) : Nat := dField ws 32 48 8
def dLayer (ws : List Word) : Nat := dField ws 32 32 16

/-! Kernel store banks. -/

def State.bank (s : State) (d b : Nat) : KstBank := sget {} s.d.banks (2 * d + b)
def State.setBank (s : State) (d b : Nat) (x : KstBank) : State :=
  { s with d := { s.d with banks := sset {} s.d.banks (2 * d + b) x } }

/-- The compute die of a stirrup (R24, R156). -/
def dieOf (t : Nat) : Nat := if t < 300 then t / 75 else t - 300

/-- The stirrups of a die. -/
def dieStirrups (d : Nat) : List Nat := (List.range 75).map (75 * d + ·) ++ [300 + d]

/-- Descriptors that fetch from a bank: VEC_KERNEL and TACK_CALL in flight (R193). -/
def fetches (b : Nat) (x : InFlight) : Bool := (dOpcode x.words == 0x18 || dOpcode x.words == 0x40) && x.bank == b

/-- Users of a bank (R193): stirrups whose current bank it is (each of the die's has one from the commit on, R197), and kernels
in flight. -/
def bankUsers (s : State) (d b : Nat) : Nat :=
  (dieStirrups d).foldl (fun n t =>
    let x := s.stir t
    n + (if s.m.locked ∧ x.bank = b then 1 else 0) + (x.flight.filter (fetches b)).length) 0

/-- The state code of a bank (Table 5-27). -/
def bankCode (s : State) (d b : Nat) : Nat :=
  match (s.bank d b).st with
  | .empty => 0
  | .loading => 1
  | .sealed => if bankUsers s d b = 0 then 2 else 3

/-- Work of the module goes on: it is quiescent no longer (R207). -/
def wake (s : State) : State := { s with d := { s.d with quiescent := false } }

/-! Halts. -/

/-- Run-ahead is cancelled (R191): the stirrup's speculative sectors become void. -/
def cancelRunAhead (s : State) (t : Nat) : State :=
  voidSpeculative (s.setStir t { s.stir t with prefetched := [] }) t

/-- A stirrup that has left OFF lies in a saddle group that is not ON: it keeps its state (R483). -/
def groupAway (s : State) (t : Nat) : Bool :=
  decide (t < 300) && (s.stir t).st != .off && !s.domainOn (stirrupDomain t)

/-- A stirrup that runs or is STOPPED enters HALTED, or STOPPED (R184), and cancels its run-ahead. A halt request on its way
still comes (R581); once HALTED, it has nothing to ask. -/
def enterHalt (s : State) (t : Nat) (halted : Bool) : State :=
  let x := s.stir t
  if x.st = .stopped ∧ groupAway s t then s
  else match x.st with
  | .off | .halted => s
  | .stopped | .run =>
    let y := { x with st := if halted then .halted else .stopped, request := if halted then none else x.request, hold := 0 }
    cancelRunAhead (s.setStir t y) t

/-- A halt request is sent to every stirrup but one that is OFF or HALTED already (R581) or keeps its state (R483); a request
for HALTED overrides one for STOPPED. -/
def requestHalts (s : State) (halted : Bool) (skip : Option Nat) : State :=
  let ask := fun (e : Nat × Stirrup) =>
    if some e.1 = skip ∨ e.2.st = .off ∨ e.2.st = .halted ∨ (e.2.st = .stopped ∧ (¬ halted ∨ groupAway s e.1)) then e
    else (e.1, { e.2 with request := some (halted || e.2.request = some true) })
  { s with d := { s.d with stirrups := s.d.stirrups.map ask } }

/-! Completion records (R183, R586). -/

/-- The four words of a completion record (Table 5-12). -/
def recordWords (opcode slot kgen fault : Nat) (stf : BitVec 4) (step detail : Word) : List Word :=
  [ place 56 8 opcode ||| place 32 24 slot ||| place 16 16 kgen ||| place 8 8 fault ||| place 0 4 stf.toNat,
    step, ~~~step, detail ]

/-- Write a completion record of stirrup t for slot p under class FETCH; what failed, if anything (R586). A record that would
lie at or above 2^40 fails as an address out of range (DESIGN CHOICE, log entry 75: R586 names other causes only). -/
def writeRecord (s : State) (t p : Nat) (ws : List Word) : Option MemErr × State :=
  let a := (s.reg .dspCplBase t 0).toNat + 32 * p
  let bad := if hbmSize < a + 32 then none else badLine s a 32
  match memWrite s .fetch {} a (wordsBytes ws) with
  | (some e, s1) => (some e, s1)
  | (none, s1) => (bad, s1)

/-- A signal sets out for a counter (R178). -/
def sendSignal (s : State) (c : Option Nat) : State :=
  match c with
  | some n => { s with d := { s.d with signals := s.d.signals ++ [n] } }
  | none => s

/-- First fault since VALID was cleared goes into DSP_FAULT_LAST (Table 5-27). -/
def captureFault (s : State) (t slot opcode fault : Nat) : State :=
  if bit (s.reg .dspFaultLast t 0) 63 then s
  else s.setReg .dspFaultLast t 0 (placeBit 63 true ||| place 24 24 slot ||| place 16 8 opcode ||| place 8 8 fault)

/-- Who faults: the descriptor as its record and its event name it. -/
structure Culprit where
  slot : Nat
  opcode : Nat
  kgen : Nat
  step : Word
  stf : BitVec 4
  deriving DecidableEq, Repr

/-- What R185 does once the record has been written: DESC_FAULT, DSP_FAULT_LAST, the stirrup HALTED with its run-ahead
cancelled, and a halt request to every other stirrup. -/
def raiseFault (s : State) (t : Nat) (x : Culprit) (fault : Nat) (detail : Word) : State :=
  let s1 := logEvent s 0x0001 (srcStirrup t) (some (x.step, BitVec.ofNat 24 x.slot)) (place 8 8 fault ||| place 0 8 x.opcode) detail 0
  requestHalts (enterHalt (captureFault s1 t x.slot x.opcode fault) t true) true (some t)

/-- A descriptor faults on stirrup t (R185): its record is written with the fault code, its counter is not signalled. -/
def faultDesc (s : State) (t : Nat) (x : Culprit) (fault : Nat) (detail : Word) : State :=
  let (_, s1) := writeRecord s t x.slot (recordWords x.opcode x.slot x.kgen fault x.stf x.step detail)
  raiseFault s1 t x fault detail

def culpritOf (f : InFlight) : Culprit := ⟨f.slot, dOpcode f.words, dKgen f.words, f.step, f.stf⟩

/-- Take a descriptor out of flight. -/
def dropFlight (s : State) (t : Nat) (f : InFlight) : State :=
  s.setStir t { s.stir t with flight := (s.stir t).flight.erase f }

/-- A descriptor that ended without a fault completes (R183): its record, then its signal and DESC_DONE, with `publish` between
them; a record that cannot be written makes it fault instead (R586), and `spoil` is what that does to what it has written. -/
def completeDesc (s : State) (t : Nat) (x : Culprit) (ws : List Word) (spoil publish : State → State := id) : State :=
  match writeRecord s t x.slot (recordWords x.opcode x.slot x.kgen 0 x.stf x.step 0) with
  | (some e, s1) => spoil (faultDesc (noteErr s1 .fetch e) t x (errFault e) (errDetail e))
  | (none, s1) =>
    let s2 := sendSignal (publish s1) (dSignal ws)
    if dEvent ws then
      logEvent s2 0x0002 (srcStirrup t) (some (x.step, BitVec.ofNat 24 x.slot)) (place 8 4 x.stf.toNat ||| place 0 8 x.opcode) 0 0
    else s2

/-! Counters (R174 to R176). -/

def ctrInv (s : State) (c : Nat) : Nat := s.fld .dspCtr c 0 24 24
def ctrGood (s : State) (c : Nat) : Bool := ctrInv s c == 2 ^ 24 - 1 - ctrValue s c
def setCtr (s : State) (c v : Nat) : State :=
  s.setReg .dspCtr c 0 (place 24 24 (2 ^ 24 - 1 - v % 2 ^ 24) ||| place 0 24 v)

/-! In flight. -/

/-- The oldest descriptor in flight of stirrup t with an opcode and a phase. -/
def oldest (s : State) (t opcode : Nat) (ph : Phase) : Option InFlight :=
  (s.stir t).flight.find? fun f : InFlight => dOpcode f.words = opcode ∧ f.phase = ph

/-- Put a changed descriptor back in flight, in its place. -/
def putFlight (s : State) (t : Nat) (old new : InFlight) : State :=
  s.setStir t { s.stir t with flight := (s.stir t).flight.map fun f => if f = old then new else f }

/-- The descriptor's execution ends, with its fault if it met one. -/
def endFlight (s : State) (t : Nat) (f : InFlight) (fault : Option (Nat × Word)) (stf : BitVec 4) : State :=
  putFlight s t f { f with phase := .ended, fault := fault, stf := f.stf ||| stf }

/-- Some stirrup is HALTED (Table 5-27). -/
def haltedAny (s : State) : Bool := s.d.stirrups.any fun x => x.2.st == .halted

end Sys2Proof.Machine
end

