-- ==== Sys2Proof/Machine/Operands.lean ====
section
/-! DEFINITION. Operand references (R164), element formats (Table 5-6a), and trees of sums (R84, R88, R293). -/

namespace Sys2Proof.Machine

/-! Operand references. -/

structure Operand where
  space : Nat
  fmt : Nat
  hint : Nat
  addr : Nat
  deriving DecidableEq, Repr

/-- An operand reference (Table 5-5). -/
def operandOf (w : Word) : Operand := ⟨field w 60 4, field w 56 4, field w 48 8, field w 0 48⟩

/-- The operand reference at a byte offset of a descriptor. -/
def dRef (ws : List Word) (off : Nat) : Operand := operandOf (dWord ws off)

def Operand.absent (o : Operand) : Bool := o.space == 0

/-- A reference is well formed as such (R164, R166): no reserved space; an absent one is all zero; only an HBM one has a
hint, of a listed policy and no reserved bit (Table 7-3). -/
def Operand.fine (o : Operand) : Bool :=
  decide (o.space ≤ 4) && (if o.space = 0 then o.fmt == 0 && o.hint == 0 && o.addr == 0 else true)
    && (if o.space = 1 then decide (o.hint < 8) && o.hint % 4 != 3 else o.hint == 0)

/-! Elements. -/

/-- Floating-point format of an FMT code. -/
def elemFmt : Nat → Option Fmt
  | 1 => some .fp64 | 2 => some .fp32 | 3 => some .bf16 | 4 => some .fp16 | 5 => some .e4m3 | 6 => some .e5m2
  | _ => none

/-- The codes of the elements of a string of bytes, w bytes each. -/
def codesOf (w : Nat) (bs : Bytes) : List Nat := (List.range (bs.length / w)).map fun i => leNat ((bs.drop (w * i)).take w)

/-- The bytes of some codes. -/
def bytesOf (w : Nat) (cs : List Nat) : Bytes := cs.flatMap (leBytes w)

/-- The larger of two values (R110, R228): a NaN gives itself, the left one first; −0 lies below +0; equal values give the
left one. -/
def FV.maxOf (a b : FV) : FV :=
  match firstNaN [a, b] with
  | some n => n
  | none => let c := FV.cmp a b; if c = 1 then a else if c = -1 then b else if a.signBit then b else a

/-- The smaller of two values (R110, R228). -/
def FV.minOf (a b : FV) : FV :=
  match firstNaN [a, b] with
  | some n => n
  | none => let c := FV.cmp a b; if c = -1 then a else if c = 1 then b else if b.signBit then b else a

/-! Trees. -/

/-- One level of a balanced tree: node i combines inputs 2i and 2i + 1, the lower on the left; a node with one input
outputs it (R84, R88). -/
def treeLevel {α : Type} (f : α → α → α) : List (Option α) → List (Option α)
  | [] => []
  | [x] => [x]
  | x :: y :: rest =>
    (match x, y with
      | some a, some b => some (f a b)
      | some a, none => some a
      | none, b => b) :: treeLevel f rest

/-- A balanced tree over leaves, some of them absent; `levels` bounds its height. -/
def treeGo {α : Type} (f : α → α → α) : Nat → List (Option α) → Option α
  | 0, xs => xs.headD none
  | _, [] => none
  | _, [x] => x
  | n + 1, xs => treeGo f n (treeLevel f xs)

def tree {α : Type} (f : α → α → α) (xs : List (Option α)) : Option α := treeGo f (Nat.log2 xs.length + 1) xs

/-- The tree sum of FP64 codes (R293): +0 for none. -/
def treeSum64 (xs : List Nat) : Nat := (tree (faddc .fp64) (xs.map some)).getD 0

end Sys2Proof.Machine
end

