-- ==== Sys2Proof/Machine/Solve64.lean ====
section
/-! DEFINITION. FP64 arithmetic of the solver on codes (R293), Householder QR (R308), the normal equations and their LDLᵀ
factorisation with floored pivots (R309, R316). -/

namespace Sys2Proof.Machine

/-! Arithmetic: every result rounded once, to nearest even. -/

def add64 (a b : Nat) : Nat := faddc .fp64 a b
def sub64 (a b : Nat) : Nat := fsubc .fp64 a b
def mul64 (a b : Nat) : Nat := fmulc .fp64 a b
def div64 (a b : Nat) : Nat := fdivc .fp64 a b
def sqrt64 (a : Nat) : Nat := fsqrtc .fp64 a
def neg64 (a : Nat) : Nat := fround .fp64 (fdecode .fp64 a).neg
def sin64 (a : Nat) : Nat := fround .fp64 (fdecode .fp64 a).sin
def cos64 (a : Nat) : Nat := fround .fp64 (fdecode .fp64 a).cos
def max64 (a b : Nat) : Nat := fround .fp64 (FV.maxOf (fdecode .fp64 a) (fdecode .fp64 b))
def min64 (a b : Nat) : Nat := fround .fp64 (FV.minOf (fdecode .fp64 a) (fdecode .fp64 b))
def lt64 (a b : Nat) : Bool := FV.lt (fdecode .fp64 a) (fdecode .fp64 b)
def fin64 (a : Nat) : Bool := (fdecode .fp64 a).isFinite
def one64 : Nat := f64OfInt 1

/-- 2^e. -/
def two64 (e : Int) : Nat := fround .fp64 (.fin false 1 e)

/-- A positive finite value. -/
def posFinite (a : Nat) : Bool := fin64 a && lt64 0 a

/-- A sum in sequence from +0 (R293). -/
def seqSum (xs : List Nat) : Nat := xs.foldl add64 0

/-- Elementwise operations on vectors. -/
def vAdd (a b : List Nat) : List Nat := List.zipWith add64 a b
def vSub (a b : List Nat) : List Nat := List.zipWith sub64 a b
def vMul (a b : List Nat) : List Nat := List.zipWith mul64 a b
def vScale (k : Nat) (a : List Nat) : List Nat := a.map (mul64 k)
def vNeg (a : List Nat) : List Nat := a.map neg64
def zeros (n : Nat) : List Nat := List.replicate n 0

/-- Inner products as a tree sum and as a sum in sequence. -/
def dotTree (a b : List Nat) : Nat := treeSum64 (vMul a b)
def dotSeq (a b : List Nat) : Nat := seqSum (vMul a b)

/-- Pieces of n elements; `fuel` bounds their number. -/
def piecesOf (n : Nat) : Nat → List Nat → List (List Nat)
  | 0, _ => []
  | _, [] => []
  | fuel + 1, xs => xs.take n :: piecesOf n fuel (xs.drop n)

/-- Pieces of 32. -/
def blocks32 (xs : List Nat) : List (List Nat) := piecesOf 32 xs.length xs

/-- Columns of a matrix given by rows of n. -/
def columns (n : Nat) (rows : List (List Nat)) : List (List Nat) := (List.range n).map fun j => rows.map fun r => r.getD j 0

/-! Pivots (R316). -/

/-- What a factorisation notes: pivots floored, and whether one was negative after flooring. -/
structure Pivots where
  floored : Nat := 0
  negative : Bool := false
  deriving DecidableEq, Repr

def Pivots.or (a b : Pivots) : Pivots := ⟨a.floored + b.floored, a.negative || b.negative⟩

/-- A pivot after the floor 2^pf, and whether the floor replaced it. A NaN is not floored. -/
def floorPivot (pf : Int) (x : Nat) : Nat × Bool :=
  match fdecode .fp64 x with
  | .fin s m e =>
    if FV.lt (.fin false m e) (.fin false 1 pf) then (fround .fp64 (.fin (s && m != 0) 1 pf), true) else (x, false)
  | _ => (x, false)

/-- A floored pivot of an LDLᵀ factorisation, noted; NEG_PIVOT is a mark of these alone (DEDUCED, log entry 30). -/
def notePivot (pf : Int) (x : Nat) : Nat × Pivots :=
  let (d, fl) := floorPivot pf x
  (d, ⟨if fl then 1 else 0, lt64 d 0⟩)

/-! QR (R308). -/

/-- A factorised system: the rows of R with the transformed right side, and its floored pivots. -/
structure QrOut where
  rows : List (List Nat × Nat) := []
  floored : Nat := 0
  deriving DecidableEq, Repr

/-- Reflect a vector: a ← a − τ v with τ = t ÷ (−α v₀). -/
def reflect (v : List Nat) (scale : Nat) (a : List Nat) : List Nat :=
  let tau := div64 (dotTree v a) scale
  List.zipWith (fun x y => sub64 x (mul64 tau y)) a v

/-- One column at a time; each vector holds the rows not yet finished. `n` bounds the columns. -/
def qrGo (pf : Int) : Nat → List (List Nat) → List Nat → QrOut
  | 0, _, _ => {}
  | _, [], _ => {}
  | n + 1, col :: cols, b =>
    let head := col.headD 0
    let norm := sqrt64 (dotTree col col)
    let (alpha, fl) := floorPivot pf (if head.testBit 63 then norm else neg64 norm)
    let v := sub64 head alpha :: col.tail
    let scale := mul64 (neg64 alpha) (v.headD 0)
    let cols1 := cols.map (reflect v scale)
    let b1 := reflect v scale b
    let rest := qrGo pf n (cols1.map List.tail) b1.tail
    { rows := (alpha :: cols1.map fun c => c.headD 0, b1.headD 0) :: rest.rows
      floored := rest.floored + if fl then 1 else 0 }

/-- QR of a system given by its columns and right side. -/
def qr (pf : Int) (cols : List (List Nat)) (b : List Nat) : QrOut := qrGo pf cols.length cols b

/-- Back substitution over rows (R_ii, R_i,i+1, …) with right sides, last row first. -/
def backSub : List (List Nat × Nat) → List Nat
  | [] => []
  | (row, c) :: rest =>
    let xs := backSub rest
    div64 (sub64 c (dotTree row.tail xs)) (row.headD 0) :: xs

/-! LDLᵀ (R309). -/

/-- A factor: for each row the entries of L left of the diagonal, and its pivot. -/
structure Ldl where
  rows : List (List Nat × Nat) := []
  noted : Pivots := {}
  deriving DecidableEq, Repr

/-- h less the tree sums of blocks of 32 terms, in increasing block order. -/
def lessBlocks (h : Nat) (terms : List Nat) : Nat := (blocks32 terms).foldl (fun a b => sub64 a (treeSum64 b)) h

/-- round(round(l_ij d_j) l_kj) for the columns j both rows have. -/
def ldlTerms (li ds lk : List Nat) : List Nat := List.zipWith mul64 (vMul li ds) lk

/-- The entries of a row of L, from rows factored before and the row of H. -/
def ldlEntries (ds : List Nat) : List (List Nat × Nat) → List Nat → List Nat → List Nat
  | [], _, li => li
  | (lk, dk) :: prev, h, li =>
    ldlEntries ds prev h.tail (li ++ [div64 (lessBlocks (h.headD 0) (ldlTerms (li.take lk.length) ds lk)) dk])

/-- Factor one more row of H (its entries up to the diagonal). -/
def ldlRow (pf : Int) (f : Ldl) (h : List Nat) : Ldl :=
  let ds := f.rows.map Prod.snd
  let li := ldlEntries ds f.rows h []
  let (d, n) := notePivot pf (lessBlocks (h.getD f.rows.length 0) (ldlTerms li ds li))
  { rows := f.rows ++ [(li, d)], noted := f.noted.or n }

/-- Factor a symmetric matrix given by the rows of its lower triangle, diagonal included. -/
def ldl (pf : Int) (lower : List (List Nat)) : Ldl := lower.foldl (ldlRow pf) {}

/-- L y = g. -/
def solveLower (rows : List (List Nat)) (g : List Nat) : List Nat :=
  (rows.zip g).foldl (fun ys z => ys ++ [sub64 z.2 (dotTree z.1 ys)]) []

/-- Rows above each diagonal entry, from rows left of it. -/
def upperRows (rows : List (List Nat)) : List (List Nat) :=
  (List.range rows.length).map fun k => (rows.drop (k + 1)).map fun r => r.getD k 0

/-- Lᵀ x = z over the rows of Lᵀ right of the diagonal. -/
def solveUnitUpper : List (List Nat) → List Nat → List Nat
  | [], _ => []
  | row :: rows, z =>
    let xs := solveUnitUpper rows z.tail
    sub64 (z.headD 0) (dotTree row xs) :: xs

/-- L D Lᵀ x = g. -/
def ldlSolve (f : Ldl) (g : List Nat) : List Nat :=
  let ls := f.rows.map Prod.fst
  solveUnitUpper (upperRows ls) (List.zipWith div64 (solveLower ls g) (f.rows.map Prod.snd))

/-! The normal equations (R309). -/

/-- A sum over rows: chunks of 32 as tree sums, added in sequence. -/
def chunkSum (xs : List Nat) : Nat := seqSum ((blocks32 xs).map treeSum64)

/-- The lower triangle of H = ÃᵀÃ + RIDGE × I. -/
def normalLower (ridge : Nat) (cols : List (List Nat)) : List (List Nat) :=
  cols.zipIdx.map fun z : List Nat × Nat =>
    ((cols.take (z.2 + 1)).zipIdx.map fun w : List Nat × Nat =>
      let h := chunkSum (vMul z.1 w.1)
      if w.2 = z.2 then add64 h ridge else h)

/-- g = Ãᵀb̃. -/
def normalRight (cols : List (List Nat)) (b : List Nat) : List Nat := cols.map fun c => chunkSum (vMul c b)

end Sys2Proof.Machine
end

