-- ==== Sys2Proof/Machine/Bundle.lean ====
section
/-! DEFINITION. Bundle adjustment: the camera model with its derivatives (R304) and Levenberg–Marquardt with a Schur
complement (R310 to R313). -/

namespace Sys2Proof.Machine

/-! Values that carry their partial derivatives (R304). -/

structure Dual where
  v : Nat
  d : List Nat
  deriving DecidableEq, Repr

def Dual.add (a b : Dual) : Dual := ⟨add64 a.v b.v, vAdd a.d b.d⟩
def Dual.sub (a b : Dual) : Dual := ⟨sub64 a.v b.v, vSub a.d b.d⟩
def Dual.mul (a b : Dual) : Dual :=
  ⟨mul64 a.v b.v, List.zipWith (fun x y => add64 (mul64 x b.v) (mul64 a.v y)) a.d b.d⟩
def Dual.div (a b : Dual) : Dual :=
  let q := div64 a.v b.v
  ⟨q, List.zipWith (fun x y => div64 (sub64 x (mul64 q y)) b.v) a.d b.d⟩
def Dual.sqrt (a : Dual) : Dual :=
  let s := sqrt64 a.v
  ⟨s, a.d.map fun x => div64 x (mul64 (f64OfInt 2) s)⟩
def Dual.sin (a : Dual) : Dual := ⟨sin64 a.v, vScale (cos64 a.v) a.d⟩
def Dual.cos (a : Dual) : Dual := ⟨cos64 a.v, vScale (neg64 (sin64 a.v)) a.d⟩

/-- A constant: its partial derivatives are +0. -/
def Dual.const (n v : Nat) : Dual := ⟨v, zeros n⟩
/-- Unknown i of n. -/
def Dual.unknown (n i v : Nat) : Dual := ⟨v, (List.range n).map fun k => if k = i then one64 else 0⟩

/-- Three coordinates. -/
structure Dual3 where
  x : Dual
  y : Dual
  z : Dual
  deriving DecidableEq, Repr

def Dual3.add (a b : Dual3) : Dual3 := ⟨a.x.add b.x, a.y.add b.y, a.z.add b.z⟩
def Dual3.mul (a : Dual3) (k : Dual) : Dual3 := ⟨a.x.mul k, a.y.mul k, a.z.mul k⟩
def Dual3.cross (a b : Dual3) : Dual3 :=
  ⟨(a.y.mul b.z).sub (a.z.mul b.y), (a.z.mul b.x).sub (a.x.mul b.z), (a.x.mul b.y).sub (a.y.mul b.x)⟩
/-- A sum of three terms, as a tree. -/
def Dual3.dot (a b : Dual3) : Dual := ((a.x.mul b.x).add (a.y.mul b.y)).add (a.z.mul b.z)

/-! The batch as the cinch reads it (Table 8-2). -/

structure Obs where
  cam : Nat
  pt : Nat
  zx : Nat
  zy : Nat
  sigma : Nat
  deriving DecidableEq, Repr

structure Bundle where
  c : Nat
  cams : List (List Nat)
  intr : List (List Nat)
  pts : List (List Nat)
  obs : List Obs
  deriving DecidableEq, Repr

/-- Unknowns: cameras and points. -/
structure Unknowns where
  cams : List (List Nat)
  pts : List (List Nat)
  deriving DecidableEq, Repr

def Unknowns.words (x : Unknowns) : List Nat := x.cams.flatten ++ x.pts.flatten
def Unknowns.plus (x y : Unknowns) : Unknowns := ⟨List.zipWith vAdd x.cams y.cams, List.zipWith vAdd x.pts y.pts⟩
def Unknowns.minus (x y : Unknowns) : Unknowns := ⟨List.zipWith vSub x.cams y.cams, List.zipWith vSub x.pts y.pts⟩

/-- Words as nc cameras of c words and np points. -/
def unknownsOf (c nc np : Nat) (ws : List Nat) : Unknowns :=
  ⟨(List.range nc).map fun i => (ws.drop (c * i)).take c, (List.range np).map fun j => (ws.drop (c * nc + 3 * j)).take 3⟩

/-- One observation of a pass: its residual, its rows A_o and B_o, and whether it is masked in this pass. -/
structure Term where
  r : List Nat
  a : List (List Nat)
  b : List (List Nat)
  masked : Bool
  deriving DecidableEq, Repr

def maskedTerm (c : Nat) : Term := ⟨[0, 0], [zeros c, zeros c], [zeros 3, zeros 3], true⟩

/-- The point in the camera's frame (R304). -/
def toCamera (n : Nat) (w t p : Dual3) : Dual3 :=
  let th2 := w.dot w
  let theta := th2.sqrt
  if lt64 theta.v (two64 (-26)) then (p.add (w.cross p)).add t
  else
    let k : Dual3 := ⟨w.x.div theta, w.y.div theta, w.z.div theta⟩
    let turn := (k.dot p).mul ((Dual.const n one64).sub theta.cos)
    (((p.mul theta.cos).add ((k.cross p).mul theta.sin)).add (k.mul turn)).add t

/-- Observation o at camera words, intrinsics and point words (R304). -/
def project (c : Nat) (cam intr pt : List Nat) (o : Obs) : Term :=
  if o.sigma = 0 then maskedTerm c
  else
    let n := c + 3
    let u := fun (i : Nat) => Dual.unknown n i (cam.getD i 0)
    let q := fun (i : Nat) => Dual.unknown n (c + i) (pt.getD i 0)
    let k := fun (i : Nat) => Dual.const n (intr.getD i 0)
    let (f, k1, k2) := if c = 9 then (u 6, u 7, u 8) else (k 0, k 3, k 4)
    let pc := toCamera n ⟨u 0, u 1, u 2⟩ ⟨u 3, u 4, u 5⟩ ⟨q 0, q 1, q 2⟩
    if lt64 0 pc.z.v then
      let x := pc.x.div pc.z
      let y := pc.y.div pc.z
      let r2 := (x.mul x).add (y.mul y)
      let dist := ((Dual.const n one64).add (k1.mul r2)).add ((k2.mul r2).mul r2)
      let sg := Dual.const n o.sigma
      let fd := f.mul dist
      let rx := sg.mul (((fd.mul x).add (k 1)).sub (Dual.const n o.zx))
      let ry := sg.mul (((fd.mul y).add (k 2)).sub (Dual.const n o.zy))
      ⟨[rx.v, ry.v], [rx.d.take c, ry.d.take c], [rx.d.drop c, ry.d.drop c], false⟩
    else maskedTerm c

/-- A latigo pass. -/
def latigoPass (g : Bundle) (x : Unknowns) : List Term :=
  g.obs.map fun o => project g.c (x.cams.getD o.cam []) (g.intr.getD o.cam []) (x.pts.getD o.pt []) o

/-- 0.5 × the tree sum of squares (R307). -/
def costOf (r : List Nat) : Nat := mul64 (two64 (-1)) (dotTree r r)
def passCost (ts : List Term) : Nat := costOf (ts.flatMap fun t : Term => t.r)

/-! Normal blocks (R311). -/

/-- The 2-term products of columns of two row pairs. -/
def gram (a b : List (List Nat)) : List (List Nat) :=
  let col := fun (m : List (List Nat)) (j : Nat) => m.map fun r => r.getD j 0
  (List.range (a.headD []).length).map fun i => (List.range (b.headD []).length).map fun j => dotTree (col a i) (col b j)

/-- A row pair applied to a residual, Aᵀr. -/
def gramRight (a : List (List Nat)) (r : List Nat) : List Nat := (gram a (r.map fun x => [x])).map fun row => row.headD 0

def mAdd (a b : List (List Nat)) : List (List Nat) := List.zipWith vAdd a b
def zeroMat (n m : Nat) : List (List Nat) := List.replicate n (zeros m)

/-- The lower triangle of a square block. -/
def lowerOf (m : List (List Nat)) : List (List Nat) := m.zipIdx.map fun z => z.1.take (z.2 + 1)

/-- Damp a block: its diagonal entries become round(h + round(μ max(h, 2^DF))). -/
def damp (mu floor : Nat) (m : List (List Nat)) : List (List Nat) :=
  m.zipIdx.map fun z => z.1.zipIdx.map fun w =>
    if w.2 = z.2 then add64 w.1 (mul64 mu (max64 w.1 floor)) else w.1

/-- Observations with their terms and W_o. -/
structure Tied where
  o : Obs
  t : Term
  w : List (List Nat)
  deriving DecidableEq, Repr

/-- The damped blocks and gradient: U_i, factored V_j, the observations of each point with W_o, and what flooring noted. -/
structure Normal where
  u : List (List (List Nat))
  v : List Ldl
  tied : List (List Tied)
  gc : List (List Nat)
  gp : List (List Nat)
  noted : Pivots
  deriving DecidableEq, Repr

def normalBlocks (g : Bundle) (ts : List Term) (mu : Nat) (df pf : Int) : Normal :=
  let fl := two64 df
  let all := (g.obs.zip ts).map fun z => (⟨z.1, z.2, gram z.2.a z.2.b⟩ : Tied)
  let ofCam := fun (i : Nat) => all.filter fun x : Tied => x.o.cam == i
  let ofPt := fun (j : Nat) => all.filter fun x : Tied => x.o.pt == j
  let nc := List.range g.cams.length
  let np := List.range g.pts.length
  let v := np.map fun j =>
    ldl pf (lowerOf (damp mu fl ((ofPt j).foldl (fun m x => mAdd m (gram x.t.b x.t.b)) (zeroMat 3 3))))
  { u := nc.map fun i => damp mu fl ((ofCam i).foldl (fun m x => mAdd m (gram x.t.a x.t.a)) (zeroMat g.c g.c))
    v := v
    tied := np.map ofPt
    gc := nc.map fun i => (ofCam i).foldl (fun m x => vAdd m (gramRight x.t.a x.t.r)) (zeros g.c)
    gp := np.map fun j => (ofPt j).foldl (fun m x => vAdd m (gramRight x.t.b x.t.r)) (zeros 3)
    noted := v.foldl (fun n f => n.or f.noted) {} }

/-! The reduced solve (R312, R313). -/

/-- A matrix times a vector, sums in sequence (R293). -/
def mulVec (m : List (List Nat)) (x : List Nat) : List Nat := m.map fun r => dotSeq r x

/-- Put a value at a place of a list of vectors, added to what is there. -/
def addAt (xs : List (List Nat)) (i : Nat) (y : List Nat) : List (List Nat) := xs.modify i fun x => vAdd x y

/-- Σ_o W_o y_j by cameras, over points in order and over each point's observations. -/
def wSum (n : Normal) (ys : List (List Nat)) : List (List Nat) :=
  (n.tied.zip ys).foldl (fun acc z => z.1.foldl (fun acc x => addAt acc x.o.cam (mulVec x.w z.2)) acc)
    (n.u.map fun m => zeros m.length)

/-- Σ W_oᵀ x_i by points. -/
def wtSum (n : Normal) (xs : List (List Nat)) : List (List Nat) :=
  n.tied.map fun os => os.foldl (fun acc x => vAdd acc (mulVec (columns 3 x.w) (xs.getD x.o.cam []))) (zeros 3)

/-- V⁻¹ by points. -/
def vInv (n : Normal) (ys : List (List Nat)) : List (List Nat) := List.zipWith ldlSolve n.v ys

/-- The entries of Σ W_o V_j⁻¹ W_o′ᵀ at camera rows and columns: block by block over ordered pairs. -/
def schurSum (n : Normal) (c : Nat) : List (List Nat) :=
  let size := n.u.length * c
  let put := fun (acc : List (List Nat)) (f : Ldl) (x y : Tied) =>
    let half := y.w.map (ldlSolve f)
    x.w.zipIdx.foldl (fun acc row =>
      half.zipIdx.foldl (fun acc col =>
        acc.modify (c * x.o.cam + row.2) fun r => r.modify (c * y.o.cam + col.2) fun e => add64 e (dotSeq row.1 col.1))
        acc) acc
  (n.tied.zip n.v).foldl (fun acc z => z.1.foldl (fun acc x => z.1.foldl (fun acc y => put acc z.2 x y) acc) acc)
    (zeroMat size size)

/-- S = U − Σ, its lower triangle. -/
def schurLower (n : Normal) (c : Nat) : List (List Nat) :=
  (lowerOf (schurSum n c)).zipIdx.map fun z => z.1.zipIdx.map fun w =>
    let u := if z.2 / c = w.2 / c then ((n.u.getD (z.2 / c) []).getD (z.2 % c) []).getD (w.2 % c) 0 else 0
    sub64 u w.1

/-- What a reduced solve gives: the camera step, what flooring noted, and whether it broke down. -/
structure Reduced where
  dc : List (List Nat)
  noted : Pivots := {}
  broke : Bool := false
  deriving DecidableEq, Repr

/-- S p = U p − W (V⁻¹ (Wᵀ p)). -/
def schurTimes (n : Normal) (p : List (List Nat)) : List (List Nat) :=
  List.zipWith vSub (List.zipWith mulVec n.u p) (wSum n (vInv n (wtSum n p)))

/-- A conjugate-gradient state; `stop` once an iteration has left the iterate unchanged. -/
structure Cg where
  x : List (List Nat)
  r : List (List Nat)
  p : List (List Nat)
  rz : Nat
  stop : Bool := false
  broke : Bool := false
  deriving DecidableEq, Repr

/-- Inner product of vectors held by cameras, a tree sum. -/
def dotCams (a b : List (List Nat)) : Nat := dotTree a.flatten b.flatten

/-- One iteration (R313). -/
def cgStep (n : Normal) (pre : List Ldl) (q : Cg) : Cg :=
  if q.stop then q
  else
    let sp := schurTimes n q.p
    let psp := dotCams q.p sp
    if posFinite psp ∧ posFinite q.rz then
      let alpha := div64 q.rz psp
      let x := List.zipWith vAdd q.x (q.p.map (vScale alpha))
      let r := List.zipWith vSub q.r (sp.map (vScale alpha))
      let z := List.zipWith ldlSolve pre r
      let rz := dotCams r z
      let beta := div64 rz q.rz
      { q with x := x, r := r, p := List.zipWith vAdd z (q.p.map (vScale beta)), rz := rz }
    else { q with stop := true, broke := q.rz != 0 }

def cgGo (n : Normal) (pre : List Ldl) : Nat → Cg → Cg
  | 0, q => q
  | k + 1, q => cgGo n pre k (cgStep n pre q)

/-- The terms of a solve that every iteration uses. -/
structure Method where
  c : Nat
  implicit : Bool
  cgIters : Nat
  pf : Int
  start : List (List Nat)
  deriving DecidableEq, Repr

/-- δc (R312). -/
def cameraStep (m : Method) (n : Normal) : Reduced :=
  let gt := List.zipWith vSub n.gc (wSum n (vInv n n.gp))
  let rhs := gt.map vNeg
  if m.implicit then
    let pre := n.u.map fun u => ldl m.pf (lowerOf u)
    let r := List.zipWith vSub rhs (schurTimes n m.start)
    let z := List.zipWith ldlSolve pre r
    let q := cgGo n pre m.cgIters { x := m.start, r := r, p := z, rz := dotCams r z }
    { dc := q.x, noted := pre.foldl (fun a f => a.or f.noted) {}, broke := q.broke }
  else
    let f := ldl m.pf (schurLower n m.c)
    let x := ldlSolve f rhs.flatten
    { dc := (List.range n.u.length).map fun i => (x.drop (m.c * i)).take m.c, noted := f.noted }

/-- The solution of h δ = −g with what it noted: the camera step, then δp_j = V_j⁻¹(−g_pj − Σ W_oᵀ δc_i). -/
def reducedSolve (m : Method) (n : Normal) : Unknowns × Pivots × Bool :=
  let q := cameraStep m n
  (⟨q.dc, vInv n (List.zipWith vSub (n.gp.map vNeg) (wtSum n q.dc))⟩, n.noted.or q.noted, q.broke)

/-! The iteration (R310). -/

/-- The damping terms of a solve. -/
structure Damping where
  upExp : Nat
  downExp : Nat
  muMin : Int
  muMax : Int
  df : Int
  deriving DecidableEq, Repr

structure Lm where
  x : Unknowns
  ts : List Term
  cost : Nat
  mu : Nat
  accepted : Nat := 0
  noted : Pivots := {}
  broke : Bool := false
  deriving DecidableEq, Repr

def lmStep (g : Bundle) (m : Method) (k : Damping) (q : Lm) : Lm :=
  let n := normalBlocks g q.ts q.mu k.df m.pf
  let (delta, noted, broke) := reducedSolve m n
  let x := q.x.plus delta
  let ts := latigoPass g x
  let cost := passCost ts
  let q1 := { q with noted := q.noted.or noted, broke := q.broke || broke }
  if fin64 cost ∧ lt64 cost q.cost then
    { q1 with x := x, ts := ts, cost := cost, accepted := q.accepted + 1
              mu := max64 (mul64 q.mu (two64 (-(k.downExp : Int)))) (two64 k.muMin) }
  else { q1 with mu := min64 (mul64 q.mu (two64 k.upExp)) (two64 k.muMax) }

def lmGo (g : Bundle) (m : Method) (k : Damping) : Nat → Lm → Lm
  | 0, q => q
  | n + 1, q => lmGo g m k n (lmStep g m k q)

/-- The state before the first iteration. -/
def lmStart (g : Bundle) (x : Unknowns) (mu : Nat) : Lm :=
  let ts := latigoPass g x
  { x := x, ts := ts, cost := passCost ts, mu := mu }

end Sys2Proof.Machine
end

