-- ==== Sys2Proof/Machine/Crypto.lean ====
section
/-! DEFINITION. The digests and check codes the spec names: SHA-256 and SHA-384 (15 R528) and CRC-32C. The algorithms
are those of their public standards, which the spec names and does not restate (PRESUMED, log entry 11). -/

namespace Sys2Proof.Machine

/-- Round constants of SHA-256. -/
def sha256K : List Nat :=
  [0x428a2f98, 0x71374491, 0xb5c0fbcf, 0xe9b5dba5] ++
  [0x3956c25b, 0x59f111f1, 0x923f82a4, 0xab1c5ed5] ++
  [0xd807aa98, 0x12835b01, 0x243185be, 0x550c7dc3] ++
  [0x72be5d74, 0x80deb1fe, 0x9bdc06a7, 0xc19bf174] ++
  [0xe49b69c1, 0xefbe4786, 0x0fc19dc6, 0x240ca1cc] ++
  [0x2de92c6f, 0x4a7484aa, 0x5cb0a9dc, 0x76f988da] ++
  [0x983e5152, 0xa831c66d, 0xb00327c8, 0xbf597fc7] ++
  [0xc6e00bf3, 0xd5a79147, 0x06ca6351, 0x14292967] ++
  [0x27b70a85, 0x2e1b2138, 0x4d2c6dfc, 0x53380d13] ++
  [0x650a7354, 0x766a0abb, 0x81c2c92e, 0x92722c85] ++
  [0xa2bfe8a1, 0xa81a664b, 0xc24b8b70, 0xc76c51a3] ++
  [0xd192e819, 0xd6990624, 0xf40e3585, 0x106aa070] ++
  [0x19a4c116, 0x1e376c08, 0x2748774c, 0x34b0bcb5] ++
  [0x391c0cb3, 0x4ed8aa4a, 0x5b9cca4f, 0x682e6ff3] ++
  [0x748f82ee, 0x78a5636f, 0x84c87814, 0x8cc70208] ++
  [0x90befffa, 0xa4506ceb, 0xbef9a3f7, 0xc67178f2]

/-- Start values of SHA-256. -/
def sha256H : List Nat :=
  [0x6a09e667, 0xbb67ae85, 0x3c6ef372, 0xa54ff53a] ++
  [0x510e527f, 0x9b05688c, 0x1f83d9ab, 0x5be0cd19]

/-- Round constants of SHA-384. -/
def sha512K : List Nat :=
  [0x428a2f98d728ae22, 0x7137449123ef65cd, 0xb5c0fbcfec4d3b2f, 0xe9b5dba58189dbbc] ++
  [0x3956c25bf348b538, 0x59f111f1b605d019, 0x923f82a4af194f9b, 0xab1c5ed5da6d8118] ++
  [0xd807aa98a3030242, 0x12835b0145706fbe, 0x243185be4ee4b28c, 0x550c7dc3d5ffb4e2] ++
  [0x72be5d74f27b896f, 0x80deb1fe3b1696b1, 0x9bdc06a725c71235, 0xc19bf174cf692694] ++
  [0xe49b69c19ef14ad2, 0xefbe4786384f25e3, 0x0fc19dc68b8cd5b5, 0x240ca1cc77ac9c65] ++
  [0x2de92c6f592b0275, 0x4a7484aa6ea6e483, 0x5cb0a9dcbd41fbd4, 0x76f988da831153b5] ++
  [0x983e5152ee66dfab, 0xa831c66d2db43210, 0xb00327c898fb213f, 0xbf597fc7beef0ee4] ++
  [0xc6e00bf33da88fc2, 0xd5a79147930aa725, 0x06ca6351e003826f, 0x142929670a0e6e70] ++
  [0x27b70a8546d22ffc, 0x2e1b21385c26c926, 0x4d2c6dfc5ac42aed, 0x53380d139d95b3df] ++
  [0x650a73548baf63de, 0x766a0abb3c77b2a8, 0x81c2c92e47edaee6, 0x92722c851482353b] ++
  [0xa2bfe8a14cf10364, 0xa81a664bbc423001, 0xc24b8b70d0f89791, 0xc76c51a30654be30] ++
  [0xd192e819d6ef5218, 0xd69906245565a910, 0xf40e35855771202a, 0x106aa07032bbd1b8] ++
  [0x19a4c116b8d2d0c8, 0x1e376c085141ab53, 0x2748774cdf8eeb99, 0x34b0bcb5e19b48a8] ++
  [0x391c0cb3c5c95a63, 0x4ed8aa4ae3418acb, 0x5b9cca4f7763e373, 0x682e6ff3d6b2b8a3] ++
  [0x748f82ee5defb2fc, 0x78a5636f43172f60, 0x84c87814a1f0ab72, 0x8cc702081a6439ec] ++
  [0x90befffa23631e28, 0xa4506cebde82bde9, 0xbef9a3f7b2c67915, 0xc67178f2e372532b] ++
  [0xca273eceea26619c, 0xd186b8c721c0c207, 0xeada7dd6cde0eb1e, 0xf57d4f7fee6ed178] ++
  [0x06f067aa72176fba, 0x0a637dc5a2c898a6, 0x113f9804bef90dae, 0x1b710b35131c471b] ++
  [0x28db77f523047d84, 0x32caab7b40c72493, 0x3c9ebe0a15c9bebc, 0x431d67c49c100d4c] ++
  [0x4cc5d4becb3e42b6, 0x597f299cfc657e2a, 0x5fcb6fab3ad6faec, 0x6c44198c4a475817]

/-- Start values of SHA-384. -/
def sha384H : List Nat :=
  [0xcbbb9d5dc1059ed8, 0x629a292a367cd507, 0x9159015a3070dd17, 0x152fecd8f70e5939] ++
  [0x67332667ffc00b31, 0x8eb44a8768581511, 0xdb0c2e0d64f98fa7, 0x47b5481dbefa4fa4]

/-- Big-endian value of a string of bytes. -/
def beNat (bs : Bytes) : Nat := bs.foldl (fun a b => a * 256 + b.toNat) 0

/-- The n low bytes of a number, most significant first. -/
def beBytes (n v : Nat) : Bytes := (leBytes n v).reverse

/-- Cut a string into pieces of n bytes; `fuel` bounds the pieces. -/
def chunksOf (n : Nat) : Nat → Bytes → List Bytes
  | 0, _ => []
  | _, [] => []
  | fuel + 1, bs => bs.take n :: chunksOf n fuel (bs.drop n)

/-- Rotate a w-bit number right. -/
def rotr (w x n : Nat) : Nat := (x >>> n ||| (x <<< (w - n))) % 2 ^ w

/-- The rotations that set SHA-256 and SHA-384 apart: word width, and the amounts of Σ0, Σ1, σ0, σ1. -/
structure ShaParam where
  w : Nat
  bs0 : Nat × Nat × Nat
  bs1 : Nat × Nat × Nat
  ss0 : Nat × Nat × Nat
  ss1 : Nat × Nat × Nat

def shaP256 : ShaParam := ⟨32, (2, 13, 22), (6, 11, 25), (7, 18, 3), (17, 19, 10)⟩
def shaP512 : ShaParam := ⟨64, (28, 34, 39), (14, 18, 41), (1, 8, 7), (19, 61, 6)⟩

def shaBig (w : Nat) (r : Nat × Nat × Nat) (x : Nat) : Nat :=
  rotr w x r.1 ^^^ rotr w x r.2.1 ^^^ rotr w x r.2.2
def shaSmall (w : Nat) (r : Nat × Nat × Nat) (x : Nat) : Nat :=
  rotr w x r.1 ^^^ rotr w x r.2.1 ^^^ (x >>> r.2.2)

/-- The message schedule, newest word first: `n` more words are made from the sixteen before them. -/
def shaSchedule (p : ShaParam) : Nat → List Nat → List Nat
  | 0, ws => ws
  | n + 1, ws =>
    let t := (shaSmall p.w p.ss1 (ws.getD 1 0) + ws.getD 6 0 + shaSmall p.w p.ss0 (ws.getD 14 0) + ws.getD 15 0)
    shaSchedule p n ((t % 2 ^ p.w) :: ws)

/-- The rounds over (constant, schedule word) pairs. -/
def shaRounds (p : ShaParam) : List (Nat × Nat) → List Nat → List Nat
  | [], h => h
  | (k, w) :: r, [a, b, c, d, e, f, g, h] =>
    let m := 2 ^ p.w
    let ch := (e &&& f) ^^^ ((m - 1 - e) &&& g)
    let t1 := h + shaBig p.w p.bs1 e + ch + k + w
    let maj := (a &&& b) ^^^ (a &&& c) ^^^ (b &&& c)
    let t2 := shaBig p.w p.bs0 a + maj
    shaRounds p r [(t1 + t2) % m, a, b, c, (d + t1) % m, e, f, g]
  | _, h => h

/-- One block: the new chaining value. -/
def shaBlock (p : ShaParam) (ks : List Nat) (h : List Nat) (blk : Bytes) : List Nat :=
  let ws := (chunksOf (p.w / 8) 16 blk).map beNat
  let sched := (shaSchedule p (ks.length - 16) ws.reverse).reverse
  (h.zip (shaRounds p (ks.zip sched) h)).map fun x => (x.1 + x.2) % 2 ^ p.w

/-- Pad a message to whole blocks of b bytes with a length field of l bytes. -/
def shaPad (b l : Nat) (msg : Bytes) : Bytes :=
  let n := msg.length
  let z := (b - (n + 1 + l) % b) % b
  msg ++ [0x80] ++ List.replicate z 0 ++ beBytes l (8 * n)

/-- SHA-256 of a message, 32 bytes. -/
def sha256 (msg : Bytes) : Bytes :=
  let m := shaPad 64 8 msg
  let h := (chunksOf 64 (m.length / 64) m).foldl (shaBlock shaP256 sha256K) sha256H
  h.flatMap (beBytes 4)

/-- SHA-384 of a message, 48 bytes. -/
def sha384 (msg : Bytes) : Bytes :=
  let m := shaPad 128 16 msg
  let h := (chunksOf 128 (m.length / 128) m).foldl (shaBlock shaP512 sha512K) sha384H
  (h.take 6).flatMap (beBytes 8)

/-- One bit of a reflected CRC-32C register (polynomial 0x82F6_3B78 reflected). -/
def crcBits : Nat → Nat → Nat
  | 0, c => c
  | n + 1, c => crcBits n (if c % 2 = 1 then (c >>> 1) ^^^ 0x82F63B78 else c >>> 1)

/-- CRC-32C of a string of bytes. -/
def crc32c (bs : Bytes) : Nat :=
  (bs.foldl (fun c b => crcBits 8 (c ^^^ b.toNat)) 0xFFFFFFFF) ^^^ 0xFFFFFFFF

end Sys2Proof.Machine
end

