-- ==== Sys2Proof/Machine/Kernel.lean ====
section
/-! DEFINITION. Kernel images (R510, Table 14-7, Table 6-3): their checks and their tables. -/

namespace Sys2Proof.Machine

def kernLength (img : Bytes) : Nat := field (wordAt img 8) 0 20
def kernTackVer (img : Bytes) : Nat := field (wordAt img 0) 32 16
def kernRoutines (img : Bytes) : Nat := field (wordAt img 0) 16 16
def kernKernels (img : Bytes) : Nat := field (wordAt img 0) 0 16
def kernRtab (img : Bytes) : Nat := field (wordAt img 16) 0 20
def kernKtab (img : Bytes) : Nat := field (wordAt img 24) 0 20

/-- A routine table entry: index, version, byte offset and bytes of its code. -/
structure Routine where
  index : Nat
  rver : Nat
  start : Nat
  len : Nat
  deriving DecidableEq, Repr

/-- A kernel table entry (Table 6-3). -/
structure KernelEntry where
  index : Nat
  kver : Nat
  overlay : Bool
  start : Nat
  pro : Nat
  body : Nat
  epi : Nat
  deriving DecidableEq, Repr

def routines (img : Bytes) : List Routine :=
  (List.range (kernRoutines img)).map fun i =>
    let o := kernRtab img + 16 * i
    ⟨field (wordAt img o) 48 16, field (wordAt img o) 32 16, field (wordAt img (o + 8)) 39 19, field (wordAt img (o + 8)) 0 20⟩

def kernels (img : Bytes) : List KernelEntry :=
  (List.range (kernKernels img)).map fun i =>
    let o := kernKtab img + 16 * i
    let a := wordAt img o
    let b := wordAt img (o + 8)
    ⟨field a 48 16, field a 32 16, bit a 0, field b 39 19, field b 26 13, field b 13 13, field b 0 13⟩

def distinct (xs : List Nat) : Bool :=
  match xs with
  | [] => true
  | x :: rest => !rest.contains x && distinct rest

/-- The reserved fields of an image's header and table entries are zero (R7, Table 14-7, R510, Table 6-3; R510's own list does
not name them: DEDUCED, log entry 64). -/
def kernelPlain (img : Bytes) : Bool :=
  [8, 16, 24].all (fun o => field (wordAt img o) 20 44 == 0) && [32, 40, 48, 56].all (fun o => wordAt img o == 0)
    && ((List.range (kernRoutines img)).all fun i =>
      let o := kernRtab img + 16 * i
      field (wordAt img o) 0 32 == 0 && field (wordAt img (o + 8)) 58 6 == 0 && field (wordAt img (o + 8)) 20 19 == 0)
    && ((List.range (kernKernels img)).all fun i =>
      let o := kernKtab img + 16 * i
      field (wordAt img o) 1 31 == 0 && field (wordAt img (o + 8)) 58 6 == 0)

/-- A kernel image that R510 takes and whose digest verifies. An entry that breaks R220 only (BODY_LEN = 0, more than 8,192
instructions, a START that is no multiple of 8) is taken and runs as it stands: no rule gives a response to one (DESIGN CHOICE,
log entry 78). -/
def kernelGood (img : Bytes) : Bool :=
  let n := img.length
  let inside := fun (start len : Nat) => decide (64 ≤ start ∧ start + len ≤ n - 48)
  decide (112 ≤ n ∧ n ≤ 524288) && kernLength img == n
    && decide (kernRtab img + 16 * kernRoutines img ≤ n - 48) && decide (kernKtab img + 16 * kernKernels img ≤ n - 48)
    && kernelPlain img && distinct ((routines img).map Routine.index) && distinct ((kernels img).map KernelEntry.index)
    && (routines img).all (fun r => decide (r.index < 0x8000) && inside r.start r.len)
    && (kernels img).all (fun k => inside k.start (8 * (k.pro + k.body + k.epi)))
    && sha384 (img.take (n - 48)) == img.drop (n - 48)

/-- The digest an image carries. -/
def kernelDigest (img : Bytes) : Bytes := img.drop (img.length - 48)

def findRoutine (img : Bytes) (i : Nat) : Option Routine := (routines img).find? fun r : Routine => r.index == i
def findKernel (img : Bytes) (i : Nat) : Option KernelEntry := (kernels img).find? fun k : KernelEntry => k.index == i

end Sys2Proof.Machine
end

