-- ==== Sys2Proof/Machine/Link.lean ====
section
/-! DEFINITION. What the link ports share (11): frames (R419), the routing image (R421, R422), the stamp (R426, R427), port
states (R411 to R414), credits and blocks (R415 to R417). -/

namespace Sys2Proof

open Machine

/-! Frames. -/

def Frame.type (f : Frame) : Nat := field f.w0 60 4
def Frame.vc (f : Frame) : Nat := field f.w0 58 2
def Frame.len (f : Frame) : Nat := field f.w0 48 7
def Frame.src (f : Frame) : Nat := field f.w0 36 12
def Frame.dst (f : Frame) : Nat := field f.w0 24 12
def Frame.srcRole (f : Frame) : Nat := field f.w0 12 12
def Frame.sched (f : Frame) : Nat := field f.w5 54 10
def Frame.coll (f : Frame) : Nat := field f.w5 46 8
def Frame.tag (f : Frame) : Nat := field f.w5 38 8
/-- KIND of a CTRL frame. -/
def Frame.kind (f : Frame) : Nat := field f.w5 56 8
def Frame.offset (f : Frame) : Nat := field f.w6 0 40

/-- The CRC of a frame (Table 11-7): VC counts as zero. -/
def Frame.check (f : Frame) : Nat :=
  crc32c (wordsBytes [setField f.w0 58 2 0, f.w1, f.w2, f.w3, f.w4, f.w5, f.w6] ++ f.payload)

/-- Complete a header with the CRC. -/
def Frame.sealed (f : Frame) : Frame := { f with w7 := BitVec.ofNat 64 f.check }

/-- Reserved header fields are zero (Table 11-7). -/
def Frame.clean (f : Frame) : Bool :=
  field f.w0 55 2 == 0 && field f.w0 0 12 == 0 && field f.w6 40 24 == 0 && field f.w7 32 32 == 0
    && (if f.type = 4 then field f.w5 0 56 == 0 else field f.w5 0 38 == 0)

/-- A frame of a collective: DATA, OPEN or OPEN_RESULT. -/
def Frame.ofColl (f : Frame) : Bool := decide (1 ≤ f.type ∧ f.type ≤ 3)

/-- 64-byte units a frame takes in a receive buffer (R417). -/
def Frame.units (f : Frame) : Nat := 1 + f.len

end Sys2Proof

namespace Sys2Proof.Machine

/-! The module's own identity. -/

def State.memberId (s : State) : Nat := s.fld .cfgMemberId 0 0 0 12
/-- ROLE, or 0xFFF (R381). -/
def State.role (s : State) : Nat := s.fld .cfgRole 0 0 0 12
def State.roles (s : State) : Nat := s.fld .cfgRole 0 0 12 13
def State.partnerOffset (s : State) : Nat := s.fld .cfgRole 0 0 25 12
/-- The member's rein marks traffic (R440, R493). -/
def State.reined (s : State) : Bool := bit (s.reg .pwrStat 0 0) 1

/-! The routing image (Table 11-9). -/

structure NeighEntry where
  en : Bool
  any : Bool
  port : Nat
  member : Nat
  deriving DecidableEq, Repr

def neighEntry (img : Bytes) (p : Nat) : NeighEntry :=
  let e := imgNat img (8320 + 8 * p) 8
  ⟨e.testBit 17, e.testBit 16, e / 4096 % 16, e % 4096⟩

/-- The schedule record of an index, by its offset in the image. -/
def schedOffset (img : Bytes) (i : Nat) : Option Nat :=
  let e := imgNat img (61664 + 8 * i) 8
  if e.testBit 63 then some (e % 2 ^ 40) else none

/-- A schedule record's header and stages, as words. -/
def schedWords (img : Bytes) (o : Nat) : Word × Word × List (Word × Word) :=
  let w0 := imgWord img o
  (w0, imgWord img (o + 8),
    (List.range (field w0 0 17)).map fun k => (imgWord img (o + 64 + 16 * k), imgWord img (o + 72 + 16 * k)))

/-- A schedule record that R422 takes: inside the image, no reserved KIND, OP or field, OPEN_CHILDREN at most 4, at least
one stage and no stage with LEN = 0. -/
def schedGood (img : Bytes) (length o : Nat) : Bool :=
  let w0 := imgWord img o
  let n := field w0 0 17
  decide (o + 64 + 16 * n ≤ length) && decide (field w0 60 4 ≤ 3) && decide (field w0 44 4 ≤ 4) && decide (1 ≤ n)
    && field w0 17 27 == 0 && field (imgWord img (o + 8)) 48 16 == 0
    && (List.range 6).all (fun i => imgWord img (o + 16 + 8 * i) == 0)
    && (List.range n).all fun k =>
      let a := imgWord img (o + 64 + 16 * k)
      decide (field a 60 4 ≤ 3) && field a 56 1 == 0 && field a 0 16 == 0
        && decide (1 ≤ field (imgWord img (o + 72 + 16 * k)) 40 24)

/-- OWN_DIGEST: SHA-256 of the image with both digests taken as zero (R421). -/
def ownDigest (img : Bytes) : Bytes := sha256 (img.take 8 ++ List.replicate 64 0 ++ img.drop 72)

/-- A routing image's checks (R422): the status that refuses it, if one does. The reserved bits of ROLE_MAP, which R422's list
does not name, are malformed by R7 (DEDUCED, log entry 64). -/
def routeRefusal (s : State) (img : Bytes) : Option Nat :=
  let h := imgWord img 0
  let length := imgNat img 72 4
  let fine := decide (69856 ≤ img.length) && field h 48 16 == 1 && field h 12 36 == 0 && field h 0 12 == s.memberId
    && length == img.length && imgNat img 76 4 == 0 && (List.range 6).all (fun i => imgWord img (80 + 8 * i) == 0)
    && (List.range 4096).all (fun r => imgNat img (128 + 2 * r) 2 / 2 ^ 12 % 8 == 0)
    && (List.range 12).all (fun p => imgNat img (8320 + 8 * p) 8 < 2 ^ 18)
    && (List.range 53248).all (fun i => ! (imgByte img (8416 + i)).testBit 4)
    && (List.range 1024).all fun i =>
      let e := imgNat img (61664 + 8 * i) 8
      e / 2 ^ 40 % 2 ^ 23 == 0 && (match schedOffset img i with
        | some o => schedGood img length o
        | none => true)
  if ¬ fine then some 0x0704
  else if ownDigest img ≠ (img.drop 40).take 32 then some 0x0705
  else none

/-! Ports. -/

def State.port (s : State) (p : Nat) : LinkPort := sget {} s.f.ports p
def State.setPort (s : State) (p : Nat) (x : LinkPort) : State :=
  { s with f := { s.f with ports := sset {} s.f.ports p x } }

/-- Frames discarded (Table 11-24). -/
def countDropped (s : State) (n : Nat) : State := s.countHold .aflCollCnt 0 0 0 16 n

/-- The spares of a die assigned to a port, in order, at most two (R409). -/
def assignedSpares (s : State) (p : Nat) : List Nat :=
  let w := s.reg .aflSpareMap (p / 6) 0
  ((List.range 4).filter fun k => bit w (8 * k + 7) && field w (8 * k) 3 == p % 6).take 2

/-- What full training leaves: empty link state (R411); lanes out of use stay so. -/
def freshLink (x : LinkPort) : LinkPort :=
  { lanes := x.lanes, dead := x.dead, failed := x.failed, everUp := x.everUp, step := x.step, girthStep := x.girthStep }

/-- Trainings after the first UP are counted (Table 11-24). -/
def countRetrain (s : State) (p : Nat) : State :=
  if (s.port p).everUp then (s.bump 6 1).countHold .aflPortErr p 0 48 16 1 else s

/-- Full training starts, from OFF, DOWN or HELD (R411). -/
def startTraining (s : State) (p : Nat) : State :=
  let s1 := countRetrain s p
  s1.setPort p { freshLink (s1.port p) with st := .train, since := s.time }

/-- A fast retrain starts, from UP (R411, R414). -/
def fastRetrain (s : State) (p : Nat) : State :=
  let s1 := countRetrain s p
  logModule (s1.setPort p { s1.port p with st := .train, fast := true, since := s.time }) 0x0501 (srcLink p) 0 0 0

/-- A port enters DOWN (R411, R414): the frames of its replay buffer are discarded and counted. -/
def portDown (s : State) (p reason : Nat) : State :=
  let x := s.port p
  let lost := (x.replay.filter fun b : BitVec 16 × Option TxFrame => b.2.isSome).length
  let y : LinkPort := { x with st := .down, fast := false, since := s.time, version := 0, heldReason := 0, replay := [], sparing := none, again := [] }
  logModule ((countDropped s lost).setPort p y) 0x0502 (srcLink p) (BitVec.ofNat 64 reason) 0 0

/-- A port enters OFF: its domain went off, or it is not enabled (Table 11-2). -/
def portOff (s : State) (p : Nat) : State := s.setPort p { freshLink (s.port p) with st := .off }

/-- A port of a powered domain that EN and the neighbour table enable leaves OFF (Table 11-2). -/
def portStart (s : State) (p : Nat) : State :=
  if s.domainOn (64 + p) && bit (s.reg .aflPortCtrl p 0) 0 && (neighEntry s.c.route p).en && (s.port p).st == .off then
    startTraining s p
  else s

/-! Sending. -/

/-- A CTRL frame of this member (R419). -/
def ctrlFrame (s : State) (p kind : Nat) (payload : List Word) : Frame :=
  let n := neighEntry s.c.route p
  let id := s.reg .aflNeighId p 0
  let dst := if !n.any then n.member else if bit id 24 then field id 0 12 else 0
  { w0 := place 60 4 4 ||| placeBit 57 (s.reined && (s.port p).version ≠ 1) ||| place 48 7 1 ||| place 36 12 s.memberId
      ||| place 24 12 dst ||| place 12 12 s.role
    w1 := 0
    w2 := ~~~0
    w3 := s.reg .aflStamp 0 0
    w4 := ~~~(s.reg .aflStamp 0 0)
    w5 := place 56 8 kind
    w6 := 0
    w7 := 0
    payload := wordsBytes payload : Frame }.sealed

/-- The payload of IDENT and STAMP_UPDATE (Table 11-4). -/
def identPayload (s : State) (p : Nat) (accept : Bool) : List Word :=
  let w := place 48 16 0x6432 ||| place 36 12 s.memberId ||| place 32 4 p ||| place 28 4 (s.fld .aflCtrl 0 0 0 4)
    ||| place 24 4 (s.fld .aflCtrl 0 0 4 4) ||| place 22 2 (assignedSpares s p).length ||| placeBit 21 accept
  [w, s.reg .aflStamp 0 0, ~~~(s.reg .aflStamp 0 0), 0, 0, 0, 0, 0]

/-- A frame waits to leave a port. -/
def enqueue (s : State) (p : Nat) (t : TxFrame) : State :=
  s.setPort p { s.port p with queue := (s.port p).queue ++ [t] }

/-- Receive buffer of a VC in units (R417). -/
def vcCapacity (vc : Nat) : Nat := if vc = 0 then 256 else 4096

/-- The port holds credit for a whole frame on a VC (R417). -/
def hasCredit (x : LinkPort) (vc units : Nat) : Bool :=
  decide (((x.sentUnits.getD vc 0) - (x.peerFreed.getD vc 0)).toNat + units ≤ vcCapacity vc)

/-- A port's state carries a frame (Table 11-2): every frame when UP, IDENT frames in IDENT and HELD. -/
def stateCarries (x : LinkPort) (f : Frame) : Bool :=
  match x.st with
  | .up => true
  | .ident | .held => f.type == 4 && f.kind == 1
  | _ => false

/-- The port can start a frame now: its state carries it, fewer than 64 blocks are unacknowledged (R416) and it holds the
credit. -/
def canStart (x : LinkPort) (vc : Nat) (f : Frame) : Bool :=
  stateCarries x f && decide (x.replay.length < 64) && hasCredit x vc f.units

/-- The control word of the block that has some BSEQ (Table 11-6). -/
def controlWord (s : State) (p : Nat) (seq : BitVec 16) : BitVec 80 :=
  let x := s.port p
  let hi := x.version.toNat ≠ 1
  let cvc := seq.toNat % 4
  let spare := match x.sparing with
    | some y =>
      let code := if ¬ y.asked then 2 else if y.granted then 0 else 1
      place 24 4 code ||| place 21 3 y.lane ||| place 20 1 y.slot
    | none => 0
  let low := place 48 16 x.rxSeq.toNat ||| placeBit 47 x.nak ||| placeBit 46 (s.reined && hi) ||| place 44 2 cvc
    ||| place 28 16 (x.freed.getD cvc 0).toNat ||| (if hi then spare else 0)
  seq ++ low

/-- A block goes out: its control word, and the frame it carries, if it carries one. -/
def sendOut (s : State) (p : Nat) (b : BitVec 16 × Option TxFrame) : State :=
  let s1 := s.send (.control (Fin.ofNat 12 p) (controlWord s p b.1))
  match b.2 with
  | some t => s1.send (.frame (Fin.ofNat 12 p) t.vc { t.frame with w0 := setField t.frame.w0 58 2 t.vc })
  | none => s1

/-- A frame leaves a port on a VC in the next block. -/
def putOnLine (s : State) (p : Nat) (t : TxFrame) : State :=
  let x := s.port p
  let sent := x.sentUnits.modify t.vc (· + BitVec.ofNat 16 t.frame.units)
  let y : LinkPort := { x with nextSeq := x.nextSeq + 1, replay := x.replay ++ [(x.nextSeq, some t)], sentUnits := sent }
  sendOut (s.setPort p y) p (x.nextSeq, some t)

/-- A frame of this member as it leaves: REINED tells whether the member is reined (R440), and the CRC is computed (R420). -/
def asSent (s : State) (p : Nat) (f : Frame) : Frame :=
  ({ f with w0 := setField f.w0 57 1 (if s.reined && (s.port p).version != 1 then 1 else 0) }).sealed

/-- A routing load is under way: no frame is originated or forwarded (Table 14-12). -/
def portsLocked (s : State) : Bool :=
  s.maint.running.any fun a : Act => match a.what with | .routeLoad _ _ => true | _ => false

/-- The first frame waiting on a VC of a port. -/
def firstOn (x : LinkPort) (vc : Nat) : Option TxFrame := x.queue.find? fun t : TxFrame => t.vc == vc

/-- Start the first frame waiting on a VC, if the port can, the gate is open (R488) and no routing load holds the ports (Table 14-12). -/
def tryStart (s : State) (p vc : Nat) : State :=
  let x := s.port p
  match firstOn x vc with
  | some t =>
    if t.owner.isNone && s.m.gateOpen && !portsLocked s && canStart x vc t.frame then
      putOnLine (s.setPort p { x with queue := x.queue.erase t }) p { t with frame := asSent s p t.frame }
    else s
  | none => s

/-- A CTRL frame is made and started as soon as VC 0 allows. -/
def sendCtrl (s : State) (p kind : Nat) (accept : Bool) : State :=
  tryStart (enqueue s p ⟨0, ctrlFrame s p kind (identPayload s p accept), none⟩) p 0

/-! Totals (R361, R363): what a unit publishes when its step advances. -/

/-- The six totals of a unit for a step that has ended, with the step; the next step's begin at zero. -/
def publishTotals (k ks : RegKind) (u p : Nat) (step : Word) (s : State) : State :=
  clearPhases (((List.range 6).foldl (fun s j => s.setReg k p j (s.phaseTime u j)) s).setReg ks p 0 step) u

/-- A port handles collective traffic of a step. -/
def portStep (s : State) (p : Nat) (step : Word) : State :=
  let x := s.port p
  let s1 := s.setPort p { x with step := some step }
  match x.step with
  | some old => if old = step then s else publishTotals .aflPortPt .aflPortPtStep (portUnit p) p old s1
  | none => clearPhases s1 (portUnit p)

/-- A port handles a frame: its step is that of the collective traffic it handles last, whichever member the frame is for (R361). -/
def frameStep (s : State) (p : Nat) (f : Frame) : State := if f.ofColl then portStep s p f.w1 else s

/-- A girth handles collective traffic of a step. -/
def girthStep (s : State) (p : Nat) (step : Word) : State :=
  let x := s.port p
  let s1 := s.setPort p { x with girthStep := some step }
  match x.girthStep with
  | some old => if old = step then s else publishTotals .updGirthPt .updGirthPtStep (girthUnit p) p old s1
  | none => clearPhases s1 (girthUnit p)

/-! The stamp. -/

/-- Generations of the eight banks, EMPTY and LOADING as 0 (Table 11-12). -/
def bankGens (s : State) : Bytes :=
  (List.range 8).flatMap fun i =>
    let b : KstBank := sget {} s.d.banks i
    leBytes 2 (if b.st = .sealed then b.gen.toNat else 0)

/-- The stamp a configuration gives (R426), with the kernel store generations and INSTALL_DIGEST to use. -/
def stampWith (s : State) (gens digest : Bytes) : Word :=
  let regsOf := fun (k : RegKind) (n : Nat) => (List.range n).flatMap fun i => wordBytes (s.reg k i 0)
  let meas := (List.range 6).flatMap fun w => wordBytes (s.reg .secMeas 1 w)
  leWord (sha384 (wordBytes 1 ++ meas ++ gens ++ digest ++ regsOf .cfgPlannerBuild 4 ++ wordBytes (s.reg .cfgStartStep 0 0)
    ++ wordBytes (s.reg .updSeedShared 0 0) ++ wordBytes (s.reg .brcDigestKey 0 0) ++ wordBytes (s.reg .brcCtrl 0 0)
    ++ wordBytes (s.reg .brcNormBound 0 0) ++ wordBytes (setField (s.reg .cfgRole 0 0) 0 12 0)
    ++ wordBytes (placeBit 0 (bit (s.reg .updCtrl 0 0) 0) ||| place 4 4 (s.fld .aflCtrl 0 0 0 4))))

/-- The values of a stamp that are held with complements. -/
def stampValues : List RegKind := [.updSeedShared, .brcNormBound, .cfgRole]

/-- INSTALL_DIGEST of a routing image, or zeros before any is loaded. -/
def installDigest (img : Bytes) : Bytes := if img = [] then List.replicate 32 0 else (img.drop 8).take 32

def stampNow (s : State) : Word := stampWith s (bankGens s) (installDigest s.c.route)

/-- Recompute and publish the stamp; a change is sent on every UP port (R414, R427). Where a value of it differs from its complement the
stamp stays as it is (R29; DESIGN CHOICE, log entry 65). -/
def recomputeStamp (s : State) : State :=
  if (firstUnheld s stampValues).isSome then noteHeld s stampValues else
  let v := stampNow s
  let s1 := s.setPair .aflStamp .aflStampInv 0 v
  if v = s.reg .aflStamp 0 0 then s1
  else (List.range 12).foldl (fun s p => if (s.port p).st = .up then sendCtrl s p 2 false else s) s1

/-! Neighbours (R412 to R414). -/

/-- Record an accepted neighbour from words 0 and 8 of its IDENT or STAMP_UPDATE. -/
def recordNeighbour (s : State) (p : Nat) (w0 stamp : Word) : State :=
  let old := s.reg .aflNeighId p 0
  let new := placeBit 24 true ||| place 20 4 (field w0 28 4) ||| place 16 4 (field w0 24 4) ||| place 12 4 (field w0 32 4)
    ||| place 0 12 (field w0 36 12)
  let s1 := (s.setReg .aflNeighId p 0 new).setPair .aflNeighStamp .aflNeighStampInv p stamp
  let s2 := if bit old 24 && field old 0 16 != field new 0 16 then
    logModule s1 0x0505 (srcLink p) (place 0 16 (field old 0 16)) (place 0 16 (field new 0 16)) 0 else s1
  let own := s.reg .aflStamp 0 0
  if stamp ≠ own then logModule s2 0x0506 (srcLink p) stamp own 0 else s2

/-- The neighbour table accepts MEMBER and PORT of an IDENT (R412). -/
def neighbourFits (s : State) (p : Nat) (w0 : Word) : Bool :=
  let n := neighEntry s.c.route p
  n.en && (n.any || (n.member == field w0 36 12 && n.port == field w0 32 4))

/-- The version two ends agree on, if they do (R413). -/
def agreeVersion (s : State) (w0 : Word) : Option Nat :=
  let v := min (s.fld .aflCtrl 0 0 4 4) (field w0 24 4)
  if max (s.fld .aflCtrl 0 0 0 4) (field w0 28 4) ≤ v then some v else none

/-- A port enters HELD with a reason; a neighbour that is not the expected one is logged (R412). -/
def portHeld (s : State) (p reason : Nat) (w0 : Word) : State :=
  let x := s.port p
  let s1 := s.setPort p { x with st := .held, heldReason := BitVec.ofNat 3 reason, version := 0, accepted := false }
  if reason = 2 then
    let n := neighEntry s.c.route p
    logModule s1 0x0504 (srcLink p) (place 12 4 (field w0 32 4) ||| place 0 12 (field w0 36 12)) (place 12 4 n.port ||| place 0 12 n.member) 0
  else s1

/-- A port enters UP with a version (Table 11-3 order 6). -/
def portUp (s : State) (p v : Nat) (w0 : Word) : State :=
  let x := s.port p
  let s1 := s.setPort p { x with st := .up, heldReason := 0, version := BitVec.ofNat 2 v, accepted := true, everUp := true }
  logModule s1 0x0500 (srcLink p) (place 16 2 v ||| place 12 4 (field w0 32 4) ||| place 0 12 (field w0 36 12)) 0 0

/-- Put a routing image in force (R422, R514): every table at once. -/
def setRoute (s : State) (img : Bytes) : State := { s with c := { s.c with route := img } }

/-! Receiving. -/

/-- Units of a frame leave the receive buffer of a VC: its credits are returned (R417). -/
def returnCredit (s : State) (p : Nat) (f : Frame) : State :=
  let x := s.port p
  s.setPort p { x with freed := x.freed.modify f.vc (· + BitVec.ofNat 16 f.units) }

/-- What becomes of a frame that arrived on port p for another member (R423). -/
inductive Pass where
  | drop (log : Bool)
  | wait
  | go (out vc : Nat)
  | mine
  deriving DecidableEq, Repr

def passOf (s : State) (p : Nat) (f : Frame) : Pass :=
  match routeEntry s.c.route p f.dst with
  | none => .drop true
  | some (o, v) =>
    if o = 15 then (if f.dst = s.memberId then .mine else .drop true)
    else if 12 ≤ o then .drop true
    else
      let vc := if f.type = 2 ∨ f.type = 3 then 0 else v
      match (s.port o).st with
      | .off | .down | .held => .drop false
      | .train | .ident => .wait
      | .up => if portsLocked s ∨ ¬ canStart (s.port o) vc f then .wait else .go o vc

/-- The link and VC that a frame which arrived on port p leaves by. -/
def wayOf (s : State) (p : Nat) (f : Frame) : Option (Nat × Nat) :=
  (routeEntry s.c.route p f.dst).map fun e => (e.1, if f.type = 2 ∨ f.type = 3 then 0 else e.2)

/-- A frame in transit from port p waits for the link and VC that a frame needs (R423, R424). -/
def wayTaken (s : State) (p : Nat) (before : List Frame) (f : Frame) : Bool := before.any fun g : Frame => wayOf s p g == wayOf s p f

/-- Rows 1 and 2 of Table 11-8: what they do with a frame at its destination. -/
inductive Accept where
  | ok
  | badCrc
  | complement
  | reserved
  deriving DecidableEq, Repr

def acceptFrame (f : Frame) : Accept :=
  if (field f.w7 0 32) ≠ f.check then .badCrc
  else if ¬ complOk f.w1 f.w2 ∨ ¬ complOk f.w3 f.w4 then .complement
  else if f.type = 0 ∨ 6 ≤ f.type ∨ ¬ f.clean then .reserved
  else .ok

/-- A frame whose CRC differs (Table 11-8 row 1). -/
def badCrc (s : State) (p : Nat) (f : Frame) : State :=
  logModule (s.countHold .aflPortErr p 0 0 8 1) 0x0507 (srcLink p) f.w0 f.w5 f.w1

/-- A frame whose step or stamp differs from its complement (Table 11-8 row 2, R29). -/
def badComplement (s : State) (p : Nat) (f : Frame) : State :=
  if ¬ complOk f.w1 f.w2 then logComplement s (srcLink p) 5 f.w1 f.w2 else logComplement s (srcLink p) 8 f.w3 f.w4

/-- A CTRL frame passes rows 1 and 2, or is discarded by them. -/
def ctrlChecks (s : State) (p : Nat) (f : Frame) : Bool × State :=
  match acceptFrame f with
  | .badCrc => (false, badCrc s p f)
  | .complement => (false, countDropped (badComplement s p f) 1)
  | .reserved => (false, countDropped s 1)
  | .ok => (true, s)

/-- An IDENT or STAMP_UPDATE payload is one unit with PART and zero reserved fields (R412). -/
def ctrlPayloadFits (f : Frame) : Bool :=
  f.len == 1 && field (wordAt f.payload 0) 48 16 == 0x6432 && field (wordAt f.payload 0) 0 21 == 0
    && (List.range 5).all fun i => wordAt f.payload (24 + 8 * i) == 0

end Sys2Proof.Machine
end

