-- ==== Sys2Proof/Machine/Random.lean ====
section
/-! DEFINITION. The keyed counter streams (R353 to R358). -/

namespace Sys2Proof.Machine

/-- mix (R355). -/
def mix (x0 : Word) : Word :=
  let x1 := (x0 ^^^ (x0 >>> 32)) * 0xA3B195C46E2F7D1B
  let x2 := (x1 ^^^ (x1 >>> 29)) * 0xC58E2D47B19A6F35
  x2 ^^^ (x2 >>> 32)

/-- The key of a stream under a seed. -/
def streamKey (seed : Word) (stream : Nat) : Word := mix (seed + mix (BitVec.ofNat 64 (stream + 1)))

/-- stream_counter (R355). -/
def streamCounter (seed : Word) (stream : Nat) (step : Word) : Word := mix (streamKey seed stream ^^^ mix step)

/-- draw64 (R355); the element term is taken modulo 2^48. -/
def draw64 (seed : Word) (stream : Nat) (step : Word) (layer element : Nat) : Word :=
  mix (mix (streamCounter seed stream step + BitVec.ofNat 64 (layer % 2 ^ 16 * 2 ^ 48 + element % 2 ^ 48)) ^^^ streamKey seed stream)

/-- A 32-bit and a 16-bit draw. -/
def draw32 (w : Word) : Nat := field w 32 32
def draw16 (w : Word) : Nat := field w 48 16

/-- Which seed a stream draws with (R354): the shared one, the role's, or the partner's for a mirror binding. -/
inductive SeedKind where
  | shared | role | partner
  deriving DecidableEq, Repr

def seedKind (stream : Nat) (mirror : Bool) : SeedKind :=
  if stream % 256 < 128 then .shared else if mirror then .partner else .role

/-- A seed and its complement. -/
def seedPair (s : State) : SeedKind → Word × Word
  | .shared => (s.reg .updSeedShared 0 0, s.reg .updSeedSharedInv 0 0)
  | .role => (s.reg .updSeedRole 0 0, s.reg .updSeedRoleInv 0 0)
  | .partner => (s.reg .updSeedPartner 0 0, s.reg .updSeedPartnerInv 0 0)

/-- The seed for a draw, or the mismatch that withholds it (R357). -/
def seedFor (s : State) (stream : Nat) (mirror : Bool) : Except (Word × Word) Word :=
  let (v, inv) := seedPair s (seedKind stream mirror)
  if complOk v inv then .ok v else .error (v, inv)

/-- UPD_STREAM_CTR of a stream (R358). A seed that differs from its complement is not used, and the register reads a free value (R29;
DESIGN CHOICE, log entry 65). -/
def streamReport (s : State) (i : Nat) : Word :=
  match seedFor s i false with
  | .ok seed => streamCounter seed i (s.reg .dspStep 300 0)
  | .error _ => Config.freeWord s.freeCount

end Sys2Proof.Machine
end

