-- ==== Sys2Proof/Machine/Tack.lean ====
section
/-! DEFINITION. What the tack's routines share (R199 to R204, R582): how a call starts, how a routine reads its arguments,
and how it ends. -/

namespace Sys2Proof.Machine

/-- Routine indices (Table 5-17). -/
def rtReduceScatter : Nat := 0x0001
def rtAllGather : Nat := 0x0002
def rtAllReduce : Nat := 0x0003
def rtBroadcast : Nat := 0x0004
def rtLocalReduce : Nat := 0x0005
def rtStepCheck : Nat := 0x0010
def rtMirrorDigest : Nat := 0x0011
def rtCheckpointOut : Nat := 0x0012
def rtReplayStep : Nat := 0x0013
def rtCinchDrive : Nat := 0x0020
def rtKstLoad : Nat := 0x0030

/-- The routines whose effect the spec gives. -/
def namedRoutines : List Nat :=
  [rtReduceScatter, rtAllGather, rtAllReduce, rtBroadcast, rtLocalReduce, rtStepCheck, rtMirrorDigest, rtCheckpointOut,
    rtReplayStep, rtCinchDrive, rtKstLoad]

/-- ROUTINE and RVER of a TACK_CALL (Table 5-16). -/
def dRoutine (ws : List Word) : Nat := dField ws 40 48 16
def dRver (ws : List Word) : Nat := dField ws 40 32 16
def dArgs (ws : List Word) : Operand := dRef ws 48
def dRet (ws : List Word) : Operand := dRef ws 56
def dInline (ws : List Word) (i : Nat) : Word := dWord ws (64 + 8 * i)

/-- The hint of an HBM operand (Table 7-3). -/
def hintOf (h : Nat) : Hint :=
  ⟨if h % 4 = 1 then .stream else if h % 4 = 2 then .keep else .normal, h.testBit 2⟩

/-! Runs. -/

def sameRun (a b : TackRun) : Bool := a.die == b.die && a.slot == b.slot && a.step == b.step

def State.setRuns (s : State) (rs : List TackRun) : State := { s with d := { s.d with tack := rs } }

/-- Change the phase of a run. -/
def setRun (s : State) (r : TackRun) (ph : TackPhase) : State :=
  s.setRuns (s.d.tack.map fun x : TackRun => if sameRun x r then { x with phase := ph } else x)

def dropRun (s : State) (r : TackRun) : State := s.setRuns (s.d.tack.filter fun x : TackRun => !sameRun x r)

/-- The oldest run of die d that has been called and not begun, of a routine. -/
def startedRun (s : State) (d routine : Nat) : Option TackRun :=
  s.d.tack.find? fun r : TackRun => r.die == d && r.routine == routine && r.phase == .started

/-- The TACK_CALL in flight of a run. -/
def runFlight (s : State) (r : TackRun) : Option InFlight :=
  (s.stir (300 + r.die)).flight.find? fun f : InFlight =>
    f.slot == r.slot && f.step == r.step && dOpcode f.words == 0x40 && f.phase == .executing

/-- A run ends (R200, R201): with its fault, if it designates one, and the STATUS of its return record. -/
def endTack (s : State) (r : TackRun) (fault : Option (Nat × Word)) (ret : Option Word) : State :=
  let s1 := dropRun s r
  match runFlight s r with
  | some f => putFlight s1 (300 + r.die) f { f with phase := .ended, fault := fault, ret := ret }
  | none => s1

/-- A run ends with a STATUS that designates no fault. -/
def endGood (s : State) (r : TackRun) (status : Word) : State := endTack s r none (some status)

/-- A run ends with a STATUS that designates a fault (R201). -/
def endBad (s : State) (r : TackRun) (code : Nat) (status : Word) : State := endTack s r (some (code, status)) (some status)

/-- A run stops at an access of its own that failed (R582). -/
def endMem (s : State) (r : TackRun) (e : MemErr) : State :=
  endTack (noteErr s .ddma e) r (some (errFault e, errDetail e)) none

/-- STATUS of a fault of the routines of chapter 10 (R405). -/
def assureStatus (code low : Nat) : Word := place 56 8 code ||| place 0 32 low

/-- CHECK_ARGS_INVALID with the offending field (R405). -/
def endArgs (s : State) (r : TackRun) (low : Nat) : State := endBad s r 0x49 (assureStatus 0x49 low)

/-- The words of a descriptor of a run; none left once its descriptor has gone. -/
def runWords (s : State) (r : TackRun) : List Word :=
  match runFlight s r with
  | some f => f.words
  | none => []

/-- Read n bytes of the argument block (R582); none where ARGS is NONE. -/
def readArgs (s : State) (r : TackRun) (n : Nat) : Option (Except MemErr Bytes × State) :=
  let o := dArgs (runWords s r)
  if o.absent then none else some (memRead s .ddma (hintOf o.hint) o.addr n)

/-- A run's own write of HBM: what denied it, or a line that its read–modify–write could not read (R265, R582). -/
def tackWrite (s : State) (h : Hint) (a : Nat) (bs : Bytes) : Option MemErr × State :=
  let bad := if hbmSize < a + bs.length then none else partBad s a bs.length
  match memWrite s .ddma h a bs with
  | (some e, s1) => (some e, s1)
  | (none, s1) => (bad, s1)

/-- The inline arguments from i on are zero; the first that is not, by its descriptor offset. -/
def inlineBad (ws : List Word) (i : Nat) : Option Nat :=
  ((List.range 8).find? fun k => decide (i ≤ k) && dInline ws k != 0).map fun k => 64 + 8 * k

/-- The argument block's first n bytes lie, in part, on a stack whose lock is held (R273). -/
def argsLocked (s : State) (r : TackRun) (n : Nat) : Bool :=
  let o := dArgs (runWords s r)
  !o.absent && hbmLocked s o.addr n

/-- A routine calls another: one call deeper; none where four are under way (R203). -/
def callRoutine (r : TackRun) : Option TackRun := if r.depth < 4 then some { r with depth := r.depth + 1 } else none

/-- A chain of nested calls, n deep, each of which returns; none: one was beyond the depth of R203. -/
def callChain : Nat → TackRun → Option TackRun
  | 0, r => some r
  | n + 1, r => (callRoutine r).bind (callChain n)

/-- The verdicts given before a step, and that of the last mirror comparison (R202). -/
def verdictWords (s : State) (step : Word) : List Word :=
  let vs := (s.a.verdict.toList ++ s.a.older).filter fun v : Verdict => decide ((v.step - step).toInt < 0)
  BitVec.ofNat 64 (s.fld .brcStat 0 0 6 1) :: vs.flatMap fun v => [v.step, place 1 2 v.req.toNat ||| placeBit 0 v.pass]

/-- What a routine is and what it is given: index, version, step and inline arguments. -/
def routineKey (s : State) (r : TackRun) : List Word :=
  let ws := runWords s r
  [BitVec.ofNat 64 r.routine, BitVec.ofNat 64 (dRver ws), r.step] ++ (List.range 8).map (dInline ws)

/-- The kernel image that holds a run's code. -/
def runImage (s : State) (r : TackRun) : Bytes :=
  match runFlight s r with
  | some f => (s.bank r.die f.bank).image
  | none => []

/-- Bytes of argument block that an unnamed routine reads. -/
def blockBytes (s : State) (r : TackRun) : Nat := Config.routineBlock (runImage s r) (routineKey s r)

/-- How an unnamed routine ends once it has read its block. -/
def endUnnamed (s : State) (r : TackRun) (block : Bytes) : State :=
  let (n, w) := Config.routineRun (runImage s r) (routineKey s r) block s.c.route s.cfgInv (verdictWords s r.step)
  match callChain (n % 8) r with
  | some _ => endGood s r w
  | none => endBad s r 0x42 w

/-- A routine of the bank that Table 5-17 does not name runs: what its code does is not in the spec but for its end (R200, R201,
R203) and what its operations depend on (R202). How much of its block it reads, how deep its calls go and its STATUS are free
values that depend on nothing else; no chapter designates one of its values a fault (DESIGN CHOICE, log entry 22). -/
def runUnnamed (s : State) (r : TackRun) : State :=
  match readArgs s r (blockBytes s r) with
  | none => endUnnamed s r []
  | some (.error e, s1) => endMem s1 r e
  | some (.ok bs, s1) => endUnnamed s1 r bs

/-- TACK_CALL (R200): the oldest issued call of a die begins to run. No routine that Table 5-17 names calls another. -/
def execTackCall (d : Fin 4) (s : State) : Out :=
  match oldest s (300 + d.val) 0x40 .issued with
  | none => disabled "TACK_CALL"
  | some f =>
    let r : TackRun := ⟨d.val, f.slot, f.step, dRoutine f.words, .started, 0⟩
    let s1 := putFlight s (300 + d.val) f { f with phase := .executing }
    let s2 := s1.setRuns (s1.d.tack ++ [r])
    if namedRoutines.contains r.routine then .next s2
    else if argsLocked s2 r (blockBytes s2 r) then disabled "TACK_CALL"
    else .next (runUnnamed s2 r)

/-- The return record of a TACK_CALL that has ended lies on a stack whose lock is held (R273). -/
def returnLocked (s : State) (f : InFlight) : Bool :=
  let o := dRet f.words
  f.ret.isSome && !o.absent && hbmLocked s o.addr 16

/-- The return record of a TACK_CALL that has ended (R201, R582). -/
def writeReturn (s : State) (f : InFlight) : Option MemErr × State :=
  match f.ret with
  | none => (none, s)
  | some v =>
    let o := dRet f.words
    if o.absent then (none, s)
    else
      tackWrite s (hintOf o.hint) o.addr (wordsBytes [v, ~~~v])

end Sys2Proof.Machine
end

