-- ==== Sys2Proof/Machine/StepRecord.lean ====
section
/-! DEFINITION. What the step check leaves (R371, R376 to R379): the step record, a pass and a failure; binding lists and
shard digests (R338, R383, R384). -/

namespace Sys2Proof.Machine

/-! Retention (R366). -/

def startStep (s : State) : Word := s.reg .cfgStartStep 0 0
def nPos (s : State) : Nat := s.fld .brcCtrl 0 0 0 36
def recBytes (s : State) : Nat := s.fld .brcCtrl 0 0 36 24
/-- The retention depth D. -/
def depth (s : State) : Nat := s.fld .brcCtrl 0 0 60 2 + 1
def lastReleased (s : State) : Word := s.reg .brcLastReleased 0 0

/-- The first data position of a step. -/
def stepPos (s : State) (step : Word) : Word := s.reg .brcPos0 0 0 + BitVec.ofNat 64 (nPos s) * (step - startStep s)

/-- The first data position of a step, as a record carries it: a BRC_POS0 that differs from its complement is not used, and a free
value stands in its place (R29; DESIGN CHOICE, log entry 65). -/
def recordPos (s : State) (step : Word) : Word × State :=
  if regHeld s .brcPos0 then (stepPos s step, s) else (noteHeld s [.brcPos0]).free

/-- The slot of a step. -/
def stepSlot (s : State) (step : Word) : Nat := step.toNat % depth s

/-- The signed difference of two steps, a − b (R370). -/
def stepDiff (a b : Word) : Int := (a - b).toInt

/-- A step has passed its check (R37, R347, R370): it lies at or below the last released step. A dry replay of step q
treats q − 1 so as well, which is that step. A last released step that differs from its complement is not used, and what waits for
it goes on waiting (R29; DESIGN CHOICE, log entry 65). -/
def stepPassed (s : State) (step : Word) : Bool := regHeld s .brcLastReleased && decide (stepDiff step (lastReleased s) ≤ 0)

/-! The step record. -/

/-- The canonical NaN of FP64 (R44). -/
def nan64 : Word := 0x7FF8000000000000

/-- The step's loss as the verdict uses it: one that differs from its complement is not used (R373). -/
def usedLoss (x : Held) : Word := if x.ok then x.v else nan64

/-- Where the step record of a step stands. -/
def recordBase (s : State) (step : Word) : Nat := (s.reg .brcLogBase 0 0).toNat + 128 * (step.toNat % 16)

/-- The step record of a step lies on a stack whose lock is held (R273). -/
def stepRecordLocked (s : State) (step : Word) : Bool := hbmLocked s (recordBase s step) 128

/-- Write the step record of a step (R371 Table 10-2). A write that fails leaves no record; the spec names no other
consequence. -/
def writeStepRecord (s : State) (step loss lossSum normSq : Word) (req : BitVec 2) (fail : BitVec 8) (pass : Bool) : State :=
  let last := place 8 2 req.toNat ||| (BitVec.setWidth 64 fail &&& 0xFE) ||| placeBit 0 pass
  let (pos, s0) := recordPos s step
  let ws := [step, ~~~step, loss, ~~~loss, lossSum, ~~~lossSum, normSq, pos, ~~~pos, last, 0, 0, 0, 0, 0, 0]
  match memWrite s0 .ingress {} (recordBase s step) (wordsBytes ws) with
  | (some e, s1) => noteErr s1 .ingress e
  | (none, s1) => s1

/-- A verdict is known (R376): it is kept, with those of the steps before, and the steps that last carried each request with it (R403). -/
def keepVerdict (s : State) (v : Verdict) : State :=
  { s with a := { s.a with
      verdict := some v
      older := (s.a.verdict.toList ++ s.a.older).take 15
      lastDigest := if v.req.toNat.testBit 0 then some v.step else s.a.lastDigest
      lastCkpt := if v.req.toNat.testBit 1 then some v.step else s.a.lastCkpt } }

/-- The verdict of a step, the latest one where it was checked more than once. -/
def verdictOf (s : State) (step : Word) : Option Verdict :=
  (s.a.verdict.toList ++ s.a.older).find? fun v : Verdict => v.step == step

/-- The verdicts of the steps from a replayed step on are void (R389): they are given anew. -/
def dropVerdicts (s : State) (step : Word) : State :=
  let keep := (s.a.verdict.toList ++ s.a.older).filter fun v : Verdict => decide (stepDiff v.step step < 0)
  { s with a := { s.a with verdict := keep.head?, older := keep.tail } }

/-- Restore verification of a step is over (R401). -/
def disarm (s : State) (step : Word) : State :=
  match s.a.verify with
  | some v => if v.step = step then { s with a := { s.a with verify := none } } else s
  | none => s

/-- A step fails (R36, R378): it is logged, and issue stops on every stirrup. -/
def failStep (s : State) (r : TackRun) (fail : BitVec 8) : State :=
  let s1 := logEvent s 0x0400 (srcStirrup (300 + r.die)) (some (r.step, BitVec.ofNat 24 r.slot)) (BitVec.setWidth 64 fail &&& 0xFE) 0 0
  requestHalts s1 true none

/-- A step passes (R35, R369): its inputs are released; not in a dry replay (R390). -/
def releaseStep (s : State) (step : Word) : State :=
  if s.a.dry.isSome then s
  else
    let s1 := s.setPair .brcLastReleased .brcLastReleasedInv 0 step
    { s1 with a := { s1.a with got := sset [] s1.a.got (stepSlot s step) [] } }

/-- What a refused verdict collective leaves on a member that has the verdict (R371, R377): a record with STAMP, and the
step failed; restore verification of the step is over (R401). -/
def stampStep (s : State) (r : TackRun) : State :=
  let fail : BitVec 8 := s.a.fail ||| 0x20
  let s1 := writeStepRecord (noteValue s 4 s.a.loss) r.step (usedLoss s.a.loss) 0 0 s.a.req fail false
  failStep (disarm (keepVerdict s1 ⟨r.step, false, s.a.req, s.a.loss, .of 0⟩) r.step) r fail

/-! Bindings (Table 9-3). -/

structure Binding where
  kernel : Nat
  kver : Nat
  mirror : Bool
  perblk : Nat
  stream : Nat
  layer : Nat
  elemBase : Word
  gradFmt : Nat
  storeMode : Nat
  count : Nat
  grad : Operand
  tensors : List Operand
  bmask : Operand
  emask : Operand
  hyper : Operand
  norm : Operand
  clean : Bool
  deriving DecidableEq, Repr

/-- A 128-byte binding; `clean`: its reserved fields are zero. -/
def bindingOf (bs : Bytes) : Binding :=
  let w := fun i => wordAt bs (8 * i)
  { kernel := field (w 0) 48 16
    kver := field (w 0) 32 16
    mirror := bit (w 0) 31
    perblk := field (w 0) 24 6
    stream := field (w 0) 16 8
    layer := field (w 0) 0 16
    elemBase := w 1
    gradFmt := field (w 2) 44 4
    storeMode := field (w 2) 42 2
    count := field (w 2) 0 40
    grad := operandOf (w 3)
    tensors := (List.range 6).map fun i => operandOf (w (4 + i))
    bmask := operandOf (w 10)
    emask := operandOf (w 11)
    hyper := operandOf (w 12)
    norm := operandOf (w 13)
    clean := !bit (w 0) 30 && field (w 2) 48 16 == 0 && field (w 2) 40 2 == 0 && w 14 == 0 && w 15 == 0 }

/-- Elements of tensor i (R338). -/
def tensorCount (b : Binding) (i : Nat) : Nat := if b.perblk.testBit i then b.count / 32 else b.count

/-- Bytes of tensor i. -/
def tensorBytes (b : Binding) (i : Nat) (o : Operand) : Nat := tensorCount b i * elemBytes o.fmt

/-- A reference of a binding: absent, or HBM with an allowed FMT, aligned to its elements, inside HBM over its range
(R339). -/
def bindRef (o : Operand) (fmts : List Nat) (bytes : Nat) : Bool :=
  o.fine && o.hint < 8 && o.hint % 4 != 3
    && (o.absent || (o.space == 1 && fmts.contains o.fmt && o.addr % elemBytes o.fmt == 0 && decide (o.addr + bytes ≤ 2 ^ 40)))

/-- A binding that R339 takes; `girth`: its gradient comes from a landing buffer. -/
def bindingGood (b : Binding) (girth : Bool) : Bool :=
  b.clean && b.count % 32 == 0 && decide (32 ≤ b.count) && [1, 2, 3, 4].contains b.gradFmt && decide (b.storeMode ≤ 1)
    && !(b.tensors.getD 0 ⟨0, 0, 0, 0⟩).absent
    && (b.tensors.zipIdx.all fun x : Operand × Nat =>
        bindRef x.1 [1, 2, 3, 4, 5, 6, 7, 8] (tensorBytes b x.2 x.1))
    && (if girth then b.grad.absent && b.grad.fine
        else !b.grad.absent && bindRef b.grad [b.gradFmt] (b.count * elemBytes b.gradFmt))
    && bindRef b.bmask [0] (ceilDiv b.count 256) && bindRef b.emask [0] (b.count / 8) && bindRef b.hyper [0] 112
    && bindRef b.norm [1] (8 * ceilDiv b.count 4096)

/-- The write ranges of a binding: its tensors, in order, as (tensor index, address, bytes). -/
def writeRanges (b : Binding) : List (Nat × Nat × Nat) :=
  (b.tensors.zipIdx.filter fun x : Operand × Nat => !x.1.absent).map fun x : Operand × Nat =>
    (x.2, x.1.addr, tensorBytes b x.2 x.1)

/-- Read the bindings of a list, one after another. -/
def readBindings (c : Class) : Nat → Nat → State → Except MemErr (List Binding) × State
  | 0, _, s => (.ok [], s)
  | n + 1, a, s =>
    match memRead s c {} a 128 with
    | (.error e, s1) => (.error e, s1)
    | (.ok bs, s1) =>
      match readBindings c n (a + 128) s1 with
      | (.error e, s2) => (.error e, s2)
      | (.ok rest, s2) => (.ok (bindingOf bs :: rest), s2)

/-- BRC_OWNER_LIST or BRC_MIRROR_LIST. -/
def bindingList (s : State) (mirror : Bool) : Nat × Nat :=
  let w := s.reg (if mirror then .brcMirrorList else .brcOwnerList) 0 0
  (field w 0 40, field w 48 16)

/-- The bindings of a member's list; `none` where one is malformed or has the wrong MIRROR bit (R383). -/
def listBindings (s : State) (c : Class) (mirror : Bool) : Except MemErr (Option (List Binding)) × State :=
  let (a, n) := bindingList s mirror
  match readBindings c n a s with
  | (.error e, s1) => (.error e, s1)
  | (.ok bs, s1) =>
    let girth := bit (s.reg .updCtrl 0 0) 0
    (.ok (if bs.all fun b => b.mirror == mirror && bindingGood b girth then some bs else none), s1)

/-! Shard digests (R384). -/

/-- line_hash (R384). -/
def lineHash (key : Word) (k : Nat) (ws : List Word) : Word :=
  ws.foldl (fun h w => mix (h + w)) (mix (BitVec.ofNat 64 k ^^^ key))

/-- The digest of a string of bytes read as 64-byte lines; a last part of a line is filled with zeros. -/
def digestGo (key : Word) : Nat → Nat → Bytes → Word → Word
  | 0, _, _, acc => acc
  | n + 1, k, bs, acc =>
    match bs with
    | [] => acc
    | _ => digestGo key n (k + 1) (bs.drop 64) (acc + lineHash key k ((List.range 8).map fun j => wordAt bs (8 * j)))

def digestOf (s : State) (bs : Bytes) : Word := digestGo (s.reg .brcDigestKey 0 0) (bs.length / 64 + 1) 0 bs 0

/-! Reads that bindings of the next step wait for (R386, R396). -/

/-- A checkpoint of step c is due (R395). -/
def checkpointDue (s : State) (interval : Word) (v : Verdict) : Bool :=
  (interval != 0 && (v.step - startStep s).toNat % interval.toNat == 0) || v.req.toNat.testBit 1

/-- A digest comparison runs in a step (R385). -/
def digestDue (s : State) (interval step : Word) : Bool :=
  (interval != 0 && (step - startStep s).toNat % interval.toNat == 0) || s.a.lastDigest == some (step - 1)
    || (match verdictOf s (step - 1) with
        | some v => v.req.toNat.testBit 0
        | none => false)

/-- A routine of a step stands before its read. -/
def readPending (s : State) (routine : Nat) (step : Word) (due : Word → Bool) : Bool :=
  s.d.tack.any fun r : TackRun => r.routine == routine && r.phase == .started && r.step == step
    && (match (s.stir (300 + r.die)).flight.find? fun f : InFlight => f.slot == r.slot && f.step == r.step with
        | some f => due (dInline f.words 0)
        | none => false)

/-- A mirror digest comparison of a step is still to be read (R386). -/
def digestPending (s : State) (step : Word) : Bool :=
  s.partnerOffset != 0 && readPending s rtMirrorDigest step fun i => digestDue s i step

/-- The step has passed and its checkpoint is still to be read (R395, R396). -/
def checkpointPending (s : State) (step : Word) : Bool :=
  match verdictOf s step with
  | some v => v.pass && s.a.dry.isNone && readPending s rtCheckpointOut step fun i => checkpointDue s i v
  | none => false

/-- The write ranges of the member's bindings of a class, as (address, bytes). -/
def shardRanges (s : State) (mirror : Bool) : List (Nat × Nat) :=
  match (listBindings s .ddma mirror).1 with
  | .ok (some bs) => bs.flatMap fun b => (writeRanges b).map Prod.snd
  | _ => []

/-- A binding list of the member, or a write range of its bindings, lies on a stack whose lock is held (R273). -/
def shardLocked (s : State) (mirror : Bool) : Bool :=
  let l := bindingList s mirror
  hbmLocked s l.1 (128 * l.2) || rangesLocked s (shardRanges s mirror)

/-- A binding of a step writes a range that a comparison or a checkpoint of the step before has not yet read: it waits (R386, R396). -/
def rangeUnread (s : State) (step : Word) (b : Binding) : Bool :=
  let dig := digestPending s (step - 1)
  let unread := (if dig || checkpointPending s (step - 1) then shardRanges s false else []) ++ (if dig then shardRanges s true else [])
  (writeRanges b).any fun x => unread.any fun y => decide (x.2.1 < y.1 + y.2 ∧ y.1 < x.2.1 + x.2.2)

/-- Read ranges one after another. -/
def readRanges (c : Class) (h : Hint) : List (Nat × Nat) → State → Except MemErr (List Bytes) × State
  | [], s => (.ok [], s)
  | (a, n) :: rest, s =>
    match memRead s c h a n with
    | (.error e, s1) => (.error e, s1)
    | (.ok bs, s1) =>
      match readRanges c h rest s1 with
      | (.error e, s2) => (.error e, s2)
      | (.ok more, s2) => (.ok (bs :: more), s2)

/-- Read the write ranges of some bindings, in list and tensor order, with the STREAM hint (R384). -/
def readShard (s : State) (c : Class) (bs : List Binding) : Except MemErr (List Bytes) × State :=
  readRanges c { policy := .stream } (bs.flatMap fun b => (writeRanges b).map Prod.snd) s

end Sys2Proof.Machine
end

