-- ==== Sys2Proof/Machine/Coll.lean ====
section
/-! DEFINITION. Collectives (R428 to R446): schedules, stages, stamp agreement, the acceptance of frames (Table 11-8), and
how a collective ends. -/

namespace Sys2Proof.Machine

/-! Schedules (Tables 11-10 and 11-11). -/

structure Sched where
  kind : Nat
  parent : Nat
  children : List Nat
  stages : List Stage
  deriving DecidableEq, Repr

def stageOf (a b : Word) : Stage :=
  { op := field a 60 4, left := bit a 59, sig := bit a 58, nocomb := bit a 57, peer := field a 44 12, fwd := field a 32 12,
    tag := field a 24 8, bind := field a 16 8, len := field b 40 24, off := field b 0 40 }

/-- The schedule of an index in the routing image in force. -/
def schedule (s : State) (i : Nat) : Option Sched :=
  (schedOffset s.c.route i).map fun o =>
    let (w0, w1, st) := schedWords s.c.route o
    { kind := field w0 60 4, parent := field w0 48 12, children := (List.range (field w0 44 4)).map fun k => field w1 (12 * k) 12,
      stages := st.map fun x : Word × Word => stageOf x.1 x.2 }

/-- Every PEER and FWD of a schedule has a role map entry (R429). -/
def rolesKnown (s : State) (sc : Sched) : Bool :=
  sc.stages.all fun st => (roleMember s.c.route st.peer).isSome && (st.op != 3 || st.fwd == 0xFFF || (roleMember s.c.route st.fwd).isSome)

/-! Combining (R432, R434). -/

/-- op(left, right) of two element codes of a collective FMT: 0 SUM, 1 MAX, 2 MIN. -/
def combineElem (fmt op l r : Nat) : Nat :=
  match elemFmt fmt with
  | some f =>
    let a := fdecode f l
    let b := fdecode f r
    fround f (if op = 0 then FV.add a b else if op = 1 then FV.maxOf a b else FV.minOf a b)
  | none =>
    let a := signedOf 32 l
    let b := signedOf 32 r
    intCode 32 (if op = 0 then a + b else if op = 1 then max a b else min a b)

/-- Two verdict records (Table 11-14): 64 bytes each. -/
def combineVerdict (l r : Bytes) : Bytes :=
  let w := fun (i : Nat) => (wordAt l (8 * i), wordAt r (8 * i))
  let add := fun (x : Word × Word) => BitVec.ofNat 64 (faddc .fp64 x.1.toNat x.2.toNat)
  wordsBytes [(w 0).1 ||| (w 0).2, add (w 1), add (w 2), (w 3).1 + (w 3).2, (w 4).1 + (w 4).2, 0, 0, 0]

/-- Combine two strings of whole records. -/
def combineRecords : Nat → Bytes → Bytes → Bytes
  | 0, _, _ => []
  | n + 1, l, r => combineVerdict (l.take 64) (r.take 64) ++ combineRecords n (l.drop 64) (r.drop 64)

/-- Combine the bytes of two operands of a collective. -/
def combineBytes (c : Coll) (l r : Bytes) : Bytes :=
  match c.use with
  | .routine =>
    let w := elemBytes c.fmt
    bytesOf w (((codesOf w l).zip (codesOf w r)).map fun x => combineElem c.fmt c.op x.1 x.2)
  | .check => combineRecords (l.length / 64) l r
  | .digest => (l.zip r).map fun x => x.1 ||| x.2

/-! A collective's buffer. -/

/-- Read n bytes of the buffer from an offset, under class DDMA (R436). -/
def collRead (s : State) (c : Coll) (off n : Nat) : Except MemErr Bytes × State :=
  match c.use with
  | .routine => memRead s .ddma {} (c.buf + off) n
  | _ => (.ok ((List.range n).map fun i => sget 0 c.record (off + i)), s)

/-- Write bytes of the buffer (R436). -/
def collWrite (s : State) (c : Coll) (off : Nat) (bs : Bytes) : Option MemErr × State × Coll :=
  match c.use with
  | .routine => let (e, s1) := memWrite s .ddma {} (c.buf + off) bs; (e, s1, c)
  | _ => (none, s, { c with record := putBytes c.record off bs })

/-! Open collectives. -/

def State.setColl (s : State) (c : Coll) : State :=
  { s with f := { s.f with colls := s.f.colls.map fun x : Coll => if x.id = c.id then c else x } }

/-- A collective as it stands now: a frame that this member sent to itself restarts its timer (R442). -/
def State.collNow (s : State) (c : Coll) : Coll := (s.coll c.id).getD c

/-- A collective closes; its routine's mark goes with its wait (R362). -/
def dropColl (s : State) (id : Nat) : State :=
  { s with f := { s.f with colls := s.f.colls.filter (fun x : Coll => x.id ≠ id)
                           marks := s.f.marks.filter fun m : Nat × Nat × Word => m.2.1 ≠ id } }

/-- The routine of a collective will yet signal its counter on fabric arrival. -/
def willSignal (c : Coll) : Bool := (c.stages.zip c.prog).any fun z : Stage × Prog => z.1.op != 0 && z.1.sig && !z.2.done

/-- The routine of a collective marks its counter while it waits to signal it, and clears its mark when it has signalled (R362). -/
def markCounter (s : State) (c : Coll) : State :=
  match c.ctr with
  | none => s
  | some n =>
    let ms := s.f.marks.filter fun m : Nat × Nat × Word => m.1 ≠ n
    if willSignal c then { s with f := { s.f with marks := ms ++ [(n, c.id, c.step)] } }
    else { s with f := { s.f with marks := s.f.marks.filter fun m : Nat × Nat × Word => m ≠ (n, c.id, c.step) } }

def updProg (c : Coll) (k : Nat) (f : Prog → Prog) : Coll := { c with prog := c.prog.modify k f }

/-- The lowest stage that has not completed. -/
def lowestOpen (c : Coll) : Nat := c.prog.findIdx fun p => !p.done

/-- STATUS of a collective routine (Table 11-15): the fault, the port it concerns, LATE_KEPT. -/
def collStatus (c : Coll) (fault port : Nat) (late : Bool) : Word :=
  place 48 4 port ||| place 32 16 (lowestOpen c) ||| placeBit 9 late ||| placeBit 8 c.coincided ||| place 0 8 fault

/-- STATUS of a fault in the collective's own routine. -/
def faultStatus (c : Coll) (fault port : Nat) (late : Bool) : Word :=
  match c.use with
  | .routine => collStatus c fault port late
  | _ => assureStatus fault 0

/-- The run that a collective serves. -/
def collRun (s : State) (c : Coll) : Option TackRun :=
  s.d.tack.find? fun r : TackRun => r.die == c.die && r.slot == c.slot && r.step == c.step && r.phase == .collective c.id

/-- The collective's frames that have not left are not sent: it executes nothing further (R185). -/
def dropQueued (s : State) (id : Nat) : State :=
  { s with f := { s.f with ports := s.f.ports.map fun x : Nat × LinkPort =>
      (x.1, { x.2 with queue := x.2.queue.filter fun t : TxFrame => t.owner.map Prod.fst ≠ some id }) } }

/-- Credits of frames that leave a receive buffer are returned; a frame of this member itself has none. -/
def freeFrame (s : State) (p : Nat) (f : Frame) : State := if p < 12 then returnCredit s p f else s

/-- Held frames that name a collective are discarded, with their credits returned (R431). -/
def discardHeld (s : State) (id : Nat) : State :=
  let mine := fun (x : Nat × Frame) => x.2.coll == id
  let s1 := (s.f.buffer.filter mine).foldl (fun s x => freeFrame s x.1 x.2) s
  { s1 with f := { s1.f with buffer := s1.f.buffer.filter fun x => !mine x } }

/-- A girth's binding is no longer open (Table 9-13). -/
def closeGirth (s : State) (p : Nat) : State :=
  let s1 := s.setFld .updGirthStat p 0 0 1 0
  let n := 332 + p
  { s1 with vec := if (sget {} s1.vec n : Vec).running then sset {} s1.vec n { (sget {} s1.vec n : Vec) with running := false } else s1.vec }

/-- The girths that work on chunks of a collective give them up with it. -/
def closeGirths (s : State) (id : Nat) : State :=
  ((s.f.landing.filter fun x : Landing => x.coll == id && x.trips != 0).map fun x : Landing => x.port).foldl closeGirth s

/-- A collective ends with a fault (R446, R448). A refused verdict collective leaves its record (R377). -/
def failColl (s0 : State) (c : Coll) (fault port : Nat) : State :=
  let s := closeGirths s0 c.id
  let s1 := dropQueued (dropColl (wake s) c.id) c.id
  let s2 := if fault = 0x43 then discardHeld s1 c.id else s1
  match collRun s2 c with
  | none => s2
  | some r =>
    let s3 := if fault = 0x43 ∧ c.use = .check then stampStep s2 r else s2
    endBad s3 r fault (faultStatus c fault port false)

/-- A collective meets a memory fault (R436). -/
def failCollMem (s : State) (c : Coll) (e : MemErr) : State := failColl (noteErr s .ddma e) c (errFault e) 0xF

/-! The digest comparison's result (R387); DESIGN CHOICE, log entry 21 says how the exchange is laid out. -/

/-- The roles whose mirror differs: the owner's word and the mirror holder's word of role r are unequal. -/
def divergedRoles (s : State) (c : Coll) : List Nat :=
  (List.range s.roles).filter fun r =>
    let w := fun (o : Nat) => (List.range 8).map fun i => sget 0 c.record (16 * r + o + i)
    w 0 ≠ w 8

/-- MIRROR_DIGEST ends (R387): every mismatching role is logged, with the role that holds its mirror (R381). -/
def finishDigest (s : State) (c : Coll) (r : TackRun) : State :=
  let bad := divergedRoles s c
  let s1 := bad.foldl (fun s x =>
    let holder := (x + s.roles - s.partnerOffset % s.roles) % s.roles
    logModule s 0x0401 srcModule (place 16 12 holder ||| place 0 12 x) 0 0) s
  if bad.isEmpty then endGood s1 r 0 else endGood (s1.setFld .brcStat 0 0 6 1 1) r 1

/-- The collective's routine ends once every stage has completed and the stamps agree (R430, R431). The verdict collective
stays open for the verdict. -/
def finishColl (s : State) (c : Coll) : State :=
  if c.agree = some true ∧ c.prog.all (fun p => p.done) then
    match c.use, collRun s c with
    | .check, _ => s
    | .routine, some r => endGood (dropColl s c.id) r (placeBit 8 c.coincided)
    | .digest, some r => finishDigest (dropColl s c.id) c r
    | _, none => dropColl s c.id
  else s

/-- A stage has completed: its counter is signalled once the stamps agree (R431: a refused collective signals nothing). -/
def completeStage (s : State) (c : Coll) (k : Nat) : State :=
  let c1 := updProg c k fun p => { p with done := true }
  let s1 := (wake s).setColl c1
  let sig := match c.stages[k]? with
    | some st => st.sig && c.agree == some true
    | none => false
  finishColl (if sig then markCounter (sendSignal s1 c.ctr) c1 else s1) c1

/-! Sending. -/

/-- Where a frame that this member originates leaves (R423, Table 11-9 with IN = 12). -/
inductive Leave where
  | none (port : Nat)
  | self
  | out (port vc : Nat)
  deriving DecidableEq, Repr

def leaveOf (s : State) (dst : Nat) : Leave :=
  match routeEntry s.c.route 12 dst with
  | none => .none 0xF
  | some (o, vc) =>
    if o = 15 then (if dst = s.memberId then .self else .none 0xF)
    else if 12 ≤ o then .none 0xF
    else match (s.port o).st with
      | .off | .down | .held => .none o
      | _ => .out o vc

/-- A frame of a collective (Table 11-7), before it is sealed. -/
def collFrame (s : State) (c : Coll) (type dst tag off : Nat) (payload : Bytes) : Frame :=
  { w0 := place 60 4 type ||| place 48 7 (payload.length / 64) ||| place 36 12 s.memberId ||| place 24 12 dst ||| place 12 12 s.role
    w1 := c.step
    w2 := ~~~c.step
    w3 := c.stamp
    w4 := ~~~c.stamp
    w5 := place 54 10 c.sched ||| place 46 8 c.id ||| place 38 8 tag
    w6 := place 0 40 off
    w7 := 0
    payload := payload : Frame }

/-- The frame checksum of a DATA frame (R435). -/
def frameSum (f : Frame) : Word :=
  let k := mix (f.w1 ^^^ mix (BitVec.ofNat 64 (f.sched * 2 ^ 40 + f.coll * 2 ^ 32 + f.tag * 2 ^ 24 + f.srcRole)))
  (List.range (f.payload.length / 8)).foldl (fun a j =>
    a + mix (mix (k ^^^ BitVec.ofNat 64 (f.offset + 8 * j)) + wordAt f.payload (8 * j))) 0

/-- Add a DATA frame to SENT or RECV of its step's bank (R435); schedules 0 and 1 are not counted. -/
def countSum (s : State) (sent : Bool) (f : Frame) : State :=
  if f.sched < 2 then s
  else
    let b := f.w1.toNat % 2
    let s1 := if s.reg .aflStepTag b 0 = f.w1 then s
      else ((s.setReg .aflStepTag b 0 f.w1).setReg .aflStepSent b 0 0).setReg .aflStepRecv b 0 0
    let k : RegKind := if sent then .aflStepSent else .aflStepRecv
    s1.setReg k b 0 (s1.reg k b 0 + frameSum f)

/-- The timeout of a collective falls due at this instant, so an arrival that is processed has won (R444). -/
def timerDue (s : State) (c : Coll) : Bool := decide (c.timer.toNat + s.fld .aflCtrl 0 0 8 12 * 1000000 ≤ s.time.toNat)

/-- A frame of an open collective is received at this member, from a port or from the member itself: its timer restarts, and an arrival
that coincides with the timeout has won (R442, R444). -/
def restartTimer (s : State) (f : Frame) : State :=
  match s.coll f.coll with
  | some c =>
    if c.step = f.w1 ∧ c.sched = f.sched then s.setColl { c with coincided := c.coincided || timerDue s c, timer := s.time } else s
  | none => s

/-- A frame that this member sends to itself is received where its own frames are held (DESIGN CHOICE, log entry 45). -/
def toSelf (s : State) (f : Frame) : State :=
  let s1 := restartTimer s f
  { s1 with f := { s1.f with buffer := s1.f.buffer ++ [(12, f.sealed)] } }

/-- A frame whose lookup fails is discarded and counted; ROUTE_DROP is logged once per 1 ms for its input p, which is 12 for a frame of
this member (R423; DESIGN CHOICE, log entry 45, for the event's source there). -/
def routeDrop (s : State) (p : Nat) (f : Frame) : State :=
  let s1 := countDropped s 1
  let old := sget none s1.f.dropLog p
  let set := fun (s : State) (v : Word × Nat) => { s with f := { s.f with dropLog := sset none s.f.dropLog p (some v) } }
  let source := if p < 12 then srcLink p else srcModule
  match old with
  | some (t, n) =>
    if s1.time.toNat < t.toNat + 1000000 then set s1 (t, n + 1)
    else set (logModule s1 0x0508 source (place 16 12 f.dst ||| place 0 4 p) (BitVec.ofNat 64 (n + 1)) 0) (s1.time, 0)
  | none => set (logModule s1 0x0508 source (place 16 12 f.dst ||| place 0 4 p) 1 0) (s1.time, 0)

/-- An OPEN or OPEN_RESULT frame is sent to a role on VC 0 (R417); one that finds no way out is discarded and counted, and logged where
its lookup failed (R423), and its receiver ends by timeout (R431). -/
def sendOpen (s : State) (c : Coll) (type role : Nat) (payload : List Word) : State :=
  match roleMember s.c.route role with
  | none => s
  | some m =>
    let f := collFrame s c type m 0 0 (wordsBytes payload)
    match leaveOf s m with
    | .none p => if p < 12 then countDropped s 1 else routeDrop s 12 f
    | .self => toSelf s f
    | .out p _ => enqueue s p ⟨0, f, none⟩

/-- One DATA frame of stage k towards a role: queued, delivered to this member itself, or without a way out (then the
port concerned). -/
def sendData (s : State) (c : Coll) (k role tag off : Nat) (payload : Bytes) : Except Nat (Bool × State) :=
  match roleMember s.c.route role with
  | none => .error 0xF
  | some m =>
    let f := collFrame s c 1 m tag off payload
    match leaveOf s m with
    | .none p => .error p
    | .self => .ok (false, countSum (toSelf s f) true f)
    | .out p vc => .ok (true, enqueue s p ⟨vc, f, some (c.id, k)⟩)

/-- The DATA frames of a SEND, in increasing OFFSET: how many wait in a port. -/
def sendAll (c : Coll) (k role tag : Nat) : Nat → Nat → Bytes → Nat → State → Except Nat (Nat × State)
  | 0, _, _, n, s => .ok (n, s)
  | fuel + 1, off, bs, n, s =>
    match bs with
    | [] => .ok (n, s)
    | _ =>
      match sendData s c k role tag off (bs.take 4096) with
      | .error p => .error p
      | .ok (q, s1) => sendAll c k role tag fuel (off + 4096) (bs.drop 4096) (if q then n + 1 else n) s1

/-! Stamp agreement (R431). -/

/-- Signals of stages that completed before the stamps agreed. -/
def lateSignals (s : State) (c : Coll) : State :=
  (c.stages.zip c.prog).foldl (fun s x => if x.1.sig && x.2.done then markCounter (sendSignal s c.ctr) c else s) s

/-- AGREE is known at this member: it goes to the children, and the collective proceeds or ends with STAMP_MISMATCH. -/
def setAgree (s : State) (c : Coll) (b : Bool) : State :=
  let s1 := c.children.foldl (fun s r => sendOpen s c 3 r [placeBit 0 b, 0, 0, 0, 0, 0, 0, 0]) (wake s)
  let c1 := { s1.collNow c with agree := some b }
  if b then finishColl (lateSignals (s1.setColl c1) c1) c1 else failColl (s1.setColl c1) c1 0x43 0xF

/-- Every child has been heard from: the member sends its parent an OPEN, or as the root decides. -/
def progressOpen (s : State) (c : Coll) : State :=
  if c.openSent ∨ c.heard.length < c.children.length then s
  else
    let a := c.heard.foldl (fun x h => x &&& h.2.1) c.stamp
    let o := c.heard.foldl (fun x h => x ||| h.2.2) c.stamp
    let c1 := { c with openSent := true }
    if c.parent = 0xFFF then setAgree (s.setColl c1) c1 (a == o)
    else sendOpen (s.setColl c1) c1 2 c.parent [a, o, 0, 0, 0, 0, 0, 0]

/-- Open a collective (R431): its stamp is latched, and stamp agreement begins. -/
def openColl (s : State) (c : Coll) : State :=
  progressOpen (if willSignal c then markCounter { s with f := { s.f with colls := s.f.colls ++ [c] } } c
    else { s with f := { s.f with colls := s.f.colls ++ [c] } }) c

/-! Accepting frames. -/

/-- The receive stage that a DATA frame belongs to. -/
def stageFor (c : Coll) (f : Frame) : Option Nat :=
  let k := c.stages.findIdx fun st : Stage => st.op != 0 && st.tag == f.tag && st.peer == f.srcRole
  if k < c.stages.length then some k else none

/-- Row 6 of Table 11-8. -/
def frameMisfits (c : Coll) (f : Frame) : Bool :=
  if f.w1 ≠ c.step ∨ f.sched ≠ c.sched then true
  else if f.type = 2 then !c.children.contains f.srcRole || (c.heard.any fun h => h.1 == f.srcRole) || f.len != 1
  else if f.type = 3 then f.srcRole != c.parent || c.parent == 0xFFF || c.agree.isSome || f.len != 1
  else match stageFor c f with
    | none => true
    | some k =>
      match c.stages[k]? with
      | none => true
      | some st => f.offset % 64 != 0 || decide (stageBytes st < f.offset + 64 * f.len)

/-- Units of a stage that a frame brings. -/
def markUnits (got : List (Nat × Bool)) (f : Frame) : List (Nat × Bool) :=
  (List.range f.len).foldl (fun g i => sset false g (f.offset / 64 + i) true) got

/-- The value a receive stage makes of a frame: combined with the local one, or as it came (R432, R433). -/
def stageValue (s : State) (c : Coll) (st : Stage) (f : Frame) : Except MemErr Bytes × State :=
  if st.op = 1 ∨ (st.op = 3 ∧ st.nocomb) then (.ok f.payload, s)
  else
    match collRead s c (stageStart c st + f.offset) (64 * f.len) with
    | (.error e, s1) => (.error e, s1)
    | (.ok l, s1) => (.ok (if st.left then combineBytes c f.payload l else combineBytes c l f.payload), s1)

/-- Bytes that wait in the landing buffer of a port. -/
def landedBytes (s : State) (p : Nat) : Nat :=
  (s.f.landing.filter fun x : Landing => x.port == p).foldl (fun n x =>
    n + (64 * x.got.length - min (64 * x.got.length) (1024 * x.width * x.trips))) 0

/-- A chunk's landing, made where none exists yet (R346). -/
def landingOf (s : State) (c : Coll) (k : Nat) (st : Stage) (p : Nat) : Landing :=
  match s.f.landing.find? fun x : Landing => x.coll == c.id && x.stage == k && x.step == c.step with
  | some x => x
  | none =>
    let w := elemBytes c.fmt
    { port := p, coll := c.id, stage := k, bind := (c.binds.getD st.bind (0, 0)).1, index := st.bind, step := c.step,
      first := st.off, count := stageBytes st / w, width := w }

def State.setLanding (s : State) (x : Landing) : State :=
  let same := fun (y : Landing) => y.coll == x.coll && y.stage == x.stage && y.step == x.step
  let xs := if s.f.landing.any same then s.f.landing.map (fun y : Landing => if same y then x else y) else s.f.landing ++ [x]
  { s with f := { s.f with landing := xs } }

/-- Which girth a chunk lands in: that of the port it arrives on (R424, R433). A frame that this member sent to itself
arrives on none, and its girth is a free value. -/
def girthPort (s : State) (p : Nat) : Nat × State := if p < 12 then (p, s) else let (w, s1) := s.free; (w.toNat % 12, s1)

/-- A value reaches the landing buffer, and is forwarded to role FWD (R433). -/
def landValue (s : State) (c : Coll) (k : Nat) (st : Stage) (p : Nat) (f : Frame) (v : Bytes) : State :=
  let (g, s1) := girthPort (wake s) p
  let x := landingOf s1 c k st g
  let s2 := (girthStep s1 g c.step).setLanding { x with grad := putBytes x.grad f.offset v, got := markUnits x.got f }
  let c1 := updProg c k fun q => { q with got := markUnits q.got f }
  let s3 := s2.setColl c1
  if st.fwd = 0xFFF then s3
  else match sendData s3 c k st.fwd st.tag f.offset v with
    | .error q => failColl s3 c1 0x46 q
    | .ok (q, s4) => if q then s4.setColl (updProg (s4.collNow c1) k fun y => { y with frames := y.frames + 1 }) else s4

/-- A DATA frame that row 8 accepts for stage k. -/
def acceptData (s : State) (c0 : Coll) (k : Nat) (st : Stage) (p : Nat) (f : Frame) : State :=
  let c := updProg c0 k fun q => { q with via := if p < 12 then some p else q.via }
  let s0 := countSum (freeFrame s p f) false f
  match stageValue s0 c st f with
  | (.error e, s1) => failCollMem s1 c e
  | (.ok v, s1) =>
    if st.op = 3 then landValue s1 c k st p f v
    else match collWrite s1 c (stageStart c st + f.offset) v with
      | (some e, s2, c1) => failCollMem s2 c1 e
      | (none, s2, c1) =>
        let c2 := updProg c1 k fun q => { q with got := markUnits q.got f }
        let s3 := s2.setColl c2
        if (c2.prog.getD k {}).got.length = st.len ∧ ¬ (c2.prog.getD k {}).done then completeStage s3 c2 k else s3

/-- What the processing of a frame reads or writes lies on a stack whose lock is held (R273): the local range of its stage, or the
step record that a refused verdict collective leaves. -/
def frameLocked (s : State) (c : Coll) (f : Frame) : Bool :=
  match c.use with
  | .digest => false
  | .check => stepRecordLocked s c.step
  | .routine =>
    f.type == 1 &&
      match (stageFor c f).bind fun k => c.stages[k]? with
      | none => false
      | some st => !(st.op == 3 && st.nocomb) && hbmLocked s (c.buf + stageStart c st + f.offset) (64 * f.len)

/-- Rows 6 to 8 of Table 11-8 on an open collective; none: the frame waits (R430, R431, R347, R273). -/
def judgeOpen (s : State) (c : Coll) (p : Nat) (f : Frame) : Option State :=
  let port := if p < 12 then p else 0xF
  if frameMisfits c f then some (failColl (freeFrame s p f) c 0x47 port)
  else if frameLocked s c f then none
  else if f.type = 2 then
    let c1 := { c with heard := c.heard ++ [(f.srcRole, wordAt f.payload 0, wordAt f.payload 8)] }
    some (progressOpen ((freeFrame s p f).setColl c1) c1)
  else if f.type = 3 then some (setAgree (freeFrame s p f) c (bit (wordAt f.payload 0) 0))
  else if f.w3 ≠ c.stamp then some (failColl (freeFrame s p f) c 0x43 port)
  else match stageFor c f with
    | none => none
    | some k =>
      match c.stages[k]? with
      | none => none
      | some st =>
        let full := st.op == 3 && decide (2097152 < landedBytes s p + 64 * f.len)
        if c.agree ≠ some true ∨ ¬ (c.prog.getD k {}).started ∨ full then none else some (acceptData s c k st p f)

/-- A RECV_GIRTH stage completes when its girth has taken every element and its forwards have left (R433). -/
def girthStage (s : State) (c : Coll) (k : Nat) : State :=
  match s.f.landing.find? fun x : Landing => x.coll == c.id && x.stage == k && x.step == c.step with
  | none => s
  | some x =>
    let q := c.prog.getD k {}
    let len := match c.stages[k]? with
      | some st => st.len
      | none => 0
    if x.count ≤ 1024 * x.trips ∧ q.frames = 0 ∧ q.got.length = len ∧ ¬ q.done then
      completeStage { s with f := { s.f with landing := s.f.landing.erase x } } c k
    else s

/-- A DATA frame of stage k has left its port (R430, R433, R435). -/
def frameLeft (s : State) (id k : Nat) (f : Frame) : State :=
  let s0 := countSum s true f
  match s0.coll id with
  | none => s0
  | some c =>
    let c1 := updProg c k fun q => { q with frames := q.frames - 1 }
    let s1 := s0.setColl c1
    match c.stages[k]? with
    | none => s1
    | some st =>
      if st.op = 3 then girthStage s1 c1 k
      else if (c1.prog.getD k {}).frames = 0 then completeStage s1 c1 k else s1

/-! Late frames (R444, R445). -/

/-- A frame kept for a RECV_GIRTH stage: its value lands and is forwarded (R433). The stage is not complete with that, since its
girth has still to take the elements, so it signals nothing. -/
def lateLanding (s : State) (c : Coll) (k : Nat) (st : Stage) (p : Nat) (f : Frame) (v : Bytes) : State × Coll :=
  let (g, s1) := girthPort s p
  let x := landingOf s1 c k st g
  let s2 := s1.setLanding { x with grad := putBytes x.grad f.offset v, got := markUnits x.got f }
  let c1 := updProg c k fun q => { q with got := markUnits q.got f }
  if st.fwd = 0xFFF then (s2, c1)
  else match sendData s2 c k st.fwd st.tag f.offset v with
    | .error _ => (s2, c1)
    | .ok (_, s3) => (s3, c1)

/-- The timeout won a coincidence: the frame is kept, written as its stage would write it; its stage signals if the frame
completes it (R444). -/
def keepLate (s : State) (x : TimedOut) (p : Nat) (f : Frame) : State :=
  let c := x.coll
  let s1 := (freeFrame s p f).countHold .aflCollCnt 0 0 32 16 1
  let update := fun (s : State) (c1 : Coll) =>
    { s with f := { s.f with ended := s.f.ended.map fun y : TimedOut => if y = x then { x with coll := c1 } else y } }
  let marked := fun (s : State) =>
    let t := 300 + c.die
    let late := fun (g : InFlight) =>
      if g.slot = c.slot ∧ g.step = c.step ∧ dOpcode g.words = 0x40 ∧ c.use = .routine then
        { g with ret := g.ret.map (· ||| 0x200), fault := g.fault.map fun y : Nat × Word => (y.1, y.2 ||| 0x200) }
      else g
    s.setStir t { s.stir t with flight := (s.stir t).flight.map late }
  if f.type ≠ 1 ∨ frameMisfits c f ∨ f.w3 ≠ c.stamp ∨ c.agree ≠ some true then marked s1
  else match stageFor c f with
    | none => marked s1
    | some k =>
      match c.stages[k]? with
      | none => marked s1
      | some st =>
        if ¬ (c.prog.getD k {}).started then marked s1
        else
          let s2 := countSum s1 false f
          match stageValue s2 c st f with
          | (.error e, s3) => marked (noteErr s3 .ddma e)
          | (.ok v, s3) =>
            if st.op = 3 then
              let (s4, c1) := lateLanding s3 c k st p f v
              marked (update s4 c1)
            else match collWrite s3 c (stageStart c st + f.offset) v with
            | (some e, s4, _) => marked (noteErr s4 .ddma e)
            | (none, s4, c1) =>
              let c2 := updProg c1 k fun q => { q with got := markUnits q.got f }
              let full := (c2.prog.getD k {}).got.length = st.len ∧ ¬ (c2.prog.getD k {}).done
              let c3 := if full then updProg c2 k fun q => { q with done := true } else c2
              let s5 := if full ∧ st.sig then sendSignal s4 c.ctr else s4
              marked (update s5 c3)

/-- The TACK_CALL of an ended collective is still in flight: the cycle of its timeout is not over. -/
def stillEnding (s : State) (c : Coll) : Bool :=
  (s.stir (300 + c.die)).flight.any fun f : InFlight => f.slot == c.slot && f.step == c.step && dOpcode f.words == 0x40

/-- A frame of a collective ended by timeout in this step (R444, R445). -/
def lateFrame (s : State) (x : TimedOut) (p : Nat) (f : Frame) : State :=
  if x.time = s.time ∧ stillEnding s x.coll then keepLate s x p f
  else (freeFrame s p f).countHold .aflCollCnt 0 0 16 16 1

/-- Rows 4 to 8 of Table 11-8; none: the frame is held. -/
def judge (s : State) (p : Nat) (f : Frame) : Option State :=
  match s.f.ended.find? fun x : TimedOut => x.coll.id == f.coll && x.coll.step == f.w1 && s.stepOf (300 + x.coll.die) == f.w1 with
  | some x => if x.time = s.time ∧ stillEnding s x.coll ∧ frameLocked s x.coll f then none else some (lateFrame s x p f)
  | none =>
    match s.coll f.coll with
    | some c => judgeOpen s c p f
    | none => none

/-- Process held frames, oldest first, while one can be. -/
def drainGo : Nat → State → State
  | 0, s => s
  | n + 1, s =>
    match s.f.buffer.findSome? fun x : Nat × Frame =>
        judge { s with f := { s.f with buffer := s.f.buffer.erase x } } x.1 x.2 with
    | some s1 => drainGo n s1
    | none => s

def drain (s : State) : State := drainGo (4 * s.f.buffer.length + 16) s

/-- A frame of a collective arrives at its destination on a port: its collective's timer restarts (R442), the port's step is the
frame's (R361), and it is processed or held (Table 11-8 rows 4 to 8). -/
def arrive (s : State) (p : Nat) (f : Frame) : State :=
  let s1 := restartTimer (frameStep s p f) f
  drain { s1 with f := { s1.f with buffer := s1.f.buffer ++ [(p, f)] } }

/-! Closing the fabric (R439). -/

/-- A port no longer carries frames: those of collectives that wait in it are discarded and counted in DROPPED (R423), and the collectives
whose DATA frames they are end with COLL_NO_ROUTE (Table 11-16). -/
def failWaiting (s : State) (p : Nat) : State :=
  let x := s.port p
  let gone := x.queue.filter fun t : TxFrame => t.frame.ofColl
  let s1 := s.setPort p { x with queue := x.queue.filter fun t : TxFrame => !t.frame.ofColl }
  (gone.filterMap TxFrame.owner).foldl (fun s o =>
    match s.coll o.1 with
    | some c => failColl s c 0x46 p
    | none => s) (if gone.isEmpty then s1 else countDropped s1 gone.length)

/-- A port that neighbour or version holds (R411, R412): what waits in it has no way out (Table 11-16). -/
def holdPort (s : State) (p reason : Nat) (w0 : Word) : State := failWaiting (portHeld s p reason w0) p

/-- After a routing load every UP or HELD port is checked against the new neighbour table (R422). A port whose entry is not enabled
is OFF (Table 11-2), and one that leaves OFF is judged anew. -/
def recheckPort (s : State) (p : Nat) : State :=
  let x := s.port p
  if ¬ (neighEntry s.c.route p).en then (if x.st = .off then s else portOff (failWaiting s p) p)
  else if x.st = .off then portStart s p
  else match x.ident with
    | none => s
    | some (w0, stamp) =>
      if x.st = .up ∧ ¬ neighbourFits s p w0 then holdPort s p 2 w0
      else if x.st = .held ∧ neighbourFits s p w0 then
        match agreeVersion s w0 with
        | some v => portUp (recordNeighbour s p w0 stamp) p v w0
        | none => s
      else s

def recheckPorts (s : State) : State := (List.range 12).foldl recheckPort s

/-- Replay, restore and the FUNCTION rung close every open collective, discard held frames with their credits returned, and
clear both checksum banks; girth landing buffers are discarded (R389, R439, R518). Frames in transit that wait in a port's receive
buffer are among the frames held. -/
def closeFabric (s0 : State) : State :=
  let s := (List.range 12).foldl closeGirth s0
  let passing := s.f.ports.flatMap fun x : Nat × LinkPort => x.2.transit.map fun f => (x.1, f)
  let s1 := ((s.f.buffer ++ passing).filter fun x : Nat × Frame => x.2.ofColl).foldl (fun s x => freeFrame s x.1 x.2) s
  let ports := s1.f.ports.map fun x : Nat × LinkPort =>
    (x.1, { x.2 with queue := x.2.queue.filter (fun t : TxFrame => !t.frame.ofColl)
                     transit := x.2.transit.filter fun f : Frame => !f.ofColl })
  let f := { s1.f with colls := [], ended := [], landing := [], marks := [], ports := ports,
                       buffer := s1.f.buffer.filter fun x : Nat × Frame => !x.2.ofColl }
  [0, 1].foldl (fun s b => ((s.setReg .aflStepTag b 0 0).setReg .aflStepSent b 0 0).setReg .aflStepRecv b 0 0) { s1 with f := f, u := { s1.u with norms := [] } }

end Sys2Proof.Machine
end

