-- ==== Sys2Proof/Machine/Group.lean ====
section
/-! DEFINITION. What power takes away: the state of a saddle group that reaches ON again (R483), and of every unit outside
the always-on domains (R500, R519). -/

namespace Sys2Proof.Machine

/-- The SDL_ registers and BNC_ECC_CNT of a saddle hold their reset values, but for RW and RWL fields (R549); the scale
register file and the histogram banks read zero with them. -/
def resetSaddleRegs (s : State) (n : Nat) : State :=
  { s with regs := s.regs.filterMap fun x : Nat × Word =>
      if saddleOfReg x.1 = some n then
        match regFind x.1 with
        | some (k, _, _) => let w := x.2 &&& keepMask k; if w = 0 then none else some (x.1, w)
        | none => none
      else some x }

/-- A saddle's contents are lost (R483): its bench is void, its tiles are INVALID, its scale register file and histogram
read zero. -/
def resetSaddle (s : State) (n : Nat) : State :=
  let s1 := resetSaddleRegs (voidBench s n) n
  let s2 : State := { s1 with sdl := sset {} s1.sdl n {}, vec := sset {} s1.vec n {} }
  s2.setReg .sdlAccFlags n 0 0x0808080808080808

/-- A saddle group reaches ON again (R483). -/
def resetGroup (s : State) (g : Nat) : State := (List.range 5).foldl (fun s i => resetSaddle s (5 * g + i)) s

/-- The stirrups of a saddle group are OFF, STOPPED or HALTED with nothing in flight (R482). -/
def groupQuiet (s : State) (g : Nat) : Bool :=
  (List.range 5).all fun i => let x := s.stir (5 * g + i); x.st != .run && x.flight.isEmpty

/-- Burnisher n has no binding open: BUSY of UPD_BURN_STAT[n] is clear (Table 9-12). -/
def burnisherIdle (s : State) (n : Nat) : State := s.setFld .updBurnStat n 0 0 1 0

/-- Every burnisher's binding is given up. -/
def burnishersIdle (s : State) : State := (List.range 32).foldl burnisherIdle s

/-- Compute, memory and link state is gone: the domains that hold it are off (R500, R519). -/
def dropDatapath (s : State) : State := { s with d := {}, f := {}, sdl := [], vec := [], mem := { pprSoft := s.mem.pprSoft, pprHard := s.mem.pprHard } }

end Sys2Proof.Machine
end

