-- ==== Sys2Proof/Machine/Omcp.lean ====
section
/-! DEFINITION. The OMCP receive path (R456, R457 Table 12-3, R460): which opcodes exist and when they are allowed
(Table 12-5, Table 14-1, R534), and the one operation by which every command of a host is answered. -/

namespace Sys2Proof.Machine

/-! Status codes (Table 12-9). -/
def stOk : Nat := 0x0000
def stAccepted : Nat := 0x0001
def stQueued : Nat := 0x0002
def stDeferred : Nat := 0x0003
def stMalformed : Nat := 0x0100
def stVersion : Nat := 0x0101
def stNoSession : Nat := 0x0102
def stSessionBusy : Nat := 0x0103
def stUnknownOpcode : Nat := 0x0104
def stState : Nat := 0x0105
def stSeqWindow : Nat := 0x0106
def stTicketUnknown : Nat := 0x0107
def stSelfPort : Nat := 0x0108
def stBuckleNotHeld : Nat := 0x0200
def stBuckleHeld : Nat := 0x0201
def stNotHolder : Nat := 0x0202
def stLeaseExpired : Nat := 0x0203
def stLeaseInvalid : Nat := 0x0204
def stAddrRange : Nat := 0x0300
def stProtect : Nat := 0x0301
def stMemError : Nat := 0x0302
def stRegInvalid : Nat := 0x0303
def stCfgLocked : Nat := 0x0304
def stIngressClosed : Nat := 0x0400
def stBrcFull : Nat := 0x0401
def stBrcComplement : Nat := 0x0402
def stBrcNoRole : Nat := 0x0403
def stBrcPosInvalid : Nat := 0x0404
def stBrcSealed : Nat := 0x0405
def stEgressFailed : Nat := 0x0406
def stCfgInvalid : Nat := 0x0500
def stSigFail : Nat := 0x0501
def stRollback : Nat := 0x0502
def stNotQuiescent : Nat := 0x0600
def stNotResumable : Nat := 0x0601
def stBankBusy : Nat := 0x0700
def stKgenInvalid : Nat := 0x0701
def stKgenDuplicate : Nat := 0x0702
def stKstDigestFail : Nat := 0x0703
def stRouteMalformed : Nat := 0x0704
def stRouteDigestFail : Nat := 0x0705
def stReplayStepInvalid : Nat := 0x0800
def stReplayNotClean : Nat := 0x0801
def stNotSpare : Nat := 0x0802
def stRestoreMalformed : Nat := 0x0803
def stRestoreRoleMismatch : Nat := 0x0804
def stRestorePosInvalid : Nat := 0x0805
def stRestoreDigest : Nat := 0x0806
def stCopyDigestMismatch : Nat := 0x0807
def stCopyTimeout : Nat := 0x0808
def stPprExhausted : Nat := 0x0900
def stPprNoCandidate : Nat := 0x0901
def stMntStarted : Nat := 0x0902
def stCapRange : Nat := 0x0A00

/-- What Table 12-5 and Table 14-1 say of an opcode: its code, whether it needs the buckle, and in which states it is
accepted beside RUNNING (WAIT_HOST; COMMITTING; RESETTING; TRIPPED; FW_RECOVERY, R534). -/
structure OpInfo where
  code : Nat
  buckle : Bool
  pre : Bool
  committing : Bool
  resetting : Bool
  tripped : Bool
  recovery : Bool
  deriving DecidableEq, Repr

/-- Table 12-5, first part: sessions, buckle, registers and memory, ingress and egress. -/
def opTableA : List OpInfo :=
  [⟨0x0001, false, true, true, true, true, true⟩, ⟨0x0002, false, true, true, true, true, true⟩,
   ⟨0x0003, false, true, true, true, true, true⟩, ⟨0x0004, false, true, true, true, true, false⟩,
   ⟨0x0010, false, true, true, true, true, true⟩, ⟨0x0011, false, true, true, true, true, true⟩,
   ⟨0x0012, false, true, true, true, true, true⟩, ⟨0x0013, false, true, true, true, true, true⟩,
   ⟨0x0020, false, true, true, true, true, true⟩, ⟨0x0021, true, true, false, false, false, false⟩,
   ⟨0x0022, false, false, false, false, false, false⟩, ⟨0x0023, true, false, false, false, false, false⟩,
   ⟨0x0024, false, true, true, true, true, false⟩, ⟨0x0030, false, false, false, false, false, false⟩,
   ⟨0x0031, false, false, false, false, false, false⟩, ⟨0x0032, false, true, false, false, true, true⟩,
   ⟨0x0033, false, true, false, false, true, true⟩, ⟨0x0034, false, true, false, false, true, true⟩]

/-- Table 12-5, second part. -/
def opTableB : List OpInfo :=
  [⟨0x0040, true, true, false, false, false, false⟩, ⟨0x0041, true, true, false, false, false, false⟩,
   ⟨0x0042, true, true, false, false, true, true⟩, ⟨0x0043, false, true, false, false, true, true⟩,
   ⟨0x0044, true, true, false, false, true, true⟩, ⟨0x0050, false, false, false, true, false, false⟩,
   ⟨0x0051, true, false, false, false, false, false⟩, ⟨0x0052, true, false, false, false, false, false⟩,
   ⟨0x0053, true, false, false, false, false, false⟩, ⟨0x0060, true, false, false, false, false, false⟩,
   ⟨0x0061, true, false, false, false, false, false⟩, ⟨0x0070, true, false, false, false, false, false⟩,
   ⟨0x0071, true, false, false, false, false, false⟩, ⟨0x0072, true, false, false, false, false, false⟩,
   ⟨0x0073, true, false, false, false, false, false⟩, ⟨0x0080, true, false, false, false, false, false⟩,
   ⟨0x0081, true, false, false, false, false, false⟩, ⟨0x0090, true, true, false, false, true, false⟩,
   ⟨0x0091, true, false, false, false, false, false⟩]

def opInfo (code : Nat) : Option OpInfo := (opTableA ++ opTableB).find? fun o : OpInfo => o.code == code

/-- Is an opcode accepted in a module state (R502 Table 14-1, R534). -/
def opAllowed (st : ModState) (o : OpInfo) : Bool :=
  match st with
  | .boot => false
  | .waitHost => o.pre
  | .committing => o.committing
  | .running => true
  | .resetting => o.resetting
  | .tripped => o.tripped
  | .fwRecovery => o.recovery

/-- Ingress opcodes, whose replies are not kept (R460) and whose refusal by state is INGRESS_CLOSED (R468). -/
def isIngress (code : Nat) : Bool := code == 0x30 || code == 0x31

/-- What a command's own checks and effect give: the new state and the reply. `quiet`: no reply is sent (R468); `after`
is what follows the reply, such as the DONE of a command that ends at once (R461). -/
structure Res where
  st : State
  status : Nat
  flags : Nat := 0
  ticket : BitVec 32 := 0
  payload : Bytes := []
  quiet : Bool := false
  after : State → State := id

/-- The link of a host port is up (Table 12-13). -/
def linkUp (s : State) (a : Fin 2) : Bool := bit (s.reg .ethPortStat a.val 0) 0

/-- A frame's VLAN tags are ones the port accepts (R452): untagged, or one tag that is the port's non-zero VID. -/
def tagsAccepted (s : State) (a : Fin 2) (tags : List (BitVec 12)) : Bool :=
  match tags with
  | [] => true
  | [t] => let vid := s.fld .ethPortCtrl a.val 0 0 12; vid ≠ 0 && t.toNat == vid
  | _ => false

/-- A packet the port takes: its link is up and its tag is accepted. -/
def portTakes (s : State) (a : Fin 2) (peer : NetAddr) : Bool := linkUp s a && tagsAccepted s a peer.tag.toList

/-- The IPv6 link-local address of a MAC address by the modified EUI-64 rule (R453). -/
def linkLocal (mac : Nat) : BitVec 128 :=
  let hi := mac / 2 ^ 24 ^^^ 0x020000
  BitVec.ofNat 128 (0xFE80 <<< 112 ||| hi <<< 40 ||| 0xFFFE <<< 24 ||| mac % 2 ^ 24)

/-- The IPv6 addresses in use on a port (R453). -/
def ip6Addrs (s : State) (a : Fin 2) : List (BitVec 128) :=
  let g : BitVec 128 := (s.reg .ethIp6Hi a.val 0 ++ s.reg .ethIp6Lo a.val 0 : BitVec 128)
  linkLocal (s.reg .ethMac a.val 0).toNat :: if g = 0 then [] else [g]

/-- The IPv4 address in use on a port, if any (R453). -/
def ip4Addr (s : State) (a : Fin 2) : Option (BitVec 32) :=
  let v := BitVec.setWidth 32 (s.reg .ethIp4 a.val 0)
  if v = 0 then none else some v

/-- Is an address one of the port's, in the form the packet came in (R453). -/
def ownAddress (s : State) (a : Fin 2) (peer : NetAddr) (target : BitVec 128) : Bool :=
  match peer.form with
  | .udp4 => match ip4Addr s a with
    | some v => target == BitVec.setWidth 128 v
    | none => false
  | .udp6 => (ip6Addrs s a).contains target
  | .raw => false

/-- The session's peer with the port's own address and service as the registers now give them: an address no longer in use gives way to
the one in use of its form, the global one before the link-local one; where the port has none of the form, the HELLO's stays (DESIGN
CHOICE, log entry 77). -/
def ownNow (s : State) (a : Fin 2) (d : NetAddr) : NetAddr :=
  match d.form with
  | .raw => { d with service := BitVec.ofNat 16 (s.fld .ethCfg 0 0 16 16) }
  | .udp4 =>
    { d with service := BitVec.ofNat 16 (s.fld .ethCfg 0 0 32 16), own := ((ip4Addr s a).map (BitVec.setWidth 128)).getD d.own }
  | .udp6 =>
    { d with service := BitVec.ofNat 16 (s.fld .ethCfg 0 0 32 16)
             own := if (ip6Addrs s a).contains d.own then d.own else (ip6Addrs s a).getLastD d.own }

/-- A packet is received on a port: what was written to ETH_CFG and the port's addresses before it takes effect (R454), for the packets
that the module sends to the port's session of its own accord. -/
def packetIn (s : State) (a : Fin 2) : State :=
  match s.session a with
  | some x => s.setSession a (some { x with peer := ownNow s a x.peer })
  | none => s

/-- A packet is OMCP's (R454): an Ethernet frame of EtherType ETYPE, or a datagram to UDP_PORT at an address in use. -/
def isOmcp (s : State) (a : Fin 2) (peer : NetAddr) : Bool :=
  match peer.form with
  | .raw => peer.service.toNat == s.fld .ethCfg 0 0 16 16
  | _ => peer.service.toNat == s.fld .ethCfg 0 0 32 16 && ownAddress s a peer peer.own

/-- The port takes a packet as OMCP's. -/
def omcpTakes (s : State) (a : Fin 2) (peer : NetAddr) : Bool := portTakes s a peer && isOmcp s a peer

/-- A frame of so many bytes after its IP header, or after its EtherType where it has none, is within the MAC's 9,216 bytes from
destination address to FCS (R450). -/
def frameFits (peer : NetAddr) (n : Nat) : Bool :=
  let tag := if peer.tag.isSome then 4 else 0
  let ip := match peer.form with
    | .raw => 0
    | .udp4 => 20
    | .udp6 => 40
  decide (14 + tag + ip + n + 4 ≤ 9216)

/-- Bytes of the UDP header. -/
def udpHead (peer : NetAddr) : Nat := if peer.form = .raw then 0 else 8

/-- Where the reply to a request goes: to where the request came from (R454), with the tag of its session's HELLO (R452). -/
def replyTo (s : State) (q : Req) : NetAddr :=
  match s.session q.port with
  | some x => if x.id = q.session then { q.src with tag := x.peer.tag } else q.src
  | none => q.src

/-- An unpinned lease has passed (R464). -/
def leaseOver (s : State) : Bool :=
  s.h.buckle.holder.isSome && s.h.buckle.pins.isEmpty && decide (s.h.buckle.expiry.toNat < s.time.toNat)

/-- A lease that has passed frees the buckle before a later request is looked at (R464). -/
def lapse (s : State) : State :=
  if leaseOver s then
    let s1 := expireBuckle s
    { s1 with h := { s1.h with buckle := { s1.h.buckle with lapsed := none } } }
  else s

/-- A REPLY packet (Table 12-2). -/
def replyPacket (s : State) (ver : BitVec 4) (session : BitVec 16) (code : Nat) (seq : BitVec 32) (r : Res) : OmcpPacket :=
  ⟨ver, 1, BitVec.ofNat 8 r.flags, BitVec.ofNat 16 code, BitVec.ofNat 16 r.status, session, seq, r.ticket,
    s.reg .aflStamp 0 0, r.payload⟩

/-- The bytes of an OMCP packet the module sends (R456, Table 12-2). -/
def packetBytes (k : OmcpPacket) : Bytes :=
  let head := wordsBytes
    [ place 48 16 0xA6D1 ||| place 44 4 k.ver.toNat ||| place 40 4 k.kind.toNat ||| place 32 8 k.flags.toNat
        ||| place 16 16 k.opcode.toNat ||| place 0 16 k.status.toNat,
      place 48 16 k.session.toNat ||| place 0 32 k.seq.toNat,
      place 32 32 k.ticket.toNat ||| place 0 14 k.payload.length, k.stamp, ~~~k.stamp ]
  head ++ wordBytes (BitVec.ofNat 64 (crc32c (head ++ k.payload))) ++ k.payload

/-- Answer a request that row 4 to 11 of Table 12-3 turns away: nothing else changes. -/
def turnAway (s : State) (q : Req) (code status : Nat) (payload : Bytes) : Out :=
  let (ver, sid) := match s.session q.port with
    | some x => (x.ver, x.id)
    | none => (q.ver, q.session)
  .next ((packetIn s q.port).sendOmcp q.port (replyTo s q) (replyPacket s ver sid code q.seq { st := s, status := status, payload := payload }))

/-- How far a SEQ lies below another, modulo 2^32. -/
def seqBelow (high seq : BitVec 32) : Nat := (high - seq).toNat

/-- A SEQ 64 or more below the highest one executed (Table 12-3 row 7). -/
def seqOld (x : Session) (seq : BitVec 32) : Bool :=
  match x.high with
  | some h => decide (64 ≤ seqBelow h seq ∧ seqBelow h seq < 2 ^ 31)
  | none => false

/-- Put a SEQ among those executed, which stand highest first. -/
def insertSeq (high seq : BitVec 32) : List (BitVec 32) → List (BitVec 32)
  | [] => [seq]
  | y :: ys => if seqBelow high y ≤ seqBelow high seq then y :: insertSeq high seq ys else seq :: y :: ys

/-- The session has executed a request with this SEQ: its highest SEQ rises, and the reply is kept; the replies to the 64
highest SEQ values executed are kept (R460). -/
def recordReply (x : Session) (seq : BitVec 32) (kept : Option Kept) : Session :=
  let high := match x.high with
    | none => seq
    | some h => if seqBelow seq h < 2 ^ 31 then seq else h
  let old := x.kept.filter fun k : Kept => k.seq ≠ seq
  let ks := match kept with
    | some k => k :: old
    | none => old
  let ex := (insertSeq high seq (x.executed.filter fun y : BitVec 32 => y != seq)).take 64
  { x with high := some high, kept := ks.filter fun k : Kept => ex.contains k.seq, executed := ex }

/-- The session has been heard from (R459), by a packet of its own. -/
def touchSession (s : State) (a : Fin 2) (x : Session) : State :=
  s.setSession a (some { x with last := s.time, peer := ownNow s a x.peer })

/-- Execute a request that passed every check: run its own effect, send the reply and keep it (R457 row 12, R460). -/
def runRequest (s : State) (q : Req) (code : Nat) (body : State → Res) : State :=
  let r := body s
  let (ver, sid) := match s.session q.port with
    | some x => (x.ver, x.id)
    | none => (q.ver, q.session)
  let pkt := replyPacket r.st ver sid code q.seq r
  let s1 := if r.quiet then r.st else r.st.sendOmcp q.port (replyTo s q) pkt
  r.after (match s1.session q.port with
  | some x =>
    if x.id = sid then
      s1.setSession q.port (some (recordReply x q.seq (if isIngress code then none else some ⟨q.seq, pkt, replyTo s q⟩)))
    else s1
  | none => s1)

/-- The first row of Table 12-3, of rows 8 to 11, that turns a request of an open session away, with its status. -/
def lateRefusal (s : State) (q : Req) (x : Session) (code : Nat) (fits : Bool) : Option Nat :=
  match opInfo code with
  | none => some stUnknownOpcode
  | some o =>
    if code = 0x31 ∧ x.ver.toNat < 2 then some stUnknownOpcode
    else if ¬ fits then some stMalformed
    else if ¬ opAllowed s.m.st o then some (if isIngress code then stIngressClosed else stState)
    else if o.buckle ∧ s.h.buckle.holder ≠ some (q.port, q.session) then
      some (if s.h.buckle.lapsed = some (q.port, q.session, s.time) then stLeaseExpired else stBuckleNotHeld)
    else none

/-- A request of the port waits: the requests of one session run one at a time, in arrival order (R460). -/
def requestWaits (s : State) (a : Fin 2) : Bool := s.maint.held.any fun x : Fin 2 × Instr => x.1 == a

/-- A request waits its turn. -/
def holdRequest (s : State) (a : Fin 2) (c : Instr) : State :=
  { s with maint := { s.maint with held := s.maint.held ++ [(a, c)] } }

/-- A request other than HELLO (R457): rows 4 to 11 of Table 12-3, then the command's own checks and effect. `fits`
says whether the arguments fit the opcode's layout (row 9); `echo` is what a refusal echoes (R468: DATA_PUT alone); `busy`
says whether the request, which is `c`, must wait for a lock before it runs (R273). -/
def omcpWait (row : String) (c : Instr) (s : State) (q : Req) (code : Nat) (fits : Bool) (echo : Bytes) (busy : State → Bool)
    (body : State → Res) : Out :=
  let s := lapse s
  if ¬ omcpTakes s q.port q.src then disabled row
  else match s.session q.port with
    | none => turnAway s q code stNoSession echo
    | some x =>
      if q.ver ≠ x.ver then turnAway s q code stVersion echo
      else if q.session ≠ x.id then turnAway s q code stNoSession echo
      else
        let s1 := touchSession s q.port x
        match x.kept.find? fun k : Kept => k.seq = q.seq with
        | some k => .next (s1.sendOmcp q.port k.dest k.pkt)
        | none =>
          if seqOld x q.seq then turnAway s1 q code stSeqWindow echo
          else match lateRefusal s1 q x code fits with
            | some st => turnAway s1 q code st echo
            | none => .next (if requestWaits s1 q.port || busy s1 then holdRequest s1 q.port c else runRequest s1 q code body)

/-- A request that waits for no lock of its own. -/
def omcp (row : String) (c : Instr) (s : State) (q : Req) (code : Nat) (fits : Bool) (echo : Bytes) (body : State → Res) : Out :=
  omcpWait row c s q code fits echo (fun _ => false) body

/-- Accept a command with a ticket (R461), and say what follows its reply. -/
def acceptTicket (s : State) (q : Req) (code status : Nat) (after : BitVec 32 → State → State) : Res :=
  let pins := match opInfo code with
    | some o => o.buckle
    | none => false
  let (n, s1) := openTicket s q code status pins
  { st := s1, status := status, ticket := n, after := after n }

/-- Close the session of a port (R459, R559). -/
def closeSession (s : State) (a : Fin 2) : State := (s.setSession a none).setReg .omcEventSub a.val 0 0

end Sys2Proof.Machine
end

