-- ==== Sys2Proof/Machine/Rung.lean ====
section
/-! DEFINITION. The end of the FUNCTION rung (R518). -/

namespace Sys2Proof.Machine

/-- Nothing is in flight on any stirrup. -/
def noneInFlight (s : State) : Bool := s.d.stirrups.all fun x : Nat × Stirrup => x.2.flight.isEmpty

/-- Every stirrup that is not OFF stands HALTED with nothing in flight, its run-ahead cancelled. -/
def haltAll (s : State) : State :=
  (List.range 304).foldl (fun s t =>
    let s1 := enterHalt s t true
    s1.setStir t { s1.stir t with flight := [], switching := false, hold := 0 }) s

/-- Orders 4 to 8 of R518. -/
def finishFunction (s : State) (ticket : BitVec 32) : State :=
  let s1 := burnishersIdle (closeFabric (haltAll s))
  let s2 := (List.range 4096).foldl (fun s c => setCtr s c 0) s1
  let s3 := (List.range 60).foldl (fun s g => if s.domainOn g then resetGroup s g else s) s2
  let vecs := s3.vec.filter fun x : Nat × Vec => decide (x.1 < 300)
  let disp : Disp := { s3.d with tack := [], signals := [], gathers := [] }
  let s4 : State := { s3 with d := disp, u := {}, vec := vecs, m := { s3.m with rung := .none, st := .running } }
  finishTicket s4 ticket stOk 0

/-- The FUNCTION rung goes on once no activity runs and nothing is in flight (R518 orders 2 and 3). -/
def tryFinishFunction (s : State) : State :=
  match s.m.rung with
  | .function n _ => if s.maint.running.isEmpty ∧ noneInFlight s then finishFunction s n else s
  | _ => s

end Sys2Proof.Machine
end

