-- ==== Sys2Proof/Machine/Session.lean ====
section
/-! DEFINITION. Sessions, tickets, the event subscription and the buckle commands (R458 to R466, R558, R559). -/

namespace Sys2Proof.Machine

/-- Bits of a request word outside those its layout names are zero. -/
def onlyBits (w : Word) (mask : Nat) : Bool := w &&& ~~~(BitVec.ofNat 64 mask) == 0

/-- Bytes of one fragment of a record (R467); none where the fragment does not exist. -/
def fragBytes (s : State) (f : Nat) : Option Nat :=
  let rec_ := s.fld .brcCtrl 0 0 36 24
  if 8192 * f < rec_ then some (min 8192 (rec_ - 8192 * f)) else none

/-- The payload of a request fits its opcode's layout (Table 12-3 row 9, Table 12-5). -/
def layoutFits (s : State) (code : Nat) (p : Bytes) : Bool :=
  let w := fun i => wordAt p (8 * i)
  let n := p.length
  match code with
  | 0x01 => n == 8 && onlyBits (w 0) 0xFFFFFFFF000000FF
  | 0x02 | 0x12 | 0x13 | 0x34 | 0x41 | 0x50 => n == 0
  | 0x03 | 0x10 | 0x11 | 0x81 => n == 8 && onlyBits (w 0) 0xFFFFFFFF
  | 0x04 => n == 8 && onlyBits (w 0) 0xFFFF
  | 0x20 | 0x24 => n == 8 && onlyBits (w 0) 0xFFFFFFFFFF && (1 ≤ field (w 0) 32 8 && field (w 0) 32 8 ≤ 128)
  | 0x21 => n == 16 && onlyBits (w 0) 0xFFFFFFFF
  | 0x22 => n == 16 && onlyBits (w 0) 0xFFFFFFFFFF && onlyBits (w 1) 0x3FFF && field (w 0) 0 6 == 0
      && field (w 1) 0 6 == 0 && (64 ≤ field (w 1) 0 14 && field (w 1) 0 14 ≤ 8192)
  | 0x23 => 72 ≤ n && (n - 8) % 64 == 0 && n ≤ 8256 && onlyBits (w 0) 0xFFFFFFFFFF && field (w 0) 0 6 == 0
  | 0x30 => 64 ≤ n && onlyBits (w 4) 0x7FF && onlyBits (w 5) 0 && onlyBits (w 6) 0 && onlyBits (w 7) 0
      && fragBytes s (field (w 4) 0 11) == some (n - 64)
  | 0x31 =>
      let r := s.fld .brcCtrl 0 0 36 24
      16 ≤ n && n ≤ 8256 && r ≤ 4096 && (n - 16) % (16 + r) == 0 && (1 ≤ (n - 16) / (16 + r) && (n - 16) / (16 + r) ≤ 32)
  | 0x32 => n == 8 && onlyBits (w 0) 0x1FFFFFF
  | 0x33 => n == 32 && onlyBits (w 0) 0x1FFFFFFFF && onlyBits (w 3) 1
      && (w 2 - w 1).toNat ≤ 16777216
  | 0x40 => 9 ≤ n && n ≤ 8256 && onlyBits (w 0) 0xFFFFFFFF && field (w 0) 0 32 + (n - 8) ≤ 2 ^ 32
  | 0x42 => 8 ≤ n && onlyBits (w 0) 0xFFFFFFFF00000003 && field (w 0) 0 2 != 3 &&
      (if field (w 0) 0 2 == 0 then 9 ≤ n && n ≤ 8200 && field (w 0) 32 6 == 0 else n == 8)
  | 0x43 => n == 48
  | 0x44 => n == 8 && onlyBits (w 0) 3 && field (w 0) 0 2 != 0
  | 0x51 => n == 8 && onlyBits (w 0) 0x1FF && (field (w 0) 0 9 < 304 || field (w 0) 0 9 == 0x1FF)
  | 0x52 => n == 24 && onlyBits (w 0) 0x1FF && field (w 0) 0 9 < 304 && onlyBits (w 2) 0x80FFFFFF
  | 0x53 => 8 ≤ n && n % 8 == 0 && n ≤ 8256
  | 0x60 => n == 24 && onlyBits (w 0) 0xFFFF0007 && onlyBits (w 1) 0xFFFFFFFFFF && onlyBits (w 2) 0xFFFFF
  | 0x61 => n == 16 && onlyBits (w 0) 0xFFFFFFFFFF && onlyBits (w 1) 0x7FFFFF
  | 0x70 => n == 24 && onlyBits (w 1) 1
  | 0x71 => n == 4160
  | 0x72 => n == 64
  | 0x73 => n == 8 && onlyBits (w 0) 0x3FFF
  | 0x80 => n == 8 && onlyBits (w 0) 0x10F1F
  | 0x90 => n == 8 && onlyBits (w 0) 0xFFF
  | 0x91 => n == 8 && onlyBits (w 0) 0x17F && field (w 0) 0 7 < 80
  | _ => false

/-! Packets that a receive check turns away. -/

/-- A received packet's request fields (Table 12-2). -/
def packetReq (a : Fin 2) (peer : NetAddr) (p : Bytes) : Req :=
  let w0 := wordAt p 0
  let w1 := wordAt p 8
  ⟨a, peer, BitVec.ofNat 4 (field w0 44 4), BitVec.ofNat 16 (field w1 48 16), BitVec.ofNat 32 (field w1 0 32), bit w0 32, bit w0 33⟩

/-- Reserved fields of a request's header, and those a request carries as zero, are zero (R456). -/
def headerClean (p : Bytes) : Bool :=
  field (wordAt p 0) 36 4 == 0 && field (wordAt p 0) 0 16 == 0 && field (wordAt p 8) 32 16 == 0
    && field (wordAt p 16) 32 32 == 0 && field (wordAt p 16) 14 18 == 0 && field (wordAt p 40) 32 32 == 0

/-- Discard a packet and count it in a 16-bit field of ETH_CNT (rows 1 to 3). -/
def countDiscard (s : State) (a : Fin 2) (lo : Nat) : Out := .next ((packetIn s a).countHold .ethCnt a.val 0 lo 16 1)

/-- A HELLO's own rows 8 to 11: what turns it away, if anything. -/
def helloRefusal (s : State) (fits : Bool) : Option Nat :=
  if ¬ fits then some stMalformed else if s.m.st = .boot then some stState else none

/-- A received OMCP packet fails a check of Table 12-3 and is discarded, answered with an error status, or answered
with its kept reply (R457). A packet that passes every check is another row's; a frame longer than the MAC takes (R450) is not
received and counts nowhere (DESIGN CHOICE, log entry 70). -/
def execOmcpPacketReject (a : Fin 2) (pkt : Bytes) (peer : NetAddr) (s : State) : Out :=
  if ¬ omcpTakes s a peer then disabled "OMCP_PACKET_REJECT"
  else if ¬ frameFits peer (udpHead peer + pkt.length) then .next s
  else if pkt.length < 48 ∨ field (wordAt pkt 0) 48 16 ≠ 0xA6D1 ∨ field (wordAt pkt 16) 0 14 ≠ pkt.length - 48 then
    countDiscard s a 32
  else if field (wordAt pkt 40) 0 32 ≠ crc32c (pkt.take 40 ++ pkt.drop 48) then countDiscard s a 48
  else if field (wordAt pkt 0) 40 4 ≠ 0 then countDiscard s a 32
  else
    let q := packetReq a peer pkt
    let code := field (wordAt pkt 0) 16 16
    let body := pkt.drop 48
    let fits := headerClean pkt && body.length ≤ 8256 && layoutFits s code body
    if code = 1 then
      match helloRefusal s (fits && q.session == 0) with
      | some st => turnAway s q code st []
      | none => disabled "OMCP_PACKET_REJECT"
    else
      match omcp "OMCP_PACKET_REJECT" (.omcpPacketReject a pkt peer) s q code fits (if code = 0x30 then body.take 40 else []) (fun t => { st := t, status := 0 }),
        turnsAway (lapse s) q code fits with
      | o, true => o
      | _, false => disabled "OMCP_PACKET_REJECT"
where
  turnsAway (s : State) (q : Req) (code : Nat) (fits : Bool) : Bool :=
    match s.session q.port with
    | none => true
    | some x =>
      q.ver != x.ver || q.session != x.id || x.kept.any (fun k : Kept => k.seq == q.seq)
        || seqOld x q.seq || (lateRefusal (touchSession s q.port x) q x code fits).isSome

/-! Sessions. -/

/-- A session has been silent for SESSION_IDLE seconds (R459). -/
def sessionIdle (s : State) (x : Session) : Bool :=
  x.last.toNat + s.fld .omcCtrl 0 0 0 16 * 1000000000 ≤ s.time.toNat

/-- Next session identifier of a port: one greater, skipping zero (R458). -/
def nextSid (v : BitVec 16) : BitVec 16 := if v + 1 = 0 then 1 else v + 1

/-- SESSION_BUSY gives the open session's source address: MAC, IP and UDP port (layout: DESIGN CHOICE, log entry 14). -/
def busyPayload (x : Session) : Bytes := leBytes 6 x.peer.mac.toNat ++ leBytes 16 x.peer.ip.toNat ++ leBytes 2 x.peer.udp.toNat

/-- Reply to a HELLO with a status and no session opened. -/
def helloReply (s : State) (q : Req) (status : Nat) (payload : Bytes) : Out :=
  .next ((packetIn s q.port).sendOmcp q.port q.src (replyPacket s q.ver 0 1 q.seq { st := s, status := status, payload := payload }))

/-- HELLO (R458, R459): negotiates the version and opens a new session. -/
def execHello (q : Req) (verMin verMax : BitVec 4) (nonce : BitVec 32) (s : State) : Out :=
  if ¬ omcpTakes s q.port q.src then disabled "HELLO"
  else match helloRefusal s (q.session == 0) with
  | some st => turnAway s q 1 st []
  | none =>
    let top := if s.m.st = .fwRecovery then 1 else 2
    let v := min verMax.toNat top
    if v < max verMin.toNat 1 then helloReply s q stVersion (wordBytes (place 0 4 1 ||| place 4 4 top))
    else match s.session q.port with
      | some x =>
        if sessionIdle s x || q.force then openSession s q v nonce else helloReply s q stSessionBusy (busyPayload x)
      | none => openSession s q v nonce
where
  openSession (s : State) (q : Req) (v : Nat) (nonce : BitVec 32) : Out :=
    let s1 := closeSession s q.port
    let sid := nextSid (s1.h.port q.port).lastSid
    let x : Session := { id := sid, ver := BitVec.ofNat 4 v, peer := q.src, last := s.time }
    let s2 := { s1 with h := s1.h.setPort q.port { s1.h.port q.port with lastSid := sid, session := some x } }
    let w0 := place 0 4 v ||| place 4 1 q.port.val ||| place 16 12 (s.fld .cfgMemberId 0 0 0 12)
      ||| place 28 4 (modCode s.m.st) ||| place 32 32 nonce.toNat
    let pkt := replyPacket s2 (BitVec.ofNat 4 v) sid 1 q.seq { st := s2, status := stOk, payload := wordsBytes [w0, s.reg .feaPart 0 0] }
    .next (s2.sendOmcp q.port q.src pkt)

/-- BYE (R459). -/
def execBye (q : Req) (s : State) : Out :=
  omcp "BYE" (.bye q) s q 0x02 true [] fun s => { st := closeSession s q.port, status := stOk }

/-- A session that has sent no request for SESSION_IDLE seconds closes (R459). -/
def execSessionIdleExpiry (a : Fin 2) (s : State) : Out :=
  match s.session a with
  | none => disabled "SESSION_IDLE_EXPIRY"
  | some x =>
    let s1 := s.atTime (x.last + BitVec.ofNat 64 (s.fld .omcCtrl 0 0 0 16 * 1000000000))
    .next (closeSession s1 a)

/-- CMD_STATUS (R461): the state of one of the last 256 tickets. -/
def execCmdStatus (q : Req) (ticket : BitVec 32) (s : State) : Out :=
  omcp "CMD_STATUS" (.cmdStatus q ticket) s q 0x03 true [] fun s =>
    match (if (s.h.nextTicket - ticket).toNat ≤ 256 then s.ticket ticket else none) with
    | none => { st := s, status := stTicketUnknown }
    | some t =>
      let w0 := place 0 16 t.opcode.toNat ||| place 16 16 t.status.toNat ||| placeBit 32 t.done ||| place 48 16 t.session.toNat
      { st := s, status := stOk, payload := wordsBytes [w0, t.detail] }

/-- NOTIFY_SUB (R559): the class mask of the session's port is replaced. -/
def execNotifySub (q : Req) (mask : BitVec 16) (s : State) : Out :=
  omcp "NOTIFY_SUB" (.notifySub q mask) s q 0x04 true [] fun s =>
    { st := s.setReg .omcEventSub q.port.val 0 (BitVec.setWidth 64 mask), status := stOk }

/-! The buckle (R464 to R466). -/

/-- Milliseconds from now to the lease's expiry, or zero. -/
def remainMs (s : State) : Nat := (s.h.buckle.expiry.toNat - s.time.toNat) / 1000000

/-- Buckle reply payload (Table 12-6). -/
def bucklePayload (s : State) : Bytes :=
  match s.h.buckle.holder with
  | none => wordBytes 0
  | some (a, sid) =>
    wordBytes (holderWord a sid ||| placeBit 46 (!s.h.buckle.pins.isEmpty) ||| place 0 32 (remainMs s))

/-- A buckle reply: a status and the payload of Table 12-6. -/
def buckleRes (s : State) (status flags : Nat) : Res := { st := s, status := status, flags := flags, payload := bucklePayload s }

/-- LEASE_MS, 0 standing for LEASE of OMC_BKL_LEASE; none where it is out of range (R464). -/
def leaseMs (s : State) (lease : BitVec 32) : Option Nat :=
  let v := if lease = 0 then s.fld .omcBklLease 0 0 0 32 else lease.toNat
  if 1 ≤ v ∧ v ≤ 600000 then some v else none

/-- Take or renew the buckle for a session with a lease from now. -/
def holdBuckle (s : State) (q : Req) (ms : Nat) : State :=
  { s with h := { s.h with buckle := { s.h.buckle with holder := some (q.port, q.session), expiry := s.after (msNs ms) } } }

/-- What a session that does not hold the buckle is told: LEASE_EXPIRED where expiry won a coincidence (R466). -/
def notHolder (s : State) (q : Req) : Nat :=
  if s.h.buckle.lapsed = some (q.port, q.session, s.time) then stLeaseExpired else stNotHolder

/-- BKL_RENEW's own checks and effect (R464). -/
def renewBuckle (s : State) (q : Req) (lease : BitVec 32) : Res :=
  match leaseMs s lease with
  | none => buckleRes s stLeaseInvalid 0
  | some ms =>
    if s.h.buckle.holder = some (q.port, q.session) then buckleRes (holdBuckle s q ms) stOk 0
    else buckleRes s (notHolder s q) 0

/-- BKL_ACQUIRE (R464). -/
def execBklAcquire (q : Req) (lease : BitVec 32) (s : State) : Out :=
  omcp "BKL_ACQUIRE" (.bklAcquire q lease) s q 0x10 true [] fun s =>
    match leaseMs s lease with
    | none => buckleRes s stLeaseInvalid 0
    | some ms =>
      match s.h.buckle.holder with
      | none => buckleRes (holdBuckle s q ms) stOk 0
      | some h => if h = (q.port, q.session) then renewBuckle s q lease else buckleRes s stBuckleHeld 0

/-- BKL_RENEW (R464). -/
def execBklRenew (q : Req) (lease : BitVec 32) (s : State) : Out :=
  omcp "BKL_RENEW" (.bklRenew q lease) s q 0x11 true [] fun s => renewBuckle s q lease

/-- BKL_RELEASE (R464, R465): frees the buckle, or marks it to free when its pins clear. -/
def execBklRelease (q : Req) (s : State) : Out :=
  omcp "BKL_RELEASE" (.bklRelease q) s q 0x12 true [] fun s =>
    if s.h.buckle.holder = some (q.port, q.session) then
      if s.h.buckle.pins.isEmpty then buckleRes (freeBuckle s) stOk 0
      else buckleRes { s with h := { s.h with buckle := { s.h.buckle with release := true } } } stOk 8
    else buckleRes s (notHolder s q) 0

/-- BKL_QUERY (R464). -/
def execBklQuery (q : Req) (s : State) : Out := omcp "BKL_QUERY" (.bklQuery q) s q 0x13 true [] fun s => buckleRes s stOk 0

/-- The lease reaches expiry while the buckle is not pinned (R464, R465). -/
def execBklExpired (s : State) : Out :=
  if s.h.buckle.holder.isSome ∧ s.h.buckle.pins.isEmpty then .next (expireBuckle (s.atTime s.h.buckle.expiry))
  else disabled "BKL_EXPIRED"

/-! The event log. -/

/-- Number of entries held (R553). -/
def heldEntries (s : State) : Nat := s.h.log.length

/-- Entry number n, if it is held: the newest has number HEAD − 1. -/
def entryAt (s : State) (n : BitVec 32) : Option LogEntry :=
  let back := (s.h.logHead - n).toNat
  if back = 0 then none else s.h.log[back - 1]?

/-- EVENT_READ (R558): the held entries among those asked for, in increasing number. -/
def execEventRead (q : Req) (first : BitVec 32) (count : BitVec 8) (s : State) : Out :=
  omcp "EVENT_READ" (.eventRead q first count) s q 0x24 (1 ≤ count.toNat && count.toNat ≤ 128) [] fun s =>
    let read := (List.range count.toNat).flatMap fun i =>
      let n := first + BitVec.ofNat 32 i
      match entryAt s n with
      | some e => wordsBytes (entryWords n e)
      | none => []
    { st := s, status := stOk, payload := read }

end Sys2Proof.Machine
end

