-- ==== Sys2Proof/Machine/Stream.lean ====
section
/-! DEFINITION. Egress streams (R470, R471): how one starts, what its sub-streams hold, and the next packet of one. -/

namespace Sys2Proof.Machine

def chunkBytes : Nat := 1048576

/-- Destinations: ports whose open session is one. -/
def destinations (s : State) : List (Fin 2 × BitVec 25) :=
  ([0, 1] : List (Fin 2)).filterMap fun a =>
    match s.session a with
    | some x => x.egress.map fun l => (a, l)
    | none => none

/-- Start a stream of some bytes (R470): its number; none where no destination exists. -/
def startStream (s : State) (data : Bytes) (more : Bool) (producer : BitVec 32 → Producer) : Option (BitVec 32 × State) :=
  match destinations s with
  | [] => none
  | ds =>
    let n := s.h.nextStream
    let subs := ds.map fun d : Fin 2 × BitVec 25 => ({ port := d.1, limit := d.2.toNat } : SubStream)
    let e : Egress := ⟨n, data, more, producer n, subs, s.time⟩
    some (n, { s with h := { s.h with nextStream := n + 1, streams := s.h.streams ++ [e] } })

def State.stream (s : State) (n : BitVec 32) : Option Egress := s.h.streams.find? fun e : Egress => e.num = n

def State.setStream (s : State) (n : BitVec 32) (x : Egress) : State :=
  { s with h := { s.h with streams := s.h.streams.map fun e : Egress => if e.num = n then x else e } }

def dropStream (s : State) (n : BitVec 32) : State :=
  { s with h := { s.h with streams := s.h.streams.filter fun e : Egress => e.num ≠ n } }

/-- Bytes of a stream that belong to sub-stream i (R470). -/
def subTotal (e : Egress) (i : Nat) : Nat :=
  let n := e.data.length
  if e.subs.length < 2 then n
  else
    let whole := n / chunkBytes
    let mine := (whole + 1 - i) / 2
    chunkBytes * mine + if whole % 2 = i then n % chunkBytes else 0

/-- The stream offset of byte p of sub-stream i. -/
def subOffset (e : Egress) (i p : Nat) : Nat :=
  if e.subs.length < 2 then p else (2 * (p / chunkBytes) + i) * chunkBytes + p % chunkBytes

/-- How many bytes the next packet of a sub-stream carries: within its credit, its bytes so far, one packet and one
chunk. -/
def nextLen (e : Egress) (i : Nat) (x : SubStream) : Nat :=
  let room := min (x.limit - x.sent) (subTotal e i - x.sent)
  min 8192 (min room (if e.subs.length < 2 then room else chunkBytes - x.sent % chunkBytes))

/-- The packet after which a sub-stream holds nothing more. -/
def isLast (e : Egress) (i sent : Nat) : Bool := !e.more && sent == subTotal e i

/-- A stream has been sent and acknowledged to its end. -/
def streamDone (e : Egress) : Bool :=
  !e.more && (e.subs.zipIdx.all fun x : SubStream × Nat => x.1.last && x.1.acked == subTotal e x.2)

/-- An EGRESS packet (R471). -/
def egressPacket (s : State) (x : Session) (e : Egress) (off : Nat) (data : Bytes) (last : Bool) : OmcpPacket :=
  ⟨x.ver, 3, if last then 4 else 0, 0, 0, x.id, 0, 0, s.reg .aflStamp 0 0,
    wordsBytes [BitVec.setWidth 64 e.num, BitVec.ofNat 64 off] ++ data⟩

end Sys2Proof.Machine
end

