-- ==== Sys2Proof/Machine/Security.lean ====
section
/-! DEFINITION. The root of trust (15): firmware slots and their verification (R530 to R532), updates (R535, R536),
measurements (R538) and attestation (R539 to R541). -/

namespace Sys2Proof.Machine

/-! Slots. -/

def slotSize : Nat := 16777216

def State.slot (s : State) (k : Nat) : FwSlot := if k = 0 then s.sec.slot0 else s.sec.slot1
def State.setSlot (s : State) (k : Nat) (x : FwSlot) : State :=
  { s with sec := if k = 0 then { s.sec with slot0 := x } else { s.sec with slot1 := x } }

/-- n bytes of a slot from an offset. -/
def slotBytes (x : FwSlot) (o n : Nat) : Bytes := (List.range n).map fun i => sget 0 x.mem (o + i)
def slotWord (x : FwSlot) (o : Nat) : Word := leWord (slotBytes x o 8)

/-- Payload bytes of the image in a slot (Table 15-3). -/
def imageLength (x : FwSlot) : Nat := field (slotWord x 32) 0 32

/-- The header and payload: the bytes that are signed and measured. -/
def imageSigned (x : FwSlot) : Bytes := slotBytes x 0 (128 + imageLength x)

/-- Every byte of the image has been received. -/
def imageComplete (x : FwSlot) : Bool :=
  (List.range 128).all (fun i => sget false x.got i) && (List.range (imageLength x + 4096)).all fun i => sget false x.got (128 + i)

def fixedBytes (n : Nat) (bs : Bytes) : Bytes := (bs ++ List.replicate n 0).take n

/-- Fuses, as SEC_STAT shows them (Table 15-10). -/
def rootFused (s : State) (k : Nat) : Bool := bit (s.reg .secStat 0 0) (40 + k)
def rootRevoked (s : State) (k : Nat) : Bool := bit (s.reg .secStat 0 0) (44 + k)
def fusedFloor (s : State) : Nat := s.fld .secStat 0 0 48 8
def runSlot (s : State) : Nat := s.fld .secStat 0 0 37 1
def inactiveSlot (s : State) : Nat := 1 - runSlot s

/-- Both signatures of a block verify over some bytes with two keys (R528, R529). -/
def signaturesVerify (signed block ecdsaKey hssKey : Bytes) : Bool :=
  let w0 := wordAt block 0
  field w0 48 16 == 1 && field w0 12 36 == 0 && field w0 0 12 == 2964 && (block.drop 3068).all (· == 0)
    && Config.ecdsaVerify ecdsaKey (sha384 signed) ((block.drop 8).take 48) ((block.drop 56).take 48)
    && Config.hssVerify hssKey signed ((block.drop 104).take 2964)

/-- The first check of R531 that the image in a slot fails, if one does. -/
def failingCheck (s : State) (x : FwSlot) : Option Nat :=
  let w := fun i => slotWord x (8 * i)
  let len := imageLength x
  let svn := field (w 1) 0 8
  let key := field (w 2) 0 2
  let headerGood := field (w 0) 32 32 == 0x46576432 && field (w 0) 16 16 == 1 && field (w 0) 0 16 == 0x6432
    && field (w 1) 8 56 == 0 && field (w 2) 12 52 == 0 && field (w 2) 2 6 == 0 && field (w 3) 8 56 == 0
    && field (w 4) 32 32 == 0 && (List.range 4).all (fun i => w (12 + i) == 0)
    && decide (field (w 3) 0 8 ≤ svn) && decide (128 + len + 4096 ≤ slotSize)
  if ¬ headerGood then some 1
  else if ¬ rootFused s key ∨ rootRevoked s key then some 2
  else if svn < fusedFloor s then some 3
  else
    let payload := slotBytes x 128 len
    if sha384 payload ≠ slotBytes x 40 48 then some 4
    else
      let ek := payload.take 97
      let hk := (payload.drop 97).take 60
      let good := decide (157 ≤ len) && sha384 ek == Config.rootEcdsaHash key && sha384 hk == Config.rootHssHash key
        && signaturesVerify (imageSigned x) (slotBytes x (128 + len) 4096) ek hk
      if good then none else some 5

/-! The slot-select record (R536). -/

def copyGood (c : SelCopy) : Bool := c.seqInv == ~~~c.seq && c.slotInv == ~~~c.slot

/-- The slot the record names; none where no copy is consistent. -/
def recordedSlot (s : State) : Option Nat :=
  match copyGood s.sec.sel0, copyGood s.sec.sel1 with
  | true, true => some (if s.sec.sel0.seq.toNat < s.sec.sel1.seq.toNat then s.sec.sel1.slot.toNat else s.sec.sel0.slot.toNat)
  | true, false => some s.sec.sel0.slot.toNat
  | false, true => some s.sec.sel1.slot.toNat
  | false, false => none

/-- The slot that boot takes: the one the record names, or slot 0 where no copy is consistent (R536). -/
def selectedSlot (s : State) : Nat := (recordedSlot s).getD 0

/-- Write the record: the copy with the lower sequence number, or one that is not consistent, gets the higher number
plus 1. -/
def selectSlot (s : State) (k : Nat) : State :=
  let n0 := if copyGood s.sec.sel0 then s.sec.sel0.seq.toNat + 1 else 0
  let n1 := if copyGood s.sec.sel1 then s.sec.sel1.seq.toNat + 1 else 0
  let seq : Word := BitVec.ofNat 64 (max n0 n1)
  let slot : BitVec 1 := BitVec.ofNat 1 k
  let c : SelCopy := ⟨seq, ~~~seq, slot, ~~~slot⟩
  { s with sec := if n0 ≤ n1 then { s.sec with sel0 := c } else { s.sec with sel1 := c } }

/-! Measurements. -/

def measBytes (s : State) (i : Nat) : Bytes := (List.range 6).flatMap fun w => wordBytes (s.reg .secMeas i w)

def setMeas (s : State) (i : Nat) (bs : Bytes) : State :=
  (List.range 6).foldl (fun s w => s.setReg .secMeas i w (wordAt bs (8 * w))) s

/-- M ← SHA-384(M ‖ d) (R538). -/
def extend (s : State) (i : Nat) (d : Bytes) : State := setMeas s i (sha384 (measBytes s i ++ d))

/-- A change of the configuration is recorded in register 3 (Table 15-5). The OWN_DIGEST of a routing load is the 32 bytes of SHA-256
(Table 11-9) where R538 speaks of a 48-byte digest; M is extended by those 32 bytes as they stand (DESIGN CHOICE, log entry 76). -/
def extendConfig (s : State) (d : Bytes) : State :=
  let s1 := extend s 3 d
  { s1 with sec := { s1.sec with configExtends := s1.sec.configExtends + 1 } }

/-- The registers are cleared, and the ROM measured (R538). -/
def restartMeasurements (s : State) : State :=
  let s1 := (List.range 4).foldl (fun s i => setMeas s i []) s
  extend { s1 with sec := { s1.sec with configExtends := 0 } } 0 Config.romDigest

/-! Firmware update (R535). -/

/-- Answer an accepted FW_UPDATE, whose one DONE follows at once. -/
def fwAccept (s : State) (q : Req) (work : State → Nat × State) : Res :=
  acceptTicket s q 0x42 stAccepted fun n s =>
    let (st, s1) := work s
    finishTicket s1 n st 0

/-- Clear a slot's record of bytes received and its VERIFIED mark. -/
def clearRecord (s : State) (k : Nat) : State := s.setSlot k { s.slot k with got := [], verified := false }

/-- FW_UPDATE WRITE (Table 15-4). -/
def execFwUpdateWrite (q : Req) (offset : BitVec 32) (data : Bytes) (s : State) : Out :=
  let fits := decide (1 ≤ data.length ∧ data.length ≤ 8192 ∧ offset.toNat % 64 = 0)
  omcp "FW_UPDATE_WRITE" (.fwUpdateWrite q offset data) s q 0x42 fits [] fun s =>
    fwAccept s q fun s =>
      let o := offset.toNat
      if slotSize < o + data.length then (stMalformed, s)
      else
        let k := inactiveSlot s
        let s1 := if o = 0 then clearRecord s k else s
        let x := s1.slot k
        let mem := putBytesAt x.mem o data
        let got := (List.range data.length).foldl (fun m i => sset false m (o + i) true) x.got
        (stOk, s1.setSlot k { x with mem := mem, got := got })
where
  putBytesAt (m : List Host.Cell) (a : Nat) : Bytes → List Host.Cell
    | [] => m
    | b :: bs => putBytesAt (sset 0 m a b) (a + 1) bs

/-- FW_UPDATE COMMIT (Table 15-4, R536). -/
def execFwUpdateCommit (q : Req) (s : State) : Out :=
  omcp "FW_UPDATE_COMMIT" (.fwUpdateCommit q) s q 0x42 true [] fun s =>
    fwAccept s q fun s =>
      let k := inactiveSlot s
      let x := s.slot k
      if ¬ imageComplete x then (stMalformed, s)
      else match failingCheck s x with
        | some 3 => (stRollback, s)
        | some 5 => (stSigFail, s)
        | some _ => (stMalformed, s)
        | none => (stOk, selectSlot (s.setSlot k { x with verified := true }) k)

/-- FW_UPDATE ABORT (Table 15-4). -/
def execFwUpdateAbort (q : Req) (s : State) : Out :=
  omcp "FW_UPDATE_ABORT" (.fwUpdateAbort q) s q 0x42 true [] fun s =>
    fwAccept s q fun s => (stOk, clearRecord s (inactiveSlot s))

/-! Attestation. -/

/-- The slot-select record names the slot that is not running (Table 15-10). -/
def updatePending (s : State) : Bool :=
  match recordedSlot s with
  | some k => k != runSlot s
  | none => false

/-- The attestation report (Table 15-6). -/
def report (s : State) (nonce : BitVec 384) : Bytes :=
  let part := s.reg .feaPart 0 0
  let stamp := if s.m.locked then s.reg .aflStamp 0 0 else 0
  let member := if s.m.locked then s.fld .cfgMemberId 0 0 0 12 else 0
  let sec := s.reg .secStat 0 0
  let w0 := place 48 16 1 ||| place 32 16 part.toNat ||| placeBit 31 (bit part 16) ||| place 4 12 member ||| place 0 4 (modCode s.m.st)
  let fw := place 56 8 (field sec 56 8) ||| place 48 8 (field sec 48 8) ||| place 44 4 (field sec 44 4) ||| place 42 2 (field sec 38 2)
    ||| place 41 1 (runSlot s) ||| placeBit 40 (updatePending s)
  let pend := if updatePending s then sha384 (imageSigned (s.slot (inactiveSlot s))) else List.replicate 48 0
  fixedBytes 512 (wordBytes w0 ++ leBytes 48 nonce.toNat ++ wordsBytes [stamp, ~~~stamp]
    ++ (List.range 4).flatMap (measBytes s) ++ wordBytes fw ++ pend
    ++ wordsBytes [s.sec.version, BitVec.ofNat 64 (s.fld .secHssIndex 0 0 0 20), s.time, BitVec.setWidth 64 s.sec.configExtends])

/-- A signature block with its two signatures (Table 15-2). -/
def signatureBlock (ecdsa hss : Bytes) : Bytes :=
  fixedBytes 4096 (wordBytes (place 48 16 1 ||| place 0 12 2964) ++ fixedBytes 96 ecdsa ++ fixedBytes 2964 hss)

/-- A signature block of the device identity over some bytes. -/
def signBlock (index : Nat) (bs : Bytes) : Bytes := signatureBlock (Config.deviceEcdsaSign (sha384 bs)) (Config.deviceHssSign index bs)

/-- The device certificate (Table 15-7) with its signature block. -/
def certificate (s : State) : Bytes :=
  let part := s.reg .feaPart 0 0
  let head := place 48 16 1 ||| place 32 16 part.toNat ||| placeBit 31 (bit part 16) ||| place 0 2 Config.certificateSlot.toNat
  fixedBytes 4096 (wordsBytes [head, s.reg .secSerialLo 0 0, s.reg .secSerialHi 0 0] ++ fixedBytes 97 Config.deviceEcdsaKey
    ++ fixedBytes 60 Config.deviceHssKey) ++ signatureBlock Config.certificateEcdsa Config.certificateHss

/-- The HSS index advances before the signature is released (R540). -/
def advanceIndex (s : State) : State :=
  let n := s.fld .secHssIndex 0 0 0 20
  if n = 0xFFFFF then { s with sec := { s.sec with hssSpent := true } }
  else (s.setReg .secHssIndex 0 0 (BitVec.ofNat 64 (n + 1))).setReg .secHssIndexInv 0 0 (BitVec.ofNat 64 (0xFFFFF - (n + 1)))

/-- ATTEST (R539 to R541). -/
def execAttest (q : Req) (nonce : BitVec 384) (s : State) : Out :=
  omcp "ATTEST" (.attest q nonce) s q 0x43 true [] fun s =>
    match (s.session q.port).bind Session.egress with
    | none => { st := s, status := stState }
    | some _ =>
      acceptTicket s q 0x43 stAccepted fun n s =>
        if s.sec.hssSpent then finishTicket s n stState 1
        else
          let rep := report s nonce
          let index := s.fld .secHssIndex 0 0 0 20
          let data := rep ++ signBlock index rep ++ certificate s
          match startStream (advanceIndex s) data false (fun _ => .attest n) with
          | some (_, s1) => s1
          | none => finishTicket s n stState 0

end Sys2Proof.Machine
end

