-- ==== Sys2Proof/Machine/Maint.lean ====
section
/-! DEFINITION. Maintenance activities (R520 to R526): kernel loads (R194), routing loads (R422), row repairs (R273, R274) and
patrol scrub (R268 to R272). -/

namespace Sys2Proof.Machine

/-- Some byte of a range lies on a stack. -/
def touchesStack (s : State) (n a len : Nat) : Bool := (linesOf a len).any fun l => stackOf s (64 * l) == n

/-- Two activities may not run at the same time (Table 14-13, R521). -/
def conflicts (s : State) : Activity → Activity → Bool
  | .kernelLoad d b _ _ _, .kernelLoad d' b' _ _ _ => d == d' && b == b'
  | .kernelLoad _ _ _ _ _, .routeLoad _ _ | .routeLoad _ _, .kernelLoad _ _ _ _ _ => true
  | .kernelLoad _ _ _ a n, .rowRepair x _ _ | .rowRepair x _ _, .kernelLoad _ _ _ a n => touchesStack s x.val a.toNat n.toNat
  | .kernelLoad _ _ _ _ _, _ | _, .kernelLoad _ _ _ _ _ => false
  | .routeLoad _ _, .rowRepair _ _ _ | .rowRepair _ _ _, .routeLoad _ _ => false
  | .rowRepair n _ _, .rowRepair n' _ _ => n == n'
  | _, _ => true

/-- An activity clashes with one that runs, or waits earlier. -/
def clashes (s : State) (ahead : List Act) (x : Activity) : Bool := ahead.any fun a : Act => conflicts s a.what x

/-- The MIRROR lock is held. -/
def mirrorLocked (s : State) : Bool :=
  s.maint.running.any fun a : Act => match a.what with | .mirrorCopy _ _ _ | .mirrorTake _ => true | _ => false

/-- A collective is open or a link die holds a frame (R422). -/
def fabricBusy (s : State) : Bool :=
  !s.f.colls.isEmpty || !s.f.buffer.isEmpty || !s.f.copyHeld.isEmpty
    || s.f.ports.any fun x : Nat × LinkPort => !x.2.transit.isEmpty || x.2.queue.any fun t : TxFrame => t.frame.type != 4

/-- The bit of HBM_PPR_AVAIL that says whether a row can be repaired (Table 7-17). -/
def availBit (s : State) (l : Nat) : Nat := 2 * channelOf s (64 * l) + if Config.rowPseudo l then 1 else 0

/-- Statuses of a failed HBM access of a command (R469). -/
def memStatus : MemErr → Nat
  | .range _ => stAddrRange
  | .protect _ _ _ => stProtect
  | _ => stMemError

/-- What an activity's own chapter checks when it starts: the status that refuses it, if one does. -/
def startRefusal (s : State) : Activity → Option Nat × State
  | .kernelLoad d b gen _ _ =>
    let other := s.bank d.val (1 - b.val)
    (if bankCode s d.val b.val = 3 ∨ (s.bank d.val b.val).st = .loading then some stBankBusy
      else if gen = 0 then some stKgenInvalid
      else if other.st = .sealed ∧ other.gen = gen then some stKgenDuplicate
      else none, s)
  | .routeLoad _ _ => (if fabricBusy s then some stNotQuiescent else none, s)
  | .rowRepair n e _ =>
    let w := s.reg .hbmPprCand n.val e.val
    (if ¬ bit w 63 then some stPprNoCandidate
      else if ¬ bit (s.reg .hbmPprAvail n.val 0) (availBit s (field w 6 34)) then some stPprExhausted
      else none, s)
  | .mirrorCopy _ src _ =>
    match listBindings s .ddma src with
    | (.error e, s1) => (some (memStatus e), noteErr s1 .ddma e)
    | (.ok none, s1) => (some stMalformed, s1)
    | (.ok (some _), s1) => (none, s1)
  | .mirrorTake _ => (none, s)

/-- What starts with an activity, beside its locks. -/
def beginActivity (s : State) (ticket : Option (BitVec 32)) : Activity → State
  | .kernelLoad d b _ _ _ => s.setBank d.val b.val { st := .loading }
  | .mirrorCopy dest src dst =>
    { s with f := { s.f with copy := some { source := true, peer := dest.toNat, srcMirror := src, dstMirror := dst, ticket := ticket, timer := s.time } } }
  | _ => s

/-- An activity takes its locks and starts. -/
def startActivity (s : State) (ticket : Option (BitVec 32)) (tack : Option Nat) (x : Activity) : State :=
  let s1 : State := { s with maint := { s.maint with running := s.maint.running ++ [⟨ticket, tack, x, s.time⟩] } }
  beginActivity s1 ticket x

/-- The tack run that waits for a kernel load. -/
def loadRun (s : State) (d : Nat) : Option TackRun :=
  s.d.tack.find? fun r : TackRun => r.die == d && r.routine == rtKstLoad && r.phase == .kernelLoad

/-- Who asked for an activity is told how it ended: the command by its DONE, the tack routine by its STATUS, which
designates TACK_FAILED where it is not OK (R201; DESIGN CHOICE, log entry 22). -/
def tellEnd (s : State) (a : Act) (status : Nat) (detail : Word) : State :=
  let s1 := finishOpt s a.ticket status detail
  match a.tack with
  | none => s1
  | some d =>
    match loadRun s1 d with
    | none => s1
    | some r => if status = stOk then endGood s1 r 0 else endBad s1 r 0x42 (BitVec.ofNat 64 status)

/-- A load that a tack routine asked for has met a memory error reading its image: the routine's own fault, with no return
record (R582); a command is told as of any failed access (R469). -/
def tellMem (s : State) (a : Act) (e : MemErr) : State :=
  let s1 := noteErr s .fetch e
  match a.tack with
  | none => tellEnd s1 a (memStatus e) 0
  | some d =>
    match loadRun s1 d with
    | none => s1
    | some r => endTack s1 r (some (errFault e, errDetail e)) none

/-- With the last activity gone, the wait for descriptors of a FUNCTION rung begins (R518). -/
def startDrain (s : State) : State :=
  match s.m.rung with
  | .function n _ => if s.maint.running.isEmpty then { s with m := { s.m with rung := .function n s.time } } else s
  | _ => s

/-- An activity gives back its locks, and whoever asked is told. -/
def leaveActivity (s : State) (a : Act) (tell : State → State) : State :=
  tryFinishFunction (startDrain (tell { s with maint := { s.maint with running := s.maint.running.erase a } }))

/-- A running activity ends with a status. -/
def endActivity (s : State) (a : Act) (status : Nat) (detail : Word) : State :=
  leaveActivity s a fun s => tellEnd s a status detail

/-- Queued activities are cancelled (R524, R525). -/
def cancelQueued (s : State) : State :=
  let xs := s.maint.queued
  xs.foldl (fun s a => tellEnd s a stState 1) { s with maint := { s.maint with queued := [] } }

/-- A rung has been accepted and has not ended (R525). -/
def rungComes (s : State) : Bool := s.m.rung != .none || !s.m.delayed.isEmpty

/-- An activity request of a host (R522 to R525). -/
def requestActivity (s : State) (q : Req) (code : Nat) (x : Activity) : Res :=
  if rungComes s then { st := s, status := stState }
  else if clashes s (s.maint.running ++ s.maint.queued) x then
    if 16 ≤ s.maint.queued.length then { st := s, status := stState }
    else acceptTicket s q code stQueued fun n s =>
      { s with maint := { s.maint with queued := s.maint.queued ++ [⟨some n, none, x, s.time⟩] } }
  else
    match startRefusal s x with
    | (some st, s1) => { st := s1, status := st }
    | (none, s1) => acceptTicket s1 q code stAccepted fun n s => startActivity s (some n) none x

/-- A queued activity clashes with none that runs or waits ahead of it. -/
def readyActivity (s : State) (i : Nat) (a : Act) : Bool := !clashes s (s.maint.running ++ s.maint.queued.take i) a.what

/-- MNT_ACTIVITY_START (R522): a queued activity that clashes with none ahead of it starts, or its own checks end it. Ticket 0, which
no command has (R461), names the first that can start of those a tack routine asked for (DESIGN CHOICE, log entry 22). -/
def execMntActivityStart (ticket : BitVec 32) (s : State) : Out :=
  match s.maint.queued.zipIdx.find? fun z : Act × Nat => z.1.ticket.getD 0 == ticket && readyActivity s z.2 z.1 with
  | none => disabled "MNT_ACTIVITY_START"
  | some (a, i) =>
    let s0 : State := { s with maint := { s.maint with queued := s.maint.queued.eraseIdx i } }
    match startRefusal s0 a.what with
    | (some st, s1) => .next (tellEnd s1 a st 0)
    | (none, s1) => .next (startActivity s1 a.ticket a.tack a.what)

/-- An opcode of a maintenance activity. -/
def isMaintOpcode (code : Nat) : Bool := [0x60, 0x61, 0x73, 0x80].contains code

/-- MNT_CANCEL (R524). -/
def execMntCancel (q : Req) (ticket : BitVec 32) (s : State) : Out :=
  omcp "MNT_CANCEL" (.mntCancel q ticket) s q 0x81 true [] fun s =>
    match s.maint.queued.find? fun a : Act => a.ticket == some ticket with
    | some a =>
      { st := { s with maint := { s.maint with queued := s.maint.queued.erase a } }, status := stOk
        after := fun s => tellEnd s a stState 1 }
    | none =>
      match s.ticket ticket with
      | some t => { st := s, status := if isMaintOpcode t.opcode.toNat then stMntStarted else stTicketUnknown }
      | none => { st := s, status := stTicketUnknown }

/-! Kernel loads. -/

/-- KST_LOAD (R194). -/
def execKstLoad (q : Req) (d : Fin 4) (b : Fin 2) (gen : BitVec 16) (addr : BitVec 40) (len : BitVec 20) (s : State) : Out :=
  omcp "KST_LOAD" (.kstLoad q d b gen addr len) s q 0x60 true [] fun s => requestActivity s q 0x60 (.kernelLoad d b gen addr len)

/-- The running load of a bank. -/
def bankLoad (s : State) (d : Fin 4) (b : Fin 2) : Option (Act × BitVec 16 × BitVec 40 × BitVec 20) :=
  s.maint.running.findSome? fun a : Act =>
    match a.what with
    | .kernelLoad d' b' g x n => if d' = d ∧ b' = b then some (a, g, x, n) else none
    | _ => none

/-- KST_LOAD_DONE (R194, R427, R510): the bank becomes SEALED with its generation, or EMPTY; the stamp follows. -/
def execKstLoadDone (d : Fin 4) (b : Fin 2) (s : State) : Out :=
  match bankLoad s d b with
  | none => disabled "KST_LOAD_DONE"
  | some (a, gen, x, n) =>
    match memRead s .fetch {} x.toNat n.toNat with
    | (.error e, s1) =>
      .next (leaveActivity (recomputeStamp (s1.setBank d.val b.val {})) a fun s => tellMem s a e)
    | (.ok img, s1) =>
      if kernelGood img then
        let s2 := extendConfig (s1.setBank d.val b.val { st := .sealed, gen := gen, image := img }) (kernelDigest img)
        .next (endActivity (recomputeStamp s2) a stOk 0)
      else .next (endActivity (recomputeStamp (s1.setBank d.val b.val {})) a stKstDigestFail 0)

/-- Inline arguments of the routine KST_LOAD: source address, length, bank, generation (DESIGN CHOICE, log entry 22). -/
def loadArgs (ws : List Word) (d : Nat) : Activity :=
  .kernelLoad (Fin.ofNat 4 d) (Fin.ofNat 2 (dInline ws 2).toNat) (BitVec.setWidth 16 (dInline ws 3)) (BitVec.setWidth 40 (dInline ws 0))
    (BitVec.setWidth 20 (dInline ws 1))

/-- The inline arguments are those that the routine defines (R199): in their ranges, the rest zero. -/
def loadFits (ws : List Word) : Bool :=
  (inlineBad ws 4).isNone && decide ((dInline ws 0).toNat < 2 ^ 40 ∧ (dInline ws 1).toNat < 2 ^ 20 ∧ (dInline ws 2).toNat < 2
    ∧ (dInline ws 3).toNat < 2 ^ 16)

/-- TACK_KST_LOAD (R194): the routine asks for a load of a bank of its die. -/
def execTackKstLoad (d : Fin 4) (s : State) : Out :=
  match startedRun s d.val rtKstLoad with
  | none => disabled "TACK_KST_LOAD"
  | some r =>
    let x := loadArgs (runWords s r) d.val
    let s1 := setRun s r .kernelLoad
    let a : Act := ⟨none, some d.val, x, s.time⟩
    if (loadRun s d.val).isSome then disabled "TACK_KST_LOAD"
    else if ¬ loadFits (runWords s r) then .next (endBad s r 0x42 (BitVec.ofNat 64 stMalformed))
    else if rungComes s then .next (endBad s r 0x42 (BitVec.ofNat 64 stState))
    else if clashes s (s.maint.running ++ s.maint.queued) x then
      if 16 ≤ s.maint.queued.length then .next (tellEnd s1 a stState 0)
      else .next { s1 with maint := { s1.maint with queued := s1.maint.queued ++ [a] } }
    else
      match startRefusal s1 x with
      | (some st, s2) => .next (tellEnd s2 a st 0)
      | (none, s2) => .next (startActivity s2 none (some d.val) x)

/-! Routing loads. -/

/-- AFL_ROUTE_LOAD (R422). -/
def execAflRouteLoad (q : Req) (addr : BitVec 40) (len : BitVec 23) (s : State) : Out :=
  omcp "AFL_ROUTE_LOAD" (.aflRouteLoad q addr len) s q 0x61 true [] fun s => requestActivity s q 0x61 (.routeLoad addr len)

/-! Row repairs. -/

/-- MNT_PPR (R273, R274). -/
def execMntPpr (q : Req) (n : Fin 32) (entry : Fin 16) (hard : Bool) (s : State) : Out :=
  omcp "MNT_PPR" (.mntPpr q n entry hard) s q 0x80 true [] fun s => requestActivity s q 0x80 (.rowRepair n entry hard)

/-! Patrol scrub. -/

/-- What scrub and a repair find in HBM on a line: beneath its slice copy (R256, R269), else the line itself. -/
def beneath (s : State) (l : Nat) : Bytes × LineMeta :=
  match (sbgFind s l).bind SbgLine.below with
  | some x => x
  | none => (s.rewritten l).getD (s.line l, s.lineMeta l)

/-- Scrub or a repair leaves a line of HBM with some content; a slice copy of it, dirty or clean, stays as it is (R256). -/
def setBeneath (s : State) (l : Nat) (bs : Bytes) (m : LineMeta) : State :=
  match sbgFind s l with
  | some x =>
    match x.below with
    | some _ => { s with mem := { s.mem with sbg := s.mem.sbg.map fun y : SbgLine => if y = x then { x with below := some (bs, m) } else y } }
    | none =>
      if (bs, m) = (s.line l, s.lineMeta l) then forgetUnder s l
      else
        let s1 := forgetUnder s l
        { s1 with mem := { s1.mem with under := (l, bs, m) :: s1.mem.under } }
  | none => setLine (forgetUnder s l) l bs m

/-- A line of a repaired row is read beneath its slice (R256), corrected where it can be, and written back; one that was
uncorrectable keeps POISON = 1 (R273). -/
def rewriteLine (s0 : State) (l : Nat) : State :=
  let s := transfer s0 l
  let (old, was) := beneath s l
  match decodeLine old was with
  | (.uncorrectable, _, m) | (.badTag, _, m) => setBeneath s l (flipBytes old m.sym) { poison := true }
  | (_, bs, m) => setBeneath s l bs m

/-- The lines of a row that hold an error: in the line itself, or in what lies beneath its slice copy (R256). -/
def damagedLines (s : State) (n row : Nat) : List Nat :=
  let copies := s.mem.sbg.filter fun x : SbgLine =>
    match x.below with
    | some z => z.2 ≠ {}
    | none => false
  let ls := s.mem.lines.map Prod.fst ++ (copies.map fun x : SbgLine => x.line) ++ s.mem.under.map Prod.fst
  ls.eraseDups.filter fun l => stackOf s (64 * l) == n && Config.rowOf l == row

/-- One line of a scrub pass (R270, Table 7-5). -/
def scrubOne (s0 : State) (n l : Nat) : State :=
  let s := transfer s0 l
  let (bs, m) := beneath s l
  match decodeLine bs m with
  | (.clean, _, _) => s
  | (.corrected syms, d, m') => setBeneath (accountCE s l syms) l d m'
  | (.badTag, _, _) => setBeneath (accountTagOf s l m) l (flipBytes bs m.sym) { poison := true }
  | (.uncorrectable, _, _) =>
    let s1 := captureEcc ((s.bump 1 1).countHold .hbmEccCnt n 0 0 32 1) n l true 127 127
    let s2 := logModule s1 0x0202 (srcStack n) (BitVec.ofNat 64 (64 * l)) 0 0
    setBeneath (lineLost s2 l) l (flipBytes bs m.sym) { poison := true }

/-- SCRUB_LINE (R268 to R271): the next line of a stack; a pass that ends is counted, and the row counts clear. -/
def execScrubLine (n : Fin 32) (s : State) : Out :=
  if ¬ bit (s.reg .hbmScrubCtrl 0 0) 0 ∨ ¬ s.domainOn (60 + n.val / 8) ∨ stackLocked s n.val then disabled "SCRUB_LINE"
  else
    let pos := s.fld .hbmScrubStat n.val 0 0 32
    let s1 := scrubOne s n.val (stackLine s n.val (pos % 2 ^ 29) / 64)
    if pos + 1 < 2 ^ 29 then .next (s1.setFld .hbmScrubStat n.val 0 0 32 (pos + 1))
    else
      let s2 := (s1.setFld .hbmScrubStat n.val 0 0 32 0).countWrap .hbmScrubStat n.val 0 32 32 1
      .next { s2 with mem := { s2.mem with tracker := sset [] s2.mem.tracker n.val [] } }

end Sys2Proof.Machine
end

