-- ==== Sys2Proof/Machine/Mirror.lean ====
section
/-! DEFINITION. Mirror copies (R393, R438, R526). -/

namespace Sys2Proof.Machine

/-- The copy's running activity at this end. -/
def copyAct (s : State) : Option Act :=
  s.maint.running.find? fun a : Act => match a.what with | .mirrorCopy _ _ _ | .mirrorTake _ => true | _ => false

/-- The copy ends at this end: its lock is released, and at the source the command is told. -/
def endCopy (s : State) (status : Nat) (detail : Word) : State :=
  let s1 : State := { s with f := { s.f with copy := none } }
  match copyAct s1 with
  | some a => endActivity s1 a status detail
  | none => s1

/-- The copy ends with the digests of both ends (R393): DETAIL is the source's, and the word of DONE after it the destination's (DESIGN
CHOICE, log entry 23). -/
def endCopyDigests (s : State) (status : Nat) (own peer : Word) : State :=
  let s1 : State := { s with f := { s.f with copy := none } }
  match copyAct s1 with
  | some a =>
    leaveActivity s1 a fun s =>
      match a.ticket with
      | some n => finishTicketWith s n status own [peer]
      | none => s
  | none => s1

/-- The write ranges a copy reads or writes at this end, as (address, bytes). -/
def copyRanges (s : State) (mirror : Bool) : Option (List (Nat × Nat)) × State :=
  match listBindings s .ddma mirror with
  | (.ok (some bs), s1) => (some (bs.flatMap fun b => (writeRanges b).map Prod.snd), s1)
  | (_, s1) => (none, s1)

def totalBytes (rs : List (Nat × Nat)) : Nat := rs.foldl (fun n r => n + r.2) 0

/-- The part of some ranges that holds bytes [pos, pos + n) of their concatenation. -/
def cutRanges : List (Nat × Nat) → Nat → Nat → List (Nat × Nat)
  | [], _, _ => []
  | (a, len) :: rest, pos, n =>
    if n = 0 then []
    else if len ≤ pos then cutRanges rest (pos - len) n
    else
      let k := min n (len - pos)
      (a + pos, k) :: cutRanges rest 0 (n - k)

/-- Write a string of bytes over ranges. -/
def writeRangesBytes : List (Nat × Nat) → Bytes → State → Option MemErr × State
  | [], _, s => (none, s)
  | (a, n) :: rest, bs, s =>
    match memWrite s .ddma {} a (bs.take n) with
    | (some e, s1) => (some e, s1)
    | (none, s1) => writeRangesBytes rest (bs.drop n) s1

/-- Fill a string of bytes to whole units with zeros. -/
def fillUnits (bs : Bytes) : Bytes := bs ++ List.replicate ((64 - bs.length % 64) % 64) 0

/-- MIRROR_COPY (R393). A CFG_ROLE that differs from its complement is not used for its frames (R29; DESIGN CHOICE, log entry 65). -/
def execMirrorCopy (q : Req) (dest : BitVec 12) (srcMirror dstMirror : Bool) (s : State) : Out :=
  omcp "MIRROR_COPY" (.mirrorCopy q dest srcMirror dstMirror) s q 0x73 true [] fun s =>
    if ¬ regHeld s .cfgRole then { st := noteHeld s [.cfgRole], status := stBrcComplement }
    else requestActivity s q 0x73 (.mirrorCopy dest srcMirror dstMirror)

/-- The MCOPY frame that carries some bytes of a copy (R419, Table 11-7). -/
def copyFrame (s : State) (dest off : Nat) (payload : Bytes) : Frame :=
  { w0 := place 60 4 5 ||| place 48 7 (payload.length / 64) ||| place 36 12 s.memberId ||| place 24 12 dest ||| place 12 12 s.role
    w1 := 0
    w2 := ~~~0
    w3 := s.reg .aflStamp 0 0
    w4 := ~~~(s.reg .aflStamp 0 0)
    w5 := 0
    w6 := place 0 40 off
    w7 := 0
    payload := payload : Frame }

/-- The next frame of a copy at its source, and the state once its bytes are read; a failed read ends the copy. -/
def nextCopyFrame (s : State) (m : MirrorCopy) : Option Frame × State :=
  match copyRanges s m.srcMirror with
  | (none, s1) => (none, endCopy s1 stMalformed 0)
  | (some rs, s1) =>
    let n := min 4096 (totalBytes rs - m.done)
    match readRanges .ddma { policy := .stream } (cutRanges rs m.done n) s1 with
    | (.error e, s2) => (none, endCopy (noteErr s2 .ddma e) (memStatus e) 0)
    | (.ok bs, s2) =>
      (some (copyFrame s2 m.peer m.done (fillUnits bs.flatten)),
        { s2 with f := { s2.f with copy := some { m with done := m.done + n } } })

/-- A copy at its source still has bytes to send through a port and VC. -/
def copyWaits (s : State) (p vc : Nat) : Option MirrorCopy :=
  match s.f.copy with
  | some m =>
    match copyRanges s m.srcMirror with
    | (some rs, _) =>
      if m.source ∧ m.done < totalBytes rs ∧ leaveOf s m.peer = .out p vc then some m else none
    | (none, _) => if m.source then some m else none
  | none => none

/-- The first frame of a copy takes the MIRROR lock, where Table 14-13 lets it (R526). -/
def takeCopy (s : State) (src : Nat) (mirror : Bool) : Option State :=
  let x : Activity := .mirrorTake (BitVec.ofNat 12 src)
  if clashes s s.maint.running x then none
  else
    let s1 := startActivity s none none x
    some { s1 with f := { s1.f with copy := some { source := false, peer := src, srcMirror := false, dstMirror := mirror, ticket := none, timer := s.time } } }

/-- Write the payload of an MCOPY frame into the destination's ranges. -/
def storeCopy (s : State) (m : MirrorCopy) (f : Frame) : State :=
  match copyRanges s m.dstMirror with
  | (none, s1) => endCopy s1 stMalformed 0
  | (some rs, s1) =>
    let n := min f.payload.length (totalBytes rs - f.offset)
    match writeRangesBytes (cutRanges rs f.offset n) f.payload s1 with
    | (some e, s2) => endCopy (noteErr s2 .ddma e) (memStatus e) 0
    | (none, s2) => { s2 with f := { s2.f with copy := some { m with done := max m.done (f.offset + n), timer := s2.time } } }

/-- An MCOPY frame at its destination: accepted from the source of the copy under way (R438); any other frame is the first of a copy,
which takes the lock or waits for it (R526). -/
def takeCopyFrame (s : State) (x : HeldCopy) : State :=
  let wait : State := { s with f := { s.f with copyHeld := s.f.copyHeld ++ [x] } }
  match s.f.copy with
  | some m => if ¬ m.source ∧ m.peer = x.frame.src then storeCopy (freeFrame s x.port x.frame) m x.frame else wait
  | none =>
    match takeCopy s x.frame.src x.mirror with
    | none => wait
    | some s1 =>
      match s1.f.copy with
      | some m => storeCopy (freeFrame s1 x.port x.frame) m x.frame
      | none => s1

/-- Judge the MCOPY frames that wait once more, oldest first. -/
def retryCopies (s : State) : State :=
  s.f.copyHeld.foldl takeCopyFrame { s with f := { s.f with copyHeld := [] } }

/-- A lock has come free: the copies that waited for it proceed (R526). -/
def drainCopy (s : State) : State := (List.range s.f.copyHeld.length).foldl (fun s _ => retryCopies s) s

/-- The frame is for this member: its entry says local delivery and it names this member (R423). -/
def isLocal (s : State) (p : Nat) (f : Frame) : Bool :=
  f.dst == s.memberId && (match routeEntry s.c.route p f.dst with | some (o, _) => o == 15 | none => false)

/-- MCOPY_FRAME_RECEIVED (R420, R438, R526). The class that the copy's command names for the destination comes with the row; no field of
the frame carries it (DESIGN CHOICE, log entry 23). A frame of a block discarded under NAK has no effect (R416). -/
def execMcopyFrameReceived (p : Fin 12) (c : CopyFrame) (s : State) : Out :=
  let x := s.port p.val
  let f := c.frame
  if (x.st ≠ .up ∧ x.st ≠ .ident ∧ x.st ≠ .held) ∨ f.type ≠ 5 then disabled "MCOPY_FRAME_RECEIVED"
  else if x.nak then .next s
  else if x.st ≠ .up then .next (countDropped (returnCredit s p.val f) 1)
  else if ¬ isLocal s p.val f then disabled "MCOPY_FRAME_RECEIVED"
  else match acceptFrame f with
    | .badCrc => .next (badCrc (returnCredit s p.val f) p.val f)
    | .complement => .next (countDropped (badComplement (returnCredit s p.val f) p.val f) 1)
    | .reserved => .next (countDropped (returnCredit s p.val f) 1)
    | .ok => .next (drainCopy (takeCopyFrame s ⟨p.val, f, c.mirror, s.time⟩))

/-- The digest of what this end of a copy sent or wrote (R384, R393). -/
def copyDigest (s : State) (mirror : Bool) : Except MemErr (Option Word) × State :=
  match listBindings s .ddma mirror with
  | (.error e, s1) => (.error e, s1)
  | (.ok none, s1) => (.ok none, s1)
  | (.ok (some bs), s1) =>
    match readShard s1 .ddma bs with
    | (.error e, s2) => (.error e, s2)
    | (.ok parts, s2) => (.ok (some (digestOf s2 parts.flatten)), s2)

/-- MIRROR_COPY_DONE (R393): each end computes its digest; the source compares it with the destination's, `peer`, and the command
completes with both. -/
def execMirrorCopyDone (peer : Word) (s : State) : Out :=
  match s.f.copy with
  | none => disabled "MIRROR_COPY_DONE"
  | some m =>
    let mirror := if m.source then m.srcMirror else m.dstMirror
    let ended : Bool := match (copyRanges s mirror).1 with
      | some rs => decide (totalBytes rs ≤ m.done)
      | none => true
    if ¬ ended then disabled "MIRROR_COPY_DONE"
    else match copyDigest s mirror with
      | (.error e, s1) => .next (drainCopy (endCopy (noteErr s1 .ddma e) (memStatus e) 0))
      | (.ok none, s1) => .next (drainCopy (endCopy s1 stMalformed 0))
      | (.ok (some own), s1) =>
        .next (drainCopy (endCopyDigests s1 (if ¬ m.source ∨ own = peer then stOk else stCopyDigestMismatch) own peer))

/-- Of the copies that wait for the lock, the one whose timeout is due first, by its last frame. -/
def firstWaiting : List HeldCopy → Option HeldCopy
  | [] => none
  | x :: xs => if xs.any fun y : HeldCopy => y.frame.src == x.frame.src then firstWaiting xs else some x

/-- A copy that waits for the lock ends: its frames are discarded and their credits returned. -/
def endWaiting (s : State) (src : Nat) : State :=
  let mine := fun (x : HeldCopy) => x.frame.src == src
  let s1 := (s.f.copyHeld.filter mine).foldl (fun s x => freeFrame s x.port x.frame) s
  { s1 with f := { s1.f with copyHeld := s1.f.copyHeld.filter fun x => !mine x } }

/-- COPY_TIMEOUT (R438, R526): TIMEOUT without a frame or a credit advance; at the destination also one whose frames wait
for the lock. Of several that are due, the first in time ends. -/
def execCopyTimeout (atSource : Bool) (s : State) : Out :=
  let ms := BitVec.ofNat 64 (s.fld .aflCtrl 0 0 8 12 * 1000000)
  let stop := fun (m : MirrorCopy) => Host.Outcome.next (drainCopy (endCopy (s.atTime (m.timer + ms)) stCopyTimeout 0))
  let leave := fun (x : HeldCopy) => Host.Outcome.next (drainCopy (endWaiting (s.atTime (x.time + ms)) x.frame.src))
  match s.f.copy.filter fun m : MirrorCopy => m.source == atSource, if atSource then none else firstWaiting s.f.copyHeld with
  | some m, none => stop m
  | some m, some x => if m.timer.toNat ≤ x.time.toNat then stop m else leave x
  | none, some x => leave x
  | none, none => disabled "COPY_TIMEOUT"

end Sys2Proof.Machine
end

