-- ==== Sys2Proof/Machine/Fabric.lean ====
section
/-! DEFINITION. The fabric's rows (R417, R420, R423, R428 to R445): frames that leave, pass and arrive, collective routines,
their stages and timeouts. -/

namespace Sys2Proof.Machine

/-! Frames leave and pass. -/

/-- FRAME_TRANSMIT (R417): a frame of this member starts on a VC; a mirror copy's next frame is made then. -/
def execFrameTransmit (p : Fin 12) (vc : Fin 4) (s : State) : Out :=
  let x := s.port p.val
  if ¬ s.m.gateOpen ∨ portsLocked s then disabled "FRAME_TRANSMIT"
  else match firstOn x vc.val with
    | some t =>
      if ¬ canStart x vc.val t.frame then disabled "FRAME_TRANSMIT"
      else
        let f := asSent s p.val t.frame
        let s1 := putOnLine (s.setPort p.val { x with queue := x.queue.erase t }) p.val { t with frame := f }
        let s2 := frameStep s1 p.val f
        match t.owner with
        | some (id, k) => .next (drain (frameLeft s2 id k f))
        | none => .next s2
    | none =>
      match copyWaits s p.val vc.val with
      | none => disabled "FRAME_TRANSMIT"
      | some m =>
        match nextCopyFrame s m with
        | (none, s1) => .next (drainCopy s1)
        | (some f, s1) =>
          let f1 := asSent s1 p.val f
          if canStart (s1.port p.val) vc.val f1 then .next (putOnLine s1 p.val ⟨vc.val, f1, none⟩) else disabled "FRAME_TRANSMIT"

/-- A frame passes or is discarded; none: it waits. -/
def passFrame (s : State) (p : Nat) (f : Frame) : Option State :=
  match passOf s p f with
  | .drop true => some (routeDrop (returnCredit s p f) p f)
  | .drop false => some (countDropped (returnCredit s p f) 1)
  | .go o vc => some (frameStep (putOnLine (returnCredit s p f) o ⟨vc, f, none⟩) o f)
  | .wait | .mine => none

/-- The first frame in transit that can go: none before it waits for the same link and VC (R423, R424). -/
def passable (s : State) (p : Nat) : Option State :=
  let q := (s.port p).transit
  q.zipIdx.findSome? fun z : Frame × Nat =>
    if wayTaken s p (q.take z.2) z.1 then none
    else passFrame (s.setPort p { s.port p with transit := q.eraseIdx z.2 }) p z.1

/-- FRAME_FORWARD (R423): a frame arrives for another member, or, without one, a frame that waits is tried again. A frame of a block
discarded under NAK has no effect (R416). -/
def execFrameForward (p : Fin 12) (arrival : Option Frame) (s : State) : Out :=
  let x := s.port p.val
  match arrival with
  | some f =>
    if ¬ (x.st = .up ∨ x.st = .ident ∨ x.st = .held) ∨ f.type = 4 ∨ f.type = 0 then disabled "FRAME_FORWARD"
    else if x.nak then .next s
    else if x.st ≠ .up then .next (countDropped (returnCredit s p.val f) 1)
    else if passOf s p.val f = .mine then disabled "FRAME_FORWARD"
    else
      let s1 := frameStep s p.val f
      match (if wayTaken s1 p.val x.transit f then none else passFrame s1 p.val f) with
      | some s2 => .next s2
      | none => .next (s1.setPort p.val { s1.port p.val with transit := x.transit ++ [f] })
  | none =>
    match passable s p.val with
    | some s1 => .next s1
    | none => disabled "FRAME_FORWARD"

/-! Frames arrive. -/

/-- The collective that a discarded frame names ends with COLL_FRAME_ERROR, if it is open (Table 11-8 rows 1 and 2). -/
def frameError (s : State) (p : Nat) (f : Frame) : State :=
  match s.coll f.coll with
  | some c => failColl s c 0x47 p
  | none => s

/-- A frame for this member on a port: Table 11-8. A frame of a block discarded under NAK has no effect (R416). -/
def receive (row : String) (p : Fin 12) (f : Frame) (s : State) : Out :=
  let x := s.port p.val
  let s0 := returnCredit s p.val f
  if ¬ (x.st = .up ∨ x.st = .ident ∨ x.st = .held) then disabled row
  else if x.nak then .next s
  else if x.st ≠ .up then .next (countDropped s0 1)
  else if ¬ isLocal s p.val f then disabled row
  else match acceptFrame f with
    | .badCrc => .next (if f.ofColl then frameError (badCrc s0 p.val f) p.val f else badCrc s0 p.val f)
    | .complement =>
      let s1 := badComplement s0 p.val f
      .next (if f.ofColl then frameError s1 p.val f else countDropped s1 1)
    | .reserved => .next (if f.ofColl then frameError s0 p.val f else countDropped s0 1)
    | .ok => .next (arrive s p.val f)

/-- DATA_FRAME_RECEIVED (R420, R430 to R435): and any frame of TYPE IDLE or reserved. -/
def execDataFrameReceived (p : Fin 12) (f : Frame) (s : State) : Out :=
  if 2 ≤ f.type ∧ f.type ≤ 5 then disabled "DATA_FRAME_RECEIVED" else receive "DATA_FRAME_RECEIVED" p f s

/-- OPEN_FRAME_RECEIVED (R431). -/
def execOpenFrameReceived (p : Fin 12) (f : Frame) (s : State) : Out :=
  if f.type ≠ 2 then disabled "OPEN_FRAME_RECEIVED" else receive "OPEN_FRAME_RECEIVED" p f s

/-- OPEN_RESULT_RECEIVED (R431). -/
def execOpenResultReceived (p : Fin 12) (f : Frame) (s : State) : Out :=
  if f.type ≠ 3 then disabled "OPEN_RESULT_RECEIVED" else receive "OPEN_RESULT_RECEIVED" p f s

/-! Stages and timeouts. -/

/-- A SEND stage reads its range and sends it (R430). -/
def startSend (s : State) (c : Coll) (k : Nat) (st : Stage) : State :=
  match collRead s c (stageStart c st) (stageBytes st) with
  | (.error e, s1) => failCollMem s1 c e
  | (.ok bs, s1) =>
    match sendAll c k st.peer st.tag (st.len / 64 + 1) 0 bs 0 s1 with
    | .error p => failColl s1 c 0x46 p
    | .ok (n, s2) =>
      let c1 := updProg (s2.collNow c) k fun q => { q with started := true, frames := n }
      let s3 := s2.setColl c1
      if n = 0 then completeStage s3 c1 k else s3

/-- A SEND stage reads a range on a stack whose lock is held (R273). -/
def sendLocked (s : State) (c : Coll) (st : Stage) : Bool :=
  c.use == .routine && st.op == 0 && hbmLocked s (c.buf + stageStart c st) (stageBytes st)

/-- COLL_STAGE_START (R430). -/
def execCollStageStart (coll : BitVec 8) (stage : BitVec 16) (s : State) : Out :=
  match s.coll coll.toNat with
  | none => disabled "COLL_STAGE_START"
  | some c =>
    let k := stage.toNat
    match c.stages[k]? with
    | none => disabled "COLL_STAGE_START"
    | some st =>
      if (c.prog.getD k {}).started ∨ ¬ mayStart c k st ∨ sendLocked s c st then disabled "COLL_STAGE_START"
      else if st.op = 0 then .next (drain (startSend s c k st))
      else .next (drain (s.setColl (updProg c k fun q => { q with started := true })))

/-- COLL_TIMEOUT (R443): the routine ends with COLL_TIMEOUT. What it leaves undefined is drawn when its TACK_CALL completes,
once the cycle of R444 is over. -/
def execCollTimeout (coll : BitVec 8) (s : State) : Out :=
  match s.coll coll.toNat with
  | none => disabled "COLL_TIMEOUT"
  | some c =>
    let s1 := s.atTime (c.timer + BitVec.ofNat 64 (s.fld .aflCtrl 0 0 8 12 * 1000000))
    let s2 := (s1.bump 8 1).countHold .aflCollCnt 0 0 48 16 1
    let s3 : State := { s2 with f := { s2.f with ended := s2.f.ended ++ [⟨c, s2.time⟩] } }
    .next (failColl s3 c 0x44 0xF)

/-- The local ranges of stages that a timeout left incomplete are undefined (R443). -/
def scrambleEnded (s : State) (die slot : Nat) (step : Word) : State :=
  s.f.ended.foldl (fun s x =>
    let c := x.coll
    if c.die = die ∧ c.slot = slot ∧ c.step = step ∧ c.use = .routine then
      (c.stages.zip c.prog).foldl (fun s y => if y.2.done then s else scramble s (c.buf + stageStart c y.1) (stageBytes y.1)) s
    else s) s

/-! Collective routines. -/

/-- The argument block of a collective (Table 11-13) has no non-zero reserved field and no reserved encoding (R429). -/
def collArgsClean (bs : Bytes) : Bool :=
  let w := fun i => wordAt bs (8 * i)
  field (w 0) 0 25 == 0 && (bit (w 0) 25 || field (w 0) 26 12 == 0) && field (w 1) 48 16 == 0 && field (w 1) 0 6 == 0
    && field (w 2) 56 8 == 0 && (List.range 5).all (fun i => w (3 + i) == 0)
    && [0, 1, 2, 3, 4, 7].contains (field (w 0) 42 4) && [0, 1, 2, 4].contains (field (w 0) 38 4)
    && (field (w 0) 42 4 != 0 || field (w 0) 38 4 == 4)

/-- A schedule may be run with these arguments (R429). A CFG_ROLE that differs from its complement is not used (R29; DESIGN CHOICE, log
entry 65). -/
def schedFits (s : State) (sc : Sched) (kind op bindCount : Nat) : Bool :=
  sc.kind == kind && rolesKnown s sc && regHeld s .cfgRole && s.role != 0xFFF
    && sc.stages.all fun st => decide (1 ≤ st.len)
      && (op != 4 || (st.op != 2 && (st.op != 3 || st.nocomb)))
      && (st.op != 3 || (bit (s.reg .updCtrl 0 0) 0 && decide (st.bind < bindCount)))

/-- Collectives that count toward the sixteen (R429, R588). -/
def userColls (s : State) : Nat := (s.f.colls.filter fun c : Coll => c.use == .routine).length

/-- A collective of a schedule, as it opens (R427, R428). -/
def newColl (s : State) (r : TackRun) (id sched : Nat) (sc : Sched) (use : CollUse) : Coll :=
  { id := id, sched := sched, step := r.step, stamp := s.reg .aflStamp 0 0, use := use, die := r.die, slot := r.slot, fmt := 0, op := 0,
    ctr := none, buf := 0, binds := [], parent := sc.parent, children := sc.children, stages := sc.stages,
    prog := sc.stages.map fun _ => {}, timer := s.time }

/-- STATUS of a routine that ends with COLL_ARGS_INVALID before a collective is open. -/
def argsStatus : Word := place 48 4 0xF ||| place 0 8 0x45

/-- Entries of a binding table: addresses and B_OFF; none where a reserved bit is set. -/
def bindTable (bs : Bytes) : Option (List (Nat × Nat)) :=
  let es := (List.range (bs.length / 16)).map fun i => (wordAt bs (16 * i), wordAt bs (16 * i + 8))
  if es.all fun e => field e.1 48 16 == 0 && field e.2 48 16 == 0 then some (es.map fun e => (field e.1 0 48, field e.2 0 48)) else none

/-- Open the collective of a routine with a checked argument block. -/
def openRoutine (s : State) (r : TackRun) (bs : Bytes) (sc : Sched) (binds : List (Nat × Nat)) : State :=
  let w0 := wordAt bs 0
  let id := field w0 46 8
  let c := { newColl s r id (field w0 54 10) sc .routine with
    fmt := field w0 42 4, op := field w0 38 4, ctr := if bit w0 25 then some (field w0 26 12) else none,
    buf := field (wordAt bs 8) 0 48, binds := binds }
  drain (openColl (setRun s r (.collective id)) c)

/-- A collective routine (R428, R429). A seventeenth call waits. -/
def collRoutine (row : String) (routine kind : Nat) (d : Fin 4) (s : State) : Out :=
  match startedRun s d.val routine with
  | none => disabled row
  | some r =>
    if 16 ≤ userColls s ∨ argsLocked s r 64 then disabled row
    else
      let refuse := fun (s : State) => Host.Outcome.next (endBad s r 0x45 argsStatus)
      if (inlineBad (runWords s r) 0).isSome then refuse s
      else match readArgs s r 64 with
        | none => refuse s
        | some (.error e, s1) => .next (endMem s1 r e)
        | some (.ok bs, s1) =>
          let w0 := wordAt bs 0
          let id := field w0 46 8
          let n := field (wordAt bs 16) 48 8
          match schedule s1 (field w0 54 10) with
          | none => refuse s1
          | some sc =>
            if ¬ collArgsClean bs ∨ field w0 54 10 < 2 ∨ 0xFE ≤ id ∨ (s1.coll id).isSome
                ∨ ¬ schedFits s1 sc kind (field w0 38 4) n then refuse (noteHeld s1 [.cfgRole])
            else if hbmLocked s1 (field (wordAt bs 16) 0 48) (16 * n) then disabled row
            else match memRead s1 .ddma {} (field (wordAt bs 16) 0 48) (16 * n) with
              | (.error e, s2) =>
                .next (endBad (noteErr s2 .ddma e) r (errFault e) (place 48 4 0xF ||| place 0 8 (errFault e)))
              | (.ok tab, s2) =>
                match bindTable tab with
                | none => refuse s2
                | some binds => .next (openRoutine s2 r bs sc binds)

/-- REDUCE_SCATTER (R428). -/
def execReduceScatter (d : Fin 4) (s : State) : Out := collRoutine "REDUCE_SCATTER" rtReduceScatter 0 d s

/-- ALL_GATHER (R428). -/
def execAllGather (d : Fin 4) (s : State) : Out := collRoutine "ALL_GATHER" rtAllGather 1 d s

/-- ALL_REDUCE (R428). -/
def execAllReduce (d : Fin 4) (s : State) : Out := collRoutine "ALL_REDUCE" rtAllReduce 2 d s

/-- BROADCAST (R428). -/
def execBroadcast (d : Fin 4) (s : State) : Out := collRoutine "BROADCAST" rtBroadcast 3 d s

/-! LOCAL_REDUCE (R437). -/

/-- The argument block is well formed. -/
def localArgsClean (bs : Bytes) : Bool :=
  let w := fun i => wordAt bs (8 * i)
  field (w 0) 46 18 == 0 && field (w 0) 0 26 == 0 && [1, 2, 3, 4, 7].contains (field (w 0) 42 4) && decide (field (w 0) 38 4 ≤ 2)
    && (List.range 4).all (fun i => field (w (1 + i)) 48 15 == 0) && field (w 5) 48 16 == 0 && field (w 6) 40 24 == 0 && w 7 == 0

/-- Read the sources that are present. -/
def readSources (n : Nat) : List Word → State → Except MemErr (List (Option Bytes)) × State
  | [], s => (.ok [], s)
  | w :: ws, s =>
    let here : Except MemErr (Option Bytes) × State := if bit w 63 then
        match memRead s .ddma {} (field w 0 48) n with
        | (.error e, s1) => (Except.error e, s1)
        | (.ok bs, s1) => (.ok (some bs), s1)
      else (.ok none, s)
    match here with
    | (.error e, s1) => (.error e, s1)
    | (.ok x, s1) =>
      match readSources n ws s1 with
      | (.error e, s2) => (.error e, s2)
      | (.ok xs, s2) => (.ok (x :: xs), s2)

/-- op of two operands that may be absent (R88). -/
def combineOpt (fmt op : Nat) (a b : Option Bytes) : Option Bytes :=
  match a, b with
  | some l, some r =>
    let w := elemBytes fmt
    some (bytesOf w (((codesOf w l).zip (codesOf w r)).map fun x => combineElem fmt op x.1 x.2))
  | some l, none => some l
  | none, r => r

/-- The areas that a LOCAL_REDUCE reads and writes (Table 11-13). -/
def localAreas (bs : Bytes) : List (Nat × Nat) :=
  let n := 64 * field (wordAt bs 48) 0 40
  (((List.range 4).map fun i => wordAt bs (8 + 8 * i)).filter (bit · 63)).map (fun w => (field w 0 48, n)) ++ [(field (wordAt bs 40) 0 48, n)]

/-- LOCAL_REDUCE (R437): DST = op(op(S0, S1), op(S2, S3)); its counter is signalled at its end. -/
def execLocalReduce (d : Fin 4) (s : State) : Out :=
  match startedRun s d.val rtLocalReduce with
  | none => disabled "LOCAL_REDUCE"
  | some r =>
    let refuse := fun (s : State) => Host.Outcome.next (endBad s r 0x45 argsStatus)
    if argsLocked s r 64 then disabled "LOCAL_REDUCE"
    else if (inlineBad (runWords s r) 0).isSome then refuse s
    else match readArgs s r 64 with
      | none => refuse s
      | some (.error e, s1) => .next (endMem s1 r e)
      | some (.ok bs, s1) =>
        if ¬ localArgsClean bs then refuse s1
        else if rangesLocked s1 (localAreas bs) then disabled "LOCAL_REDUCE"
        else
          let w0 := wordAt bs 0
          let fmt := field w0 42 4
          let op := field w0 38 4
          match readSources (64 * field (wordAt bs 48) 0 40) ((List.range 4).map fun i => wordAt bs (8 + 8 * i)) s1 with
          | (.error e, s2) => .next (endMem s2 r e)
          | (.ok xs, s2) =>
            let x := fun i => xs.getD i none
            let done := fun (s : State) => Host.Outcome.next (endGood (sendSignal s (some (field w0 26 12))) r 0)
            match combineOpt fmt op (combineOpt fmt op (x 0) (x 1)) (combineOpt fmt op (x 2) (x 3)) with
            | none => done s2
            | some v =>
              match tackWrite s2 {} (field (wordAt bs 40) 0 48) v with
              | (some e, s3) => .next (endMem s3 r e)
              | (none, s3) => done s3

end Sys2Proof.Machine
end

