-- ==== Sys2Proof/Machine/Flags.lean ====
section
/-! DEFINITION. Every flag computation: the rounding of an accumulator with its guard (R92, R93, R95), conversions with their
store flags (R63 to R66, Table 2-7), quantising stores (R53 to R55), the keyed draws of a stochastic store (R59 to R61) and
the exponent histogram (R68 to R75). Integers are taken as their exact values. -/

namespace Sys2Proof.Machine

/-! Store flags. -/

/-- STF as a completion record has it (Table 5-12): RSVD, NAN, OVF, SAT from bit 3 to bit 0. -/
def StoreFlags.bits (f : StoreFlags) : BitVec 4 :=
  BitVec.ofNat 4 ((if f.rsvd then 8 else 0) + (if f.nan then 4 else 0) + (if f.ovf then 2 else 0) + (if f.sat then 1 else 0))

/-! Accumulators. -/

/-- Accumulator formats (Table 3-3). -/
inductive AccFmt where
  | fp64 | fp32 | int32
  deriving DecidableEq, Repr

/-- FMT code of an accumulator format. -/
def AccFmt.code : AccFmt → Nat
  | .fp64 => 1 | .fp32 => 2 | .int32 => 7

/-- Byte width of an accumulator format. -/
def AccFmt.bytes : AccFmt → Nat
  | .fp64 => 8 | _ => 4

/-- A float format of an accumulator (INT32 is exact and has none). -/
def AccFmt.float : AccFmt → Fmt
  | .fp64 => .fp64 | _ => .fp32

/-- The value an accumulator code has. -/
def AccFmt.value (a : AccFmt) (code : Nat) : FV :=
  match a with
  | .int32 => FV.ofInt (signedOf 32 code)
  | _ => fdecode a.float code

/-- Which of an accumulator tile's flags an operation sets (R92, R93, R95). -/
structure AccFlags where
  ovf : Bool := false
  gsat : Bool := false
  isat : Bool := false
  deriving DecidableEq, Repr

def AccFlags.or (a b : AccFlags) : AccFlags := ⟨a.ovf || b.ovf, a.gsat || b.gsat, a.isat || b.isat⟩

/-- Round an exact float result into an accumulator format: overflow gives an infinity and OVF, or in a guarded tile the
largest finite value and GSAT (R92, R93). -/
def accRound (f : Fmt) (guard : Bool) (v : FV) : FV × AccFlags :=
  let (c, fl) := fconv f .rne v
  if fl.ovf then
    if guard then (fdecode f (signPlace f v.signBit + maxFiniteCode f), { gsat := true }) else (fdecode f c, { ovf := true })
  else (fdecode f c, {})

/-- Add an exact integer into an INT32 accumulator (R95). -/
def accInt (i : Int) : Int × AccFlags :=
  let (x, st) := satInt 32 i
  (x, { isat := st })

/-! Conversions. -/

/-- Convert a value to a direct FMT code (Table 2-7): the code and its flags. -/
def convertCode (fmt : Nat) (md : RMode) (v : FV) : Nat × StoreFlags :=
  if fmt = 7 then
    let (i, fl) := fconvInt 32 md v
    (intCode 32 i, fl)
  else if fmt = 8 then
    let (i, fl) := fconvInt 8 md v
    (intCode 8 i, fl)
  else match elemFmt fmt with
    | some f => fconv f md v
    | none => (0, {})

/-- The value of a direct element code (R40, R46). -/
def valueOf (fmt code : Nat) : FV :=
  if fmt = 7 then FV.ofInt (signedOf 32 code)
  else if fmt = 8 then FV.ofInt (signedOf 8 code)
  else match elemFmt fmt with
    | some f => fdecode f code
    | none => .zero

/-- The destination formats for which stochastic rounding may be selected (R59). -/
def stochAllowed (fmt : Nat) : Bool := (decide (3 ≤ fmt ∧ fmt ≤ 6)) || decide (8 ≤ fmt)

/-! Block-scaled formats (Table 2-5). -/

def isBlock (fmt : Nat) : Bool := decide (9 ≤ fmt)
/-- Narrow-class formats: 4-bit, 2-bit and ternary. -/
def isNarrow (fmt : Nat) : Bool := decide (12 ≤ fmt)

/-- Bits of one element code (Table 2-1). -/
def elemBits (fmt : Nat) : Nat :=
  if 14 ≤ fmt then 2 else if 12 ≤ fmt then 4 else if 9 ≤ fmt then 8 else 8 * elemBytes fmt

/-- Element i of a packed string (R48). -/
def packedCode (fmt : Nat) (bs : Bytes) (i : Nat) : Nat :=
  let w := elemBits fmt
  if 8 ≤ w then leNat ((bs.drop (w / 8 * i)).take (w / 8))
  else ((bs.getD (w * i / 8) 0).toNat >>> (w * i % 8)) % 2 ^ w

/-- Join codes of w < 8 bits into bytes, 8/w at a time (R48); `fuel` bounds the bytes. -/
def packGo (w : Nat) : Nat → List Nat → Bytes
  | 0, _ => []
  | _, [] => []
  | fuel + 1, cs =>
    let k := 8 / w
    BitVec.ofNat 8 ((cs.take k).zipIdx.foldl (fun a x => a + (x.1 % 2 ^ w) <<< (w * x.2)) 0) :: packGo w fuel (cs.drop k)

/-- Pack element codes (R48). -/
def packCodes (fmt : Nat) (cs : List Nat) : Bytes :=
  let w := elemBits fmt
  if 8 ≤ w then cs.flatMap (leBytes (w / 8)) else packGo w cs.length cs

/-- The value of an element code of any format, before block scales; the element scale is applied (R50, R46). -/
def elemValue (fmt code : Nat) : FV :=
  match fmt with
  | 9 => fdecode .e4m3 code
  | 10 => fdecode .e5m2 code
  | 11 => (FV.ofInt (signedOf 8 code)).scale2 (-6)
  | 12 => fdecode .e2m1 code
  | 13 => FV.ofInt (signedOf 4 code)
  | 14 => FV.ofInt (signedOf 2 code)
  | 15 => if code = 1 then .one else if code = 3 then FV.one.neg else .zero
  | _ => valueOf fmt code

/-- The value of a block-scaled element: element × 2^(X − 127) × s₂ in FP64 (R50); NaN where X is 0xFF. -/
def scaledValue (fmt code x s2 : Nat) : FV :=
  if x = 0xFF then .qnan
  else fvIn .fp64 (FV.mul ((elemValue fmt code).scale2 ((x : Int) - 127)) (fdecode .fp16 s2))

/-- FP16 one: s₂ of an operand without a second-level stream (R50, R127). -/
def s2One : Nat := 0x3C00

/-- Scale exponent of a block whose largest magnitude is m · 2^k, m > 0 (Table 2-6). -/
def scaleExp (fmt m : Nat) (k : Int) : Int :=
  let x := expOf m k
  match fmt with
  | 9 => x - 8
  | 10 => x - 15
  | 12 => x - 2
  | 13 => if FV.le (.fin false m k) (.fin false 7 (x - 2)) then x - 2 else x - 1
  | 14 => if m = 2 ^ Nat.log2 m then x else x + 1
  | _ => x

/-- Convert a quotient to an element code, saturating at the element range (R53 step 5, R54, R55). -/
def elemCode (fmt : Nat) (md : RMode) (v : FV) : Nat × StoreFlags :=
  let int := fun (n : Nat) (lo hi : Int) (k : Int) =>
    match v with
    | .fin s m e =>
      let i := roundInt md s m (e + k)
      if i < lo then (intCode n lo, ({ sat := true } : StoreFlags)) else if hi < i then (intCode n hi, { sat := true }) else (intCode n i, {})
    | _ => (0, {})
  match fmt with
  | 9 => fconv .e4m3 md v
  | 10 =>
    let (c, fl) := fconv .e5m2 md v
    if fl.ovf then (signPlace .e5m2 v.signBit + maxFiniteCode .e5m2, { sat := true }) else (c, fl)
  | 11 => int 8 (-128) 127 6
  | 12 => fconv .e2m1 md v
  | 13 => int 4 (-8) 7 0
  | 14 => int 2 (-2) 1 0
  | _ => int 2 (-1) 1 0

/-- The largest magnitude of some finite values (R53 step 2). -/
def maxAbs (vs : List FV) : FV := vs.foldl (fun a v => if FV.lt a v.abs then v.abs else a) .zero

/-- A quantising store of one block (R53): the scale byte, the element codes and the flags. `md` gives each element's
rounding; `s2` is the second-level scale in use, which leaves no finite block when it is zero, infinite or NaN (R144). -/
def quantBlock (fmt : Nat) (s2 : Option FV) (md : Nat → RMode) (xs : List FV) : Nat × List Nat × StoreFlags :=
  let ys := match s2 with
    | some d => xs.map fun x => fvIn .fp64 (FV.div x d)
    | none => xs
  let badScale := match s2 with
    | some d => d.isZero || !d.isFinite
    | none => false
  if badScale || ys.any (fun y => !y.isFinite) then (0xFF, xs.map fun _ => 0, { nan := true })
  else match maxAbs ys with
    | .fin _ m k =>
      if m = 0 then (0, xs.map fun _ => 0, {})
      else
        let e := max (-127) (min 127 (scaleExp fmt m k))
        let cs := ys.zipIdx.map fun x : FV × Nat => elemCode fmt (md x.2) (x.1.scale2 (-e))
        ((e + 127).toNat, cs.map Prod.fst, cs.foldl (fun (a : StoreFlags) c => a.or c.2) {})
    | _ => (0, xs.map fun _ => 0, {})

/-! Draws of a stochastic store. -/

/-- The rounding of the elements of a store: to nearest even, or stochastic with the draws of a stream (R59 to R61). -/
inductive StoreMode where
  | rne
  | stoch (seed : Word) (stream : Nat) (step : Word) (layer : Nat)
  deriving DecidableEq, Repr

/-- The rounding mode of the element with a linear index (R61). -/
def StoreMode.at (m : StoreMode) (element : Nat) : RMode :=
  match m with
  | .rne => .rne
  | .stoch seed stream step layer => .stoch (draw16 (draw64 seed stream step layer element))

/-- The store mode of a descriptor's EXEC word in a step (Table 5-4); the seed pair that disagrees, if it does (R357). -/
def storeModeOf (s : State) (ws : List Word) (step : Word) : Except (Word × Word) StoreMode :=
  if dStoreMode ws = 1 then
    match seedFor s (dStream ws) false with
    | .ok v => .ok (.stoch v (dStream ws) step (dLayer ws))
    | .error p => .error p
  else .ok .rne

/-- SEED_COMPLEMENT. -/
def ftSeed : Nat := 0x3E

/-! The exponent histogram. -/

/-- The bin of a value under base B and width W (R69, R70). -/
def histBin (base : Int) (w : Nat) (v : FV) : Nat :=
  match v with
  | .fin _ m e =>
    if m = 0 then 0
    else
      let x := expOf m e
      if x < base then 1
      else if base + (60 * 2 ^ w : Nat) ≤ x then 62
      else 2 + ((x - base).toNat / 2 ^ w)
  | _ => 63

/-- Count values into a bank; a bin holds at 2^32 − 1 (R75). -/
def histCount (base : Int) (w : Nat) (vs : List FV) (bank : List (Nat × Nat)) : List (Nat × Nat) :=
  vs.foldl (fun m v => let b := histBin base w v; sset 0 m b (min (2 ^ 32 - 1) (sget 0 m b + 1))) bank

end Sys2Proof.Machine
end

