-- ==== Sys2Proof/Machine/Saddle.lean ====
section
/-! DEFINITION. The saddles (03, 04): the MATMUL operand area (Table 5-8), its checks, stationary loads and the welt (R98,
R584), passes with the summation order (R84 to R89) and the narrow path (R123 to R129). -/

namespace Sys2Proof.Machine

def State.saddle (s : State) (n : Nat) : Saddle := sget {} s.sdl n
def State.setSaddle (s : State) (n : Nat) (x : Saddle) : State := { s with sdl := sset {} s.sdl n x }

/-! Accumulator tiles (R91). -/

/-- Format tag of a tile (Table 3-12). -/
def tileFmt (s : State) (n t : Nat) : AccFmt :=
  let w := s.reg .sdlStat n 0
  if bit w (24 + t) then .fp64 else if bit w (16 + t) then .int32 else .fp32

def setTag (s : State) (n t : Nat) (f : AccFmt) : State :=
  (s.setFld .sdlStat n 0 (24 + t) 1 (if f = .fp64 then 1 else 0)).setFld .sdlStat n 0 (16 + t) 1 (if f = .int32 then 1 else 0)

/-- Flag i of tile t in SDL_ACC_FLAGS: 0 OVF, 1 GSAT, 2 ISAT, 3 INVALID, 4 BUSY (Table 3-11). -/
def tileFlag (s : State) (n t i : Nat) : Bool := bit (s.reg .sdlAccFlags n 0) (8 * t + i)
def setTileFlag (s : State) (n t i : Nat) (b : Bool) : State :=
  s.setFld .sdlAccFlags n 0 (8 * t + i) 1 (if b then 1 else 0)

def tileSlot (s : State) (n t r c : Nat) : Nat := (sget 0 (s.saddle n).tiles (1024 * t + 32 * r + c)).toNat

/-- The value of a tile element in the tile's tagged format. -/
def tileValue (s : State) (n t r c : Nat) : FV := (tileFmt s n t).value (tileSlot s n t r c)

/-- A tile becomes invalid (R97). -/
def invalidate (s : State) (n : Nat) (ts : List Nat) : State :=
  ts.foldl (fun s t => setTileFlag (setTileFlag s n t 4 false) n t 3 true) s

/-- A tile's store flags (R66). -/
def addTileStf (s : State) (n t : Nat) (f : BitVec 4) : State :=
  let x := s.saddle n
  s.setSaddle n { x with stf := sset 0 x.stf t (sget 0 x.stf t ||| f) }

/-- Add an operation's accumulator flags to a tile. -/
def addAccFlags (s : State) (n t : Nat) (f : AccFlags) : State :=
  let s1 := if f.ovf then setTileFlag s n t 0 true else s
  let s2 := if f.gsat then setTileFlag s1 n t 1 true else s1
  if f.isat then setTileFlag s2 n t 2 true else s2

/-- Bits [63:32] of every slot of a tile read as zero (R91). -/
def lowSlots (t : Nat) (tiles : List (Nat × Word)) : List (Nat × Word) :=
  tiles.filterMap fun z : Nat × Word =>
    let w := if z.1 / 1024 = t then BitVec.setWidth 64 (BitVec.setWidth 32 z.2) else z.2
    if w = 0 then none else some (z.1, w)

/-- A tile takes a format: OVF, GSAT, ISAT and INVALID are cleared and the tag is set (R91, R96, R97, R113). -/
def freshTile (s : State) (n t : Nat) (f : AccFmt) : State :=
  let x := s.saddle n
  let s1 := if f = .fp64 then s else s.setSaddle n { x with tiles := lowSlots t x.tiles }
  setTag (s1.setFld .sdlAccFlags n 0 (8 * t) 4 0) n t f

/-- A new descriptor writes a tile: its store flags are cleared (R66); with INIT = ZERO, or an ordinary write, it takes a
format. -/
def openTile (s : State) (n t : Nat) (fresh : Option AccFmt) : State :=
  let x := s.saddle n
  let s1 := s.setSaddle n { x with stf := sset 0 x.stf t 0 }
  match fresh with
  | none => s1
  | some f => freshTile s1 n t f

/-! The operand area. -/

structure Mat where
  a : Operand
  b : Operand
  d : Operand
  aSc : Option Nat
  aS2 : Option Nat
  bSc : Option Nat
  bS2 : Option Nat
  dSc : Option Nat
  histDst : Option Nat
  fusedDst : Option Nat
  amaxDst : Option Nat
  aB0 : Nat
  bB0 : Nat
  qsA : Nat
  qsB : Nat
  qsD : Nat
  a0 : Nat
  m : Nat
  n : Nat
  k : Nat
  quad : Bool
  skived : Bool
  group : Nat
  accSel : Bool
  accum : Bool
  fused : Nat
  drain : Bool
  rescale : Nat
  dscale : Nat
  zpA : Int
  zpOut : Int
  srf : Nat
  colsum : Nat
  s2Out : Bool
  s2Base : Nat
  amax : Nat
  deriving DecidableEq, Repr

/-- The 4-byte field at a byte offset. -/
def dHalf (ws : List Word) (off : Nat) : Nat := dField ws (off / 8 * 8) (8 * (off % 8)) 32

/-- A bench-offset field (R169). -/
def benchOff (ws : List Word) (off : Nat) : Option Nat :=
  let v := dHalf ws off
  if v.testBit 31 then some (v % 2 ^ 22) else none

/-- A bench-offset field has no reserved bit, lies in the bench, and is zero when absent. -/
def benchOffFine (ws : List Word) (off : Nat) : Bool :=
  let v := dHalf ws off
  if v.testBit 31 then v / 2 ^ 22 % 2 ^ 9 == 0 && decide (v % 2 ^ 22 < benchSize) else v == 0

def matOf (ws : List Word) : Mat :=
  { a := dRef ws 40, b := dRef ws 48, d := dRef ws 56
    aSc := benchOff ws 64, aS2 := benchOff ws 68, bSc := benchOff ws 72, bS2 := benchOff ws 76
    aB0 := dHalf ws 80, bB0 := dHalf ws 84
    dSc := benchOff ws 88, histDst := benchOff ws 92, fusedDst := benchOff ws 96, amaxDst := benchOff ws 100
    qsD := dField ws 104 34 17, qsB := dField ws 104 17 17, qsA := dField ws 104 0 17
    a0 := dField ws 112 61 3, m := dField ws 112 52 9, n := dField ws 112 43 9, k := dField ws 112 22 21
    quad := bit (dWord ws 112) 21, skived := bit (dWord ws 112) 20, group := dField ws 112 18 2
    accSel := bit (dWord ws 112) 17, accum := bit (dWord ws 112) 16, fused := dField ws 112 14 2
    drain := bit (dWord ws 112) 13
    rescale := dField ws 120 62 2, dscale := dField ws 120 60 2
    zpA := signedOf 8 (dField ws 120 52 8), zpOut := signedOf 8 (dField ws 120 44 8)
    srf := dField ws 120 34 10, colsum := dField ws 120 24 10, s2Out := bit (dWord ws 120) 23
    s2Base := dField ws 120 13 10, amax := dField ws 120 11 2 }

/-- An operand of a saddle: bench inside the bench, or a tile 0 to 7. -/
def benchOrTile (o : Operand) : Bool :=
  o.fine && ((o.space == 2 && decide (o.addr < benchSize)) || (o.space == 3 && decide (o.addr < 8)))

/-- FMT of an accumulator tile destination (R171). -/
def accFmtOf : Nat → Option AccFmt
  | 1 => some .fp64 | 2 => some .fp32 | 7 => some .int32 | _ => none

/-- A MATMUL that R166 and R169 take. -/
def matGood (ws : List Word) : Bool :=
  let x := matOf ws
  let tile := fun (o : Operand) => o.space == 3
  ([64, 68, 72, 76, 88, 92, 96, 100].all (benchOffFine ws))
    && dField ws 104 51 13 == 0 && dField ws 112 0 13 == 0 && dField ws 120 0 11 == 0
    && dHist ws != 3 && decide (dStoreMode ws ≤ 1) && dField ws 32 56 4 == 0
    && x.group != 3 && x.rescale != 3 && x.dscale != 3 && x.amax != 3
    && benchOrTile x.a && benchOrTile x.b && x.a.fmt != 0 && x.b.fmt != 0
    && (if x.drain then benchOrTile x.d && x.d.fmt != 0 && (x.d.space != 3 || (accFmtOf x.d.fmt).isSome)
        else x.d.absent && x.d.fine)
    && x.aSc.isSome == isBlock x.a.fmt && x.bSc.isSome == isBlock x.b.fmt && x.dSc.isSome == isBlock x.d.fmt
    && (x.aS2.isNone || isBlock x.a.fmt) && (x.bS2.isNone || isBlock x.b.fmt)
    && (x.quad || (x.qsA == 0 && x.qsB == 0 && x.qsD == 0))
    && (!tile x.a || x.qsA == 0) && (!tile x.b || x.qsB == 0) && (!tile x.d || x.qsD == 0)
    && (x.drain || (x.fused == 0 && x.amax == 0)) && x.fusedDst.isSome == (x.fused != 0)
    && x.amaxDst.isSome == (x.amax != 0) && (!x.s2Out || isBlock x.d.fmt) && (x.histDst.isNone || dHist ws != 0)

/-! Shape (R78, R79, R81, R102, R107). -/

/-- The pair is of the narrow class (R119). -/
def Mat.narrow (x : Mat) : Bool := isNarrow x.a.fmt && isNarrow x.b.fmt

/-- Products per lane (Table 4-1). -/
def Mat.lane (x : Mat) : Nat := if x.narrow then (if 14 ≤ x.a.fmt ∧ 14 ≤ x.b.fmt then 8 else 4) else 1

/-- Rows and lanes of one engine: 32, or 16 in quadrant mode; also M_min. -/
def Mat.w (x : Mat) : Nat := if x.quad then 16 else 32
/-- Rows of a group, groups, and depth of a chunk. -/
def Mat.g (x : Mat) : Nat := 4 * 2 ^ x.group
def Mat.q (x : Mat) : Nat := x.w / x.g
def Mat.depth (x : Mat) : Nat := x.w * x.lane
def Mat.mt (x : Mat) : Nat := ceilDiv x.m x.w
def Mat.nt (x : Mat) : Nat := ceilDiv x.n x.w
def Mat.kc (x : Mat) : Nat := ceilDiv x.k x.depth
def Mat.passes (x : Mat) : Nat := x.kc * x.nt
/-- Lines of a pass in the native stream. -/
def Mat.mp (x : Mat) : Nat := max x.m x.w
def Mat.quads (x : Mat) : Nat := if x.quad then 4 else 1
/-- Output tiles, in the order of R79. -/
def Mat.outTiles (x : Mat) : List Nat := (List.range (x.mt * x.nt)).map (x.a0 + ·)
/-- Scale bytes of a group in a line of the streamed scale stream (R289). -/
def Mat.spg (x : Mat) : Nat := ceilDiv (x.g * x.lane) 32
/-- 32-element blocks in which the depths of a chunk lie (R584). -/
def Mat.blocks (x : Mat) : Nat := max 1 (x.depth / 32)
/-- Bytes of a line of A, of a stationary chunk, and of their scale streams. -/
def Mat.aLine (x : Mat) : Nat := x.depth * elemBits x.a.fmt / 8
def Mat.aScLine (x : Mat) : Nat := x.q * x.spg
def Mat.bChunk (x : Mat) : Nat := x.w * x.depth * elemBits x.b.fmt / 8
/-- Lines of A before a pass, and the lines that a pass reads (R102, R104). -/
def Mat.aFirst (x : Mat) (p : Nat) : Nat := p * if x.skived then x.m else x.mp
def Mat.aCount (x : Mat) : Nat := if x.skived then x.m else x.mp + x.q - 1
/-- Row and column of a tile where quadrant q's element (i, j) lies (R81). -/
def Mat.row (x : Mat) (q i : Nat) : Nat := if x.quad then 16 * (q / 2) + i else i
def Mat.col (x : Mat) (q j : Nat) : Nat := if x.quad then 16 * (q % 2) + j else j

/-- Accumulator format (Table 3-3, R90, R119); none where the pair has none. -/
def Mat.acc (x : Mat) : Option AccFmt :=
  if x.a.fmt = 7 ∨ x.b.fmt = 7 then none
  else if x.a.fmt = 8 ∧ x.b.fmt = 8 then (if x.accSel then none else some .int32)
  else if x.a.fmt ≤ 2 ∨ x.b.fmt ≤ 2 ∨ x.accSel then some .fp64
  else some .fp32

/-! Bench ranges (R168). -/

/-- A range of one bench: its first byte and its length. -/
abbrev Range := Nat × Nat

/-- A range in each quadrant, q strides of 32 bytes apart. -/
def quadRanges (quads stride base len : Nat) : List Range := (List.range quads).map fun q => (base + 32 * q * stride, len)

def optRanges (o : Option Nat) (f : Nat → List Range) : List Range :=
  match o with
  | some b => f b
  | none => []

/-- Bytes of one quadrant's output (R585, R144). -/
def Mat.dBytes (x : Mat) : Nat :=
  if isBlock x.d.fmt then x.m * x.nt * (32 * elemBits x.d.fmt / 8) else x.m * x.n * elemBytes x.d.fmt

def Mat.fusedBytes (x : Mat) (f : AccFmt) : Nat := x.m * f.bytes * if x.fused = 3 then 2 else 1
def Mat.amaxBytes (x : Mat) : Nat := if x.amax = 1 then 8 * x.nt * x.m else 8 * x.nt * x.mt

/-- Every bench range that a MATMUL reads or writes. -/
def matRanges (ws : List Word) : List Range :=
  let x := matOf ws
  let lines := if x.skived then x.passes * x.m else x.passes * x.mp + x.q - 1
  let sec := ceilDiv x.k 1024
  let acc := (x.acc).getD .fp64
  (if x.a.space = 2 then quadRanges x.quads x.qsA x.a.addr (lines * x.aLine) else [])
    ++ optRanges x.aSc (fun o => quadRanges x.quads x.qsA o (lines * x.aScLine))
    ++ optRanges x.aS2 (fun o => quadRanges x.quads x.qsA o (2 * x.m * sec))
    ++ (if x.b.space = 2 then quadRanges x.quads x.qsB x.b.addr (x.passes * x.bChunk) else [])
    ++ optRanges x.bSc (fun o => quadRanges x.quads x.qsB o (x.passes * x.blocks * x.w))
    ++ optRanges x.bS2 (fun o => quadRanges x.quads x.qsB o (2 * x.passes * x.w))
    ++ (if x.d.space = 2 then quadRanges x.quads x.qsD x.d.addr x.dBytes else [])
    ++ optRanges x.dSc (fun o => quadRanges x.quads x.qsD o (x.m * x.nt))
    ++ optRanges x.fusedDst (fun o => quadRanges x.quads x.qsD o (x.fusedBytes acc))
    ++ optRanges x.amaxDst (fun o => quadRanges x.quads x.qsD o x.amaxBytes)

/-- A range lies inside the bench. -/
def rangeFits (r : Range) : Bool := decide (r.1 + r.2 ≤ benchSize)

/-! Check 9 of Table 5-10. -/

/-- Last scale register file entries a drain reads (R140). -/
def srfLast (x : Mat) : List Nat :=
  let cols := x.quads * x.n
  (if x.dscale = 0 then [] else [x.srf + cols - 1]) ++ (if x.zpA = 0 then [] else [x.colsum + cols - 1])
    ++ (if x.s2Out then [x.s2Base + x.quads * x.mt * x.nt - 1] else [])

/-- The scale register file entries a descriptor reads: first and count. -/
def srfReads (x : Mat) : List Range :=
  let cols := x.quads * x.n
  (if x.dscale = 0 then [] else [(x.srf, cols)]) ++ (if x.zpA = 0 then [] else [(x.colsum, cols)])
    ++ (if x.s2Out then [(x.s2Base, x.quads * x.mt * x.nt)] else [])

/-- Tiles of the saddle that a descriptor names as operands. -/
def operandTiles (x : Mat) : List Nat :=
  (if x.a.space = 3 then [x.a.addr] else []) ++ (if x.b.space = 3 then [x.b.addr] else [])
    ++ (if x.d.space = 3 then [x.d.addr] else [])

/-- RI of RESCALE (Table 4-2). -/
def Mat.ri (x : Mat) : Nat := 32 * 2 ^ x.rescale

/-- R79, R583. -/
def shapeBad (x : Mat) : Bool :=
  x.m == 0 || x.n == 0 || x.k == 0 || decide (1048576 < x.k) || decide (8 < x.a0 + x.mt * x.nt)
    || (x.a.space == 3 && decide (x.w < x.m ∨ x.w < x.k)) || (x.b.space == 3 && decide (x.w < x.k ∨ x.w < x.n))
    || (x.d.space == 3 && decide (x.w < x.m ∨ x.w < x.n))

/-- The opcode's own issue checks (R79, R90, R114, R583, R106, R122, R59, R216, R284's range rule): the fault, if any, the
lowest code first (DESIGN CHOICE, log entry 25). -/
def matIssue (s : State) (n : Nat) (ws : List Word) : Option Nat :=
  let x := matOf ws
  let stoch := dStoreMode ws == 1
  if shapeBad x then some 0x10
  else match x.acc with
    | none => some 0x11
    | some acc =>
      if (operandTiles x).any fun t => x.outTiles.contains t then some 0x13
      else if x.skived ∧ x.narrow then some 0x15
      else if stoch ∧ (x.dscale = 2 ∨ ¬ stochAllowed x.d.fmt) ∧ x.drain then some 0x16
      else if x.narrow ∧ x.g * x.lane ≠ x.ri then some 0x18
      else if (x.dscale = 2 ∧ (acc ≠ .int32 ∨ x.d.fmt ≠ 8)) ∨ (x.dscale ≠ 0 ∧ ¬ x.drain) then some 0x19
      else if (x.zpA ≠ 0 ∧ (acc ≠ .int32 ∨ ¬ x.drain)) ∨ (x.zpOut ≠ 0 ∧ x.dscale ≠ 2) then some 0x1A
      else if (srfLast x).any fun e => decide (1023 < e) then some 0x1B
      else if ¬ (matRanges ws).all rangeFits then some 0x20
      else if bit (s.reg .sdlCtrl n 0) 8 then some 0x2A
      else none

/-! Runs. -/

/-- The MATMUL in flight of a run. -/
def matFlight (s : State) (n : Nat) (r : MatRun) : Option InFlight :=
  (s.stir n).flight.find? fun f : InFlight =>
    f.slot == r.slot && f.step == r.step && dOpcode f.words == 0x10 && f.phase == .executing

def sameMat (a b : MatRun) : Bool := a.slot == b.slot && a.step == b.step

def setRunOf (s : State) (n : Nat) (r : MatRun) : State :=
  let x := s.saddle n
  s.setSaddle n { x with runs := x.runs.map fun y : MatRun => if sameMat y r then r else y }

/-- The run as it stands now. -/
def runNow (s : State) (n : Nat) (r : MatRun) : Option MatRun := (s.saddle n).runs.find? fun y : MatRun => sameMat y r

def dropRunOf (s : State) (n : Nat) (r : MatRun) : State :=
  let x := s.saddle n
  s.setSaddle n { x with runs := x.runs.filter fun y : MatRun => !sameMat y r }

/-- The words of a run's descriptor. -/
def matWords (s : State) (n : Nat) (r : MatRun) : List Word :=
  match matFlight s n r with
  | some f => f.words
  | none => []

/-- Two codes of an accumulator format are a mismatch: their distance is above the tolerance (R150). -/
def mismatch (f : Fmt) (tol a b : Nat) : Bool :=
  let top := 2 ^ (expBits f + fracBits f)
  match fdecode f a, fdecode f b with
  | .fin _ _ _, .fin _ _ _ =>
    let d := if a / top = b / top then max (a % top) (b % top) - min (a % top) (b % top) else a % top + b % top
    decide (tol < d)
  | .nan _ _, .nan _ _ => false
  | .inf s, .inf t => s != t
  | _, _ => true

/-- The verdict on a selected group sum (R151): counted; a mismatch is counted, logged and reported. -/
def settleCheck (s : State) (n : Nat) (r : MatRun) (acc : AccFmt) (c : ShadowCheck) : Bool × State :=
  let s1 := s.countWrap .sdlShadowCnt n 0 0 40 1
  if mismatch acc.float (field r.narrow 12 4) c.narrow c.checked then
    (true, logEvent ((s1.bump 4 1).countWrap .sdlShadowCnt n 0 40 24 1) 0x0102 (srcSaddle n) (some (r.step, BitVec.ofNat 24 r.slot))
      (place 24 40 c.index ||| place 15 9 c.row ||| place 8 5 c.lane ||| place 0 4 c.group) (BitVec.ofNat 64 c.narrow)
      (BitVec.ofNat 64 c.checked))
  else (false, s1)

/-- The tiles that a run leaves invalid when it faults (R97): its output tiles, and a destination tile it has drained into. -/
def Mat.spoilt (x : Mat) (drained : Nat) : List Nat := x.outTiles ++ if x.d.space = 3 ∧ 0 < drained then [x.d.addr] else []

/-- A run ends in a fault (R97, R101); its tiles become invalid once its first pass has begun, or where `mark`
says so (R134, R136), and its histogram counts go with it (R71). Group sums already selected are still judged (R153). -/
def failMat (s : State) (n : Nat) (r : MatRun) (fault : Nat) (detail : Word) (mark : Bool) : State :=
  match matFlight s n r with
  | none => dropRunOf s n r
  | some f =>
    let x := matOf f.words
    let s1 := if mark || r.pass != 0 || r.groups != 0 then invalidate s n (x.spoilt r.drained) else s
    let s2 := r.checks.foldl (fun s c => (settleCheck s n r (x.acc.getD .fp64) c).2) s1
    endFlight (dropRunOf s2 n r) n f (some (fault, detail)) 0

/-- Store flags that an operation of a run sets: on the tile, and for the completion record (R66). -/
def addStf (s : State) (n : Nat) (r : MatRun) (t : Nat) (f : BitVec 4) : State :=
  let s1 := addTileStf s n t f
  match matFlight s1 n r with
  | some x => putFlight s1 n x { x with stf := x.stf ||| f }
  | none => s1

/-- A run has read reserved ternary codes, the first at a bench address (R47): logged once for the descriptor. -/
def noteReserved (s : State) (n : Nat) (r : MatRun) (addr : Nat) : State :=
  match runNow s n r with
  | none => s
  | some y =>
    if y.reserved then s
    else
      let s1 := logEvent s 0x0100 (srcSaddle n) (some (y.step, BitVec.ofNat 24 y.slot)) (place 60 4 2 ||| place 0 48 addr) 0 0
      setRunOf s1 n { y with reserved := true }

/-- Read a bench range that must hold its data: an empty range needs none. -/
def benchGet (s : State) (n : Nat) (r : Range) : Except BenchErr Bytes × State :=
  if r.2 = 0 then (.ok [], s) else benchRead s n r.1 r.2

/-- Read bench ranges one after another. -/
def benchGets (n : Nat) : List Range → State → Except BenchErr (List Bytes) × State
  | [], s => (.ok [], s)
  | r :: rest, s =>
    match benchGet s n r with
    | (.error e, s1) => (.error e, s1)
    | (.ok b, s1) =>
      match benchGets n rest s1 with
      | (.error e, s2) => (.error e, s2)
      | (.ok bs, s2) => (.ok (b :: bs), s2)

/-! The skew rule (R132 to R137). -/

/-- What an event gives for an operand that mismatched (Table 4-6): its element block count, and the tags of its element
stream and of the scale stream. -/
structure Tags where
  count : Nat
  data : Nat
  scale : Nat
  deriving DecidableEq, Repr

/-- A mismatch of A, of B or of both: the level of the scale stream (A's where both mismatch), and the tags. -/
structure Skew where
  second : Bool
  a : Option Tags
  b : Option Tags
  deriving DecidableEq, Repr

/-- How far a generator stands from the right count at block i of the descriptor. -/
def slipAt (ss : List Slip) (checker onB : Bool) (k : OperandStream) (i : Nat) : Int :=
  ss.foldl (fun (a : Int) (z : Slip) =>
    if z.checker = checker ∧ z.onB = onB ∧ z.stream = k ∧ z.block ≤ i then a + z.ahead else a) 0

/-- Compare the tags of block i of an operand, counted from its b₀ (R132, R133): the element tag with the first-level one;
the second-level one, where there is such a stream, at the first block consumed and where the block count is a multiple of
32. A mismatch: is it of the second level, and the tags. The first level comes first (R135). -/
def tagsAt (ss : List Slip) (checker onB second first : Bool) (b0 i : Nat) : Option (Bool × Tags) :=
  let count := fun k => ((b0 + i : Nat) : Int) + slipAt ss checker onB k i
  let e := count .element
  let tag := fun (v : Int) => (v % 256).toNat
  let n := (e % 4294967296).toNat
  if tag e ≠ tag (count .first) then some (false, ⟨n, tag e, tag (count .first)⟩)
  else if second ∧ (first ∨ e % 32 = 0) ∧ tag (e / 32) ≠ tag (count .second / 32) then
    some (true, ⟨n, tag e, tag (count .second / 32)⟩)
  else none

/-- Mismatches of A and B in one handshake cycle make one event (R135). -/
def joinSkew (a b : Option (Bool × Tags)) : Option Skew :=
  match a, b with
  | none, none => none
  | some x, y => some ⟨x.1, some x.2, y.map Prod.snd⟩
  | none, some y => some ⟨y.1, none, some y.2⟩

/-- SDL_SKEW_LAST (R137, Table 4-13): the tags of A where it mismatched, else those of B. -/
def captureSkew (s : State) (n : Nat) (k : Skew) : State :=
  if bit (s.reg .sdlSkewLast n 0) 31 then s
  else
    let z := (k.a.or k.b).getD ⟨0, 0, 0⟩
    s.setReg .sdlSkewLast n 0 (placeBit 31 true ||| placeBit 27 k.second ||| placeBit 26 k.b.isSome ||| placeBit 25 k.a.isSome
      ||| place 8 8 z.data ||| place 0 8 z.scale)

/-- P1 or P2 of a SCALE_SKEW event. -/
def tagsWord (o : Option Tags) : Word :=
  match o with
  | some z => place 32 32 z.count ||| place 8 8 z.data ||| place 0 8 z.scale
  | none => 0

/-- A skew stops a run (R134, R136). -/
def failSkew (s : State) (n : Nat) (r : MatRun) (k : Skew) : State :=
  let s1 := logEvent (captureSkew s n k) 0x0101 (srcSaddle n) (some (r.step, BitVec.ofNat 24 r.slot))
    (placeBit 2 k.second ||| placeBit 1 k.b.isSome ||| placeBit 0 k.a.isSome) (tagsWord k.a) (tagsWord k.b)
  failMat s1 n r 0x1D 0 true

/-- Blocks that a pass delivers (R132; DESIGN CHOICE, log entry 26): of A, those of its M rows; of B, those of its W lane
columns, K major. Filler rows and positions outside the shape within a counted block are part of their block. -/
def Mat.aBlocks (x : Mat) : Nat := x.m * x.blocks
def Mat.bBlocks (x : Mat) : Nat := x.blocks * x.w

/-- The line of a pass that brings the first code of block i of A, and the row of a chunk that brings that of block i of B. -/
def aBlockLine (x : Mat) (i : Nat) : Nat :=
  let j := 32 * (i % x.blocks) / (x.g * x.lane)
  if x.skived then i / x.blocks else i / x.blocks + j
def bBlockRow (x : Mat) (i : Nat) : Nat := 32 * (i / x.w) / x.lane

/-- The first mismatch of the streamed operand in a pass: its line. A run whose generators do not slip has none. The blocks of A
are numbered row by row, a row's blocks in increasing depth, also where a line of the native stream brings blocks of several
rows (DESIGN CHOICE, log entry 26: R132 counts the blocks delivered and does not order those of one line). -/
def streamSkew (x : Mat) (r : MatRun) : Option (Nat × Bool × Tags) :=
  if r.slips.isEmpty ∨ ¬ isBlock x.a.fmt then none
  else (List.range x.aBlocks).foldl (fun best i =>
    match tagsAt r.slips false false x.aS2.isSome (r.pass + i == 0) x.aB0 (r.pass * x.aBlocks + i), best with
    | none, _ => best
    | some z, none => some (aBlockLine x i, z)
    | some z, some b => if aBlockLine x i < b.1 then some (aBlockLine x i, z) else best) none

/-- The first mismatch of the stationary operand in the shadow load of pass p: its row. -/
def loadSkew (x : Mat) (r : MatRun) (p : Nat) : Option (Nat × Bool × Tags) :=
  if r.slips.isEmpty ∨ ¬ isBlock x.b.fmt then none
  else (List.range x.bBlocks).findSome? fun i =>
    (tagsAt r.slips false true x.bS2.isSome (p + i == 0) x.bB0 (p * x.bBlocks + i)).map fun z => (bBlockRow x i, z)

/-! Stationary loads (R98, R131, R584). -/

/-- The index of the lane (r, c) of quadrant q. -/
def laneIndex (x : Mat) (q r c : Nat) : Nat := 32 * x.row q r + x.col q c

/-- What one lane's register holds: the FP64 code of the expanded element, or the narrow codes with their E8M0 scale and
s₂ (R131). -/
def laneWord (x : Mat) (p r c : Nat) (chunk sc s2 : Bytes) : Word :=
  let n := x.lane
  let k0 := x.depth * (p % x.kc) + n * r
  let n0 := x.w * (p / x.kc) + c
  if x.k ≤ k0 ∨ x.n ≤ n0 then 0
  else
    let i := (r * x.w + c) * n
    let blk := k0 / 32 - x.depth * (p % x.kc) / 32
    let xb := if isBlock x.b.fmt then (sc.getD (blk * x.w + c) 0).toNat else 127
    let sb := if x.bS2.isSome then leNat ((s2.drop (2 * c)).take 2) else s2One
    if x.narrow then
      let codes := (List.range n).foldl (fun a j => a + (packedCode x.b.fmt chunk (i + j)) <<< (elemBits x.b.fmt * j)) 0
      place 0 16 codes ||| place 16 8 xb ||| place 24 16 sb
    else if isBlock x.b.fmt then BitVec.ofNat 64 (fround .fp64 (scaledValue x.b.fmt (packedCode x.b.fmt chunk i) xb sb))
    else BitVec.ofNat 64 (fround .fp64 (valueOf x.b.fmt (packedCode x.b.fmt chunk i)))

/-- The bench offset of the first reserved ternary code among the codes of a chunk that lie in the shape. -/
def reservedIn (x : Mat) (p base : Nat) (chunk : Bytes) : Option Nat :=
  if x.b.fmt ≠ 15 then none
  else
    let n := x.lane
    ((List.range (x.w * x.w * n)).find? fun i =>
      let r := i / n / x.w
      let c := i / n % x.w
      decide (x.depth * (p % x.kc) + n * r + i % n < x.k ∧ x.w * (p / x.kc) + c < x.n)
        && packedCode 15 chunk i == 2).map fun i => base + i / 4

/-- The chunk of one quadrant, its scale bytes and s₂ codes. -/
def chunkRanges (x : Mat) (p q : Nat) : List Range :=
  let o := 32 * q * x.qsB
  [ (if x.b.space = 2 then (x.b.addr + o + p * x.bChunk, x.bChunk) else (0, 0)),
    (match x.bSc with
      | some b => if isBlock x.b.fmt then (b + o + p * x.blocks * x.w, x.blocks * x.w) else (0, 0)
      | none => (0, 0)),
    (match x.bS2 with
      | some b => if isBlock x.b.fmt then (b + o + 2 * p * x.w, 2 * x.w) else (0, 0)
      | none => (0, 0)) ]

/-- Load the shadow registers of one quadrant for pass p (R98). -/
def loadQuad (s : State) (n : Nat) (x : Mat) (p q : Nat) (chunk sc s2 : Bytes) : State :=
  let y := s.saddle n
  let lanes := (List.range x.w).flatMap fun r => (List.range x.w).map fun c => (r, c)
  let sh := lanes.foldl (fun m l =>
    let w := if x.b.space = 3 then
        (if x.k ≤ l.1 ∨ x.n ≤ l.2 then 0 else BitVec.ofNat 64 (fround .fp64 (tileValue s n x.b.addr (x.row q l.1) (x.col q l.2))))
      else laneWord x p l.1 l.2 chunk sc s2
    sset 0 m (laneIndex x q l.1 l.2) w) y.shadow
  s.setSaddle n { y with shadow := sh }

/-- The chunk of a quadrant holds reserved codes, the first at an address (R47): the record takes STF_RSVD now, the tiles when
the chunk's pass begins. -/
def noteLoaded (s : State) (n : Nat) (r : MatRun) (addr : Nat) : State :=
  let s1 := match matFlight s n r with
    | some f => putFlight s n f { f with stf := f.stf ||| 8 }
    | none => s
  let s2 := noteReserved s1 n r addr
  match runNow s2 n r with
  | some y => setRunOf s2 n { y with loadedReserved := true }
  | none => s2

/-- Load the shadow registers of every quadrant from some quadrant on. -/
def loadQuads (n : Nat) (x : Mat) (r : MatRun) : List Nat → State → Except BenchErr Unit × State
  | [], s => (.ok (), s)
  | q :: qs, s =>
    match benchGets n (chunkRanges x r.pass q) s with
    | (.error e, s1) => (.error e, s1)
    | (.ok bs, s1) =>
      let chunk := bs.getD 0 []
      let s2 := loadQuad s1 n x r.pass q chunk (bs.getD 1 []) (bs.getD 2 [])
      let s3 := match reservedIn x r.pass (x.b.addr + 32 * q * x.qsB + r.pass * x.bChunk) chunk with
        | some a => noteLoaded s2 n r a
        | none => s2
      loadQuads n x r qs s3

/-- What row r of the chunk of pass p brings in a quadrant: its element line, the scales of a block that begins there, and
with the first row the second-level scales. -/
def loadRanges (x : Mat) (p r q : Nat) : List Range :=
  let o := 32 * q * x.qsB
  let w := x.bChunk / x.w
  [ (if x.b.space = 2 then (x.b.addr + o + p * x.bChunk + r * w, w) else (0, 0)),
    (match x.bSc with
      | some b => if isBlock x.b.fmt ∧ x.lane * r % 32 = 0 then (b + o + p * x.blocks * x.w + x.lane * r / 32 * x.w, x.w) else (0, 0)
      | none => (0, 0)),
    (match x.bS2 with
      | some b => if isBlock x.b.fmt ∧ r = 0 then (b + o + 2 * p * x.w, 2 * x.w) else (0, 0)
      | none => (0, 0)) ]

/-- The ranges of every quadrant. -/
def allQuads (x : Mat) (f : Nat → List Range) : List Range := (List.range x.quads).flatMap f

/-- A range that cannot be read. -/
def rangeBad (s : State) (n : Nat) (z : Range) : Bool := z.2 != 0 && (benchBad s n z.1 z.2).isSome

/-- The first row of the chunk of pass p that cannot be loaded. -/
def badLoadRow (s : State) (n : Nat) (x : Mat) (p : Nat) : Option Nat :=
  (List.range x.w).find? fun r => (allQuads x (loadRanges x p r)).any (rangeBad s n)

/-- A run ends at ranges one of which cannot be read. -/
def failRead (s : State) (n : Nat) (r : MatRun) (rs : List Range) (mark : Bool) : State :=
  match benchGets n rs s with
  | (.error e, s1) => failMat s1 n r (benchFault e) (benchDetail e) mark
  | (.ok _, s1) => s1

/-- Load the shadow registers for a run's next pass; a skew or a bench error ends the run, whichever row comes first. -/
def loadShadow (s : State) (n : Nat) (r : MatRun) : State :=
  let x := matOf (matWords s n r)
  match badLoadRow s n x r.pass, loadSkew x r r.pass with
  | some b, some k =>
    if b ≤ k.1 then failRead s n r (allQuads x (loadRanges x r.pass b)) false
    else match joinSkew none (some k.2) with
      | some k => failSkew s n r k
      | none => s
  | some b, none => failRead s n r (allQuads x (loadRanges x r.pass b)) false
  | none, some k =>
    match joinSkew none (some k.2) with
    | some k => failSkew s n r k
    | none => s
  | none, none =>
    match loadQuads n x r (List.range x.quads) s with
    | (.error e, s1) => failMat s1 n r (benchFault e) (benchDetail e) false
    | (.ok _, s1) => s1

/-! Sums. -/

/-- One node of the tree of R84 (R85, R88): round the sum, or the one input that is there. Integer nodes are exact. -/
def treeNode (acc : AccFmt) (guard : Bool) (a b : Option FV) : Option FV × AccFlags :=
  let rnd := fun v => if acc = .int32 then (some v, ({} : AccFlags)) else let r := accRound acc.float guard v; (some r.1, r.2)
  match a, b with
  | none, none => (none, {})
  | some x, none => rnd x
  | none, some y => rnd y
  | some x, some y => rnd (FV.add x y)

/-- One level of the tree. -/
def nodeLevel (acc : AccFmt) (guard : Bool) : List (Option FV) → List (Option FV) × AccFlags
  | x :: y :: rest =>
    let (v, f) := treeNode acc guard x y
    let (vs, fs) := nodeLevel acc guard rest
    (v :: vs, f.or fs)
  | xs => (xs, {})

/-- The group sum of G = 2^levels products (R84). -/
def groupTree (acc : AccFmt) (guard : Bool) : Nat → List (Option FV) → Option FV × AccFlags
  | 0, xs => (xs.headD none, {})
  | n + 1, xs =>
    let (ys, f) := nodeLevel acc guard xs
    let (v, g) := groupTree acc guard n ys
    (v, f.or g)

/-- A chain addition (R86, R92, R93, R95). -/
def chainAdd (acc : AccFmt) (guard : Bool) (cur : FV) (t : Option FV) : FV × AccFlags :=
  match t with
  | none => (cur, {})
  | some v =>
    match acc with
    | .int32 =>
      match FV.add cur v with
      | .fin s m e => let (i, f) := accInt (roundInt .rne s m e); (FV.ofInt i, f)
      | z => (z, {})
    | _ => accRound acc.float guard (FV.add cur v)

/-- The code of an accumulator value. -/
def accCode (acc : AccFmt) (v : FV) : Nat :=
  match acc, v with
  | .int32, .fin s m e => intCode 32 (roundInt .rne s m e)
  | .int32, _ => 0
  | _, v => fround acc.float v

/-- What one quadrant reads of the streamed operand for a pass. -/
structure Streamed where
  lines : Bytes
  scales : Bytes
  seconds : Bytes
  deriving DecidableEq, Repr

/-- The line of a pass that carries row m in group j. -/
def lineOf (x : Mat) (m j : Nat) : Nat := if x.skived then m else m + j

/-- Index, in codes from the pass's first line, of code i of position r of row m. -/
def aIndex (x : Mat) (m r i : Nat) : Nat := (lineOf x m (r / x.g) * x.w + r) * x.lane + i

/-- E8M0 byte for position r of row m in a pass with first depth k0 (R130, R289). -/
def aScale (x : Mat) (k0 m r : Nat) (st : Streamed) : Nat :=
  let j := r / x.g
  if isBlock x.a.fmt then
    (st.scales.getD (lineOf x m j * x.aScLine + j * x.spg + ((k0 + x.lane * r) / 32 - (k0 + x.lane * j * x.g) / 32)) 0).toNat
  else 127

/-- s₂ of row m at a depth (DEDUCED, log entry 26). -/
def aSecond (x : Mat) (m k : Nat) (st : Streamed) : Nat :=
  if x.aS2.isSome then leNat ((st.seconds.drop (2 * (m * ceilDiv x.k 1024 + k / 1024))).take 2) else s2One

/-- The expanded element of row m at position r (R56). -/
def aValue (s : State) (n : Nat) (x : Mat) (q k0 m r : Nat) (st : Streamed) : FV :=
  if x.a.space = 3 then tileValue s n x.a.addr (x.row q m) (x.col q r)
  else
    let code := packedCode x.a.fmt st.lines (aIndex x m r 0)
    if isBlock x.a.fmt then scaledValue x.a.fmt code (aScale x k0 m r st) (aSecond x m (k0 + r) st)
    else valueOf x.a.fmt code

/-- Products of group j of row m and column c; absent in inactive rows (R80). -/
def groupProducts (s : State) (n : Nat) (x : Mat) (q k0 m c j : Nat) (st : Streamed) : List (Option FV) :=
  (List.range x.g).map fun i =>
    let r := j * x.g + i
    if k0 + r < x.k then
      let b := fdecode .fp64 (sget 0 (s.saddle n).active (laneIndex x q r c)).toNat
      some (FV.mul (aValue s n x q k0 m r st) b)
    else none

/-! The narrow path. -/

/-- Code value and unit of a narrow element (Table 4-5): c, and u as a power of two. -/
def narrowCode (fmt code : Nat) : Int × Int :=
  match fmt with
  | 12 =>
    match (fdecode .e2m1 code).scale2 1 with
    | .fin s m e => (roundInt .rne s m e, -1)
    | _ => (0, -1)
  | 13 => (signedOf 4 code, 0)
  | 14 => (signedOf 2 code, 0)
  | _ => (if code = 1 then 1 else if code = 3 then -1 else 0, 0)

/-- One pair of narrow elements of a group: the depth, A's code, scale and s₂, and B's. -/
structure Pair where
  k : Nat
  ca : Nat
  xa : Nat
  sa : Nat
  cb : Nat
  xb : Nat
  sb : Nat
  deriving DecidableEq, Repr

/-- The pairs of a group that lie in the shape, in increasing k. -/
def groupPairs (s : State) (n : Nat) (x : Mat) (q k0 m c j : Nat) (st : Streamed) : List Pair :=
  (List.range (x.g * x.lane)).filterMap fun i =>
    let r := j * x.g + i / x.lane
    let k := k0 + x.lane * r + i % x.lane
    if k < x.k then
      let w := sget 0 (s.saddle n).active (laneIndex x q r c)
      some { k := k, ca := packedCode x.a.fmt st.lines (aIndex x m r (i % x.lane)), xa := aScale x k0 m r st, sa := aSecond x m k st
             cb := field w (elemBits x.b.fmt * (i % x.lane)) (elemBits x.b.fmt), xb := field w 16 8, sb := field w 24 16 }
    else none

/-- The exact sum of the block terms of a group (R125): each product with its units and block scales. -/
def exactTerms (fa fb : Nat) (ps : List Pair) : FV :=
  ps.foldl (fun (a : FV) p =>
    let ca := narrowCode fa p.ca
    let cb := narrowCode fb p.cb
    FV.add a ((FV.ofInt (ca.1 * cb.1)).scale2 (ca.2 + cb.2 + (p.xa : Int) + (p.xb : Int) - 254))) .zero

/-- The group value V (R126, R128, R129); absent where no row is active. A NaN s₂ keeps its sign and payload (R44). A zero V
has the sign that the multiplications give it: −0 where the sum is zero and one s₂ is negative (DESIGN CHOICE, log entry 26:
no rule gives the sign of such a V). -/
def narrowGroup (acc : AccFmt) (guard : Bool) (fa fb : Nat) (ps : List Pair) : Option FV × AccFlags :=
  match ps with
  | [] => (none, {})
  | p :: _ =>
    if ps.any (fun y => y.xa == 0xFF || y.xb == 0xFF) then (some .qnan, {})
    else
      let r := accRound acc.float guard (FV.mul (FV.mul (exactTerms fa fb ps) (fdecode .fp16 p.sa)) (fdecode .fp16 p.sb))
      (some r.1, r.2)

/-- The value the shadow checker forms (R149). -/
def checkedSum (acc : AccFmt) (fa fb total : Nat) (ps : List Pair) : Nat :=
  let prods := ps.map fun p => some (FV.mul (scaledValue fa p.ca p.xa p.sa) (scaledValue fb p.cb p.xb p.sb))
  let leaves := prods ++ List.replicate (total - prods.length) none
  fround acc.float (((groupTree .fp64 false (Nat.log2 total) leaves).1).getD .zero)

/-! Passes. -/

/-- What a pass has produced so far. -/
structure PassOut where
  tiles : List (Nat × Word)
  flags : List (Nat × AccFlags)
  sums : Nat
  checks : List ShadowCheck
  deriving DecidableEq, Repr

/-- A group sum is selected for the shadow check (R148). -/
def selected (narrow : Word) (i : Nat) : Bool :=
  bit narrow 8 && (i + field narrow 32 16) % 2 ^ field narrow 0 5 == 0

/-- A group whose line the pass no longer takes: nothing is formed, and a narrow one keeps its index (R148). -/
def skipGroup (x : Mat) (k0 : Nat) (cur : FV × AccFlags × Nat × List ShadowCheck) (j : Nat) : FV × AccFlags × Nat × List ShadowCheck :=
  if x.narrow ∧ k0 + j * x.g * x.lane < x.k then (cur.1, cur.2.1, cur.2.2.1 + 1, cur.2.2.2) else cur

/-- Group j of one cell: its sum joins the chain (R86); narrow sums are counted and may be selected. An absent group sum takes
no index (R148; DESIGN CHOICE, log entry 27). -/
def cellGroup (s : State) (n : Nat) (r : MatRun) (x : Mat) (acc : AccFmt) (guard : Bool) (q k0 m c : Nat) (st : Streamed)
    (cur : FV × AccFlags × Nat × List ShadowCheck) (j : Nat) : FV × AccFlags × Nat × List ShadowCheck :=
  let (v, fl, sums, checks) := cur
  if x.narrow then
    let ps := groupPairs s n x q k0 m c j st
    let (t, f) := narrowGroup acc guard x.a.fmt x.b.fmt ps
    let (v1, f1) := chainAdd acc guard v t
    match t with
    | none => (v1, fl.or (f.or f1), sums, checks)
    | some y =>
      let chk := if selected r.narrow sums then
          [{ index := sums, row := m, lane := x.col q c, group := (if x.quad then q / 2 * x.q else 0) + j
             narrow := fround acc.float y, checked := checkedSum acc x.a.fmt x.b.fmt (x.g * x.lane) ps
             blockA := r.pass * x.aBlocks + m * x.blocks + j * x.g * x.lane / 32
             blockB := r.pass * x.bBlocks + j * x.g * x.lane / 32 * x.w + c : ShadowCheck }]
        else []
      (v1, fl.or (f.or f1), sums + 1, checks ++ chk)
  else
    let (t, f) := groupTree acc guard (x.group + 2) (groupProducts s n x q k0 m c j st)
    let (v1, f1) := chainAdd acc guard v t
    (v1, fl.or (f.or f1), sums, checks)

/-- One cell of a pass: row m, column c of quadrant q, with the groups whose line is among the first `lines`. -/
def passCell (s : State) (n : Nat) (r : MatRun) (x : Mat) (acc : AccFmt) (lines : Nat) (sts : List Streamed) (o : PassOut)
    (q m c : Nat) : PassOut :=
  let k0 := x.depth * (r.pass % x.kc)
  let t := x.a0 + r.pass / x.kc * x.mt + m / x.w
  let key := 1024 * t + 32 * x.row q (m % x.w) + x.col q c
  let guard := r.guard.toNat.testBit t
  let start := acc.value (sget 0 o.tiles key).toNat
  let st := sts.getD q ⟨[], [], []⟩
  let (v, fl, sums, checks) := (List.range x.q).foldl (fun cur j =>
    if lineOf x m j < lines then cellGroup s n r x acc guard q k0 m c st cur j else skipGroup x k0 cur j) (start, {}, o.sums, o.checks)
  { tiles := sset 0 o.tiles key (BitVec.ofNat 64 (accCode acc v)), flags := (t, fl) :: o.flags, sums := sums, checks := checks }

/-- The cells of a pass in the order of R148: row, then lane column, then the quadrants of a column: the upper quadrant's groups
come before the lower one's (DESIGN CHOICE, log entry 27: the rule does not say how quadrants share the numbering). -/
def passCells (x : Mat) (nt : Nat) : List (Nat × Nat × Nat) :=
  let cols := if x.quad then (List.range 32).flatMap fun c => [(c / 16, c % 16), (2 + c / 16, c % 16)] else (List.range 32).map fun c => (0, c)
  (List.range x.m).flatMap fun m => (cols.filter fun qc => decide (x.w * nt + qc.2 < x.n)).map fun qc => (m, qc.1, qc.2)

/-- What quadrant q streams in k lines of pass p from line t on: element lines, first-level scales, and the second-level
scales of the rows that begin there. -/
def streamRanges (x : Mat) (p t k q : Nat) : List Range :=
  let o := 32 * q * x.qsA
  let sec := 2 * ceilDiv x.k 1024
  [ (if x.a.space = 2 then (x.a.addr + o + (x.aFirst p + t) * x.aLine, k * x.aLine) else (0, 0)),
    (match x.aSc with
      | some b => if isBlock x.a.fmt then (b + o + (x.aFirst p + t) * x.aScLine, k * x.aScLine) else (0, 0)
      | none => (0, 0)),
    (match x.aS2 with
      | some b => if isBlock x.a.fmt then (b + o + min t x.m * sec, (min (t + k) x.m - min t x.m) * sec) else (0, 0)
      | none => (0, 0)) ]

/-- The first line of a pass that cannot be read. -/
def badStreamLine (s : State) (n : Nat) (x : Mat) (p : Nat) : Option Nat :=
  (List.range x.aCount).find? fun t => (allQuads x (streamRanges x p t 1)).any (rangeBad s n)

/-- Read k lines of a pass from line t on, quadrant by quadrant. -/
def readStreams (n : Nat) (x : Mat) (p t k : Nat) : List Nat → State → Except BenchErr (List Streamed) × State
  | [], s => (.ok [], s)
  | q :: qs, s =>
    match benchGets n (streamRanges x p t k q) s with
    | (.error e, s1) => (.error e, s1)
    | (.ok bs, s1) =>
      match readStreams n x p t k qs s1 with
      | (.error e, s2) => (.error e, s2)
      | (.ok rest, s2) => (.ok (⟨bs.getD 0 [], bs.getD 1 [], bs.getD 2 []⟩ :: rest), s2)

/-- The reserved ternary codes in the first lines of a pass: the rows they lie in, and the bench offset of the first, by
quadrant, then row, then depth (DESIGN CHOICE, log entry 26: R47 does not say in which order elements are counted). -/
def reservedStreamed (x : Mat) (p lines : Nat) (sts : List Streamed) : List Nat × Option Nat :=
  if x.a.fmt ≠ 15 then ([], none)
  else
    let k0 := x.depth * (p % x.kc)
    let all := (List.range x.quads).flatMap fun q => (List.range x.m).flatMap fun m =>
      (List.range x.depth).map fun i => (q, m, i)
    let bad := all.filter fun z : Nat × Nat × Nat =>
      decide (k0 + z.2.2 < x.k ∧ lineOf x z.2.1 (z.2.2 / x.lane / x.g) < lines)
        && packedCode 15 (sts.getD z.1 ⟨[], [], []⟩).lines (aIndex x z.2.1 (z.2.2 / x.lane) (z.2.2 % x.lane)) == 2
    (bad.map fun z => z.2.1, bad.head?.map fun z =>
      x.a.addr + 32 * z.1 * x.qsA + x.aFirst p * x.aLine + aIndex x z.2.1 (z.2.2 / x.lane) (z.2.2 % x.lane) / 4)

/-- The tiles of the column chunk of a pass. -/
def passTiles (x : Mat) (p : Nat) : List Nat := (List.range x.mt).map fun i => x.a0 + p / x.kc * x.mt + i

/-- Set store flags on tiles and for the record of a run. -/
def addStfs (s : State) (n : Nat) (r : MatRun) (ts : List Nat) (f : BitVec 4) : State := ts.foldl (fun s t => addStf s n r t f) s

/-- A run's first pass into a column chunk begins (R87, R91, R115): tiles are BUSY, and start from zero with INIT = ZERO. -/
def beginTiles (s : State) (n : Nat) (x : Mat) (acc : AccFmt) (p : Nat) : State :=
  if p % x.kc ≠ 0 then s
  else
    let ts := passTiles x p
    let s1 := ts.foldl (fun s t => setTileFlag (openTile s n t (if x.accum then none else some acc)) n t 4 true) s
    if x.accum then s1
    else
      let y := s1.saddle n
      let tiles := (passCells x (p / x.kc)).foldl (fun m z =>
        sset 0 m (1024 * (x.a0 + p / x.kc * x.mt + z.1 / x.w) + 32 * x.row z.2.1 (z.1 % x.w) + x.col z.2.1 z.2.2) 0) y.tiles
      s1.setSaddle n { y with tiles := tiles }

/-- The tiles whose column chunk's reserved codes were loaded take STF_RSVD as a pass begins (R47). -/
def markLoaded (s : State) (n : Nat) (r : MatRun) (x : Mat) : State :=
  match runNow s n r with
  | some y => if y.loadedReserved then setRunOf (addStfs s n y (passTiles x y.pass) 8) n { y with loadedReserved := false } else s
  | none => s

/-- Sums that a pass has formed go into its tiles, with their flags and selected checks. -/
def writeSums (s : State) (n : Nat) (r : MatRun) (o : PassOut) : State :=
  let y := s.saddle n
  let s1 := s.setSaddle n { y with tiles := o.tiles }
  let s2 := o.flags.foldl (fun s f => if f.2 = {} then s else addAccFlags s n f.1 f.2) s1
  setRunOf s2 n { r with sums := o.sums, checks := o.checks }

/-- A pass has streamed its rows: it is counted, and the last pass of a column chunk leaves its tiles (R115, Tables 3-12 and
3-13). -/
def endPass (s : State) (n : Nat) (r : MatRun) (x : Mat) : State :=
  let s1 := if r.pass % x.kc = x.kc - 1 then (passTiles x r.pass).foldl (fun s t => setTileFlag s n t 4 false) s else s
  let s2 := (s1.countWrap .sdlStat n 0 32 32 1).countWrap .sdlShadowStall n 0 0 64 (x.mp - x.m)
  match runNow s2 n r with
  | some y => setRunOf s2 n { y with pass := r.pass + 1, groups := 0 }
  | none => s2

/-- How the lines of a pass end: all are taken; a line of it, or a row loaded meanwhile, cannot be read (R101); or a skew stops
them (R134). -/
inductive PassEnd where
  | all
  | unread (rs : List Range)
  | skew (k : Skew)
  deriving DecidableEq, Repr

/-- Mismatches of the two operands, each with its line, out of `far` lines: the earlier one ends them, or both in one line. -/
def skewEnd (far : Nat) (sa sb : Option (Nat × Bool × Tags)) : Nat × PassEnd :=
  let la := (sa.map Prod.fst).getD far
  let lb := (sb.map Prod.fst).getD far
  let l := min la lb
  if far ≤ l then (far, .all)
  else match joinSkew (if la = l then sa.map Prod.snd else none) (if lb = l then sb.map Prod.snd else none) with
    | some k => (l, .skew k)
    | none => (far, .all)

/-- The lines of a pass that are taken, and why no more. Row r of the next chunk is loaded in the cycle of line Q + r (R98,
Table 3-4; DEDUCED, log entry 26): a mismatch or a read error there stops the lines too, and a mismatch in one cycle with one
of A makes one event. A line or row that cannot be read delivers no tags. -/
def passEnd (s : State) (n : Nat) (r : MatRun) (x : Mat) : Nat × PassEnd :=
  let next := decide (r.pass + 1 < x.passes)
  let sb := if next then (loadSkew x r (r.pass + 1)).map fun z => (x.q + z.1, z.2) else none
  let e := skewEnd x.aCount (streamSkew x r) sb
  let ea := match badStreamLine s n x r.pass with
    | some b => if b ≤ e.1 then (b, .unread (allQuads x (streamRanges x r.pass b 1))) else e
    | none => e
  match if next then badLoadRow s n x (r.pass + 1) else none with
  | some b => if x.q + b < min ea.1 x.aCount ∨ (x.q + b = ea.1 ∧ ea.1 = e.1 ∧ ea.1 < x.aCount) then
      (x.q + b, .unread (allQuads x (loadRanges x (r.pass + 1) b))) else ea
  | none => ea

/-- Stream the rows of a pass against the active registers (R77, R78). Where the lines stop early, what was taken is summed
and the run ends (R101, R134). -/
def runPass (s : State) (n : Nat) (r : MatRun) : State :=
  let x := matOf (matWords s n r)
  let (lines, why) := passEnd s n r x
  match readStreams n x r.pass 0 lines (List.range x.quads) s with
  | (.error e, s1) => failMat s1 n r (benchFault e) (benchDetail e) true
  | (.ok sts, s1) =>
    let acc := x.acc.getD .fp64
    let o := (passCells x (r.pass / x.kc)).foldl (fun o z => passCell s1 n r x acc lines sts o z.2.1 z.1 z.2.2)
      ⟨(s1.saddle n).tiles, [], r.sums, r.checks⟩
    let (rows, first) := reservedStreamed x r.pass lines sts
    let s2 := addStfs (writeSums s1 n r o) n r ((rows.map fun m => x.a0 + r.pass / x.kc * x.mt + m / x.w).eraseDups) 8
    let s3 := match first with
      | some a => noteReserved s2 n r a
      | none => s2
    let r3 := (runNow s3 n r).getD r
    match why with
    | .all => endPass s3 n r3 x
    | .skew k => failSkew s3 n r3 k
    | .unread rs => failRead s3 n r3 rs true

end Sys2Proof.Machine
end

