-- ==== Sys2Proof/Machine/Vector.lean ====
section
/-! DEFINITION. Vector units (06, R333, R334): registers, the instruction word with its checks (R224, R225), what each
opcode does in one lane (R226 to R228), groups of lanes (R233, R234), and the draws of R235. -/

namespace Sys2Proof.Machine

/-! Units. -/

def unitIndex : VecUnit → Nat
  | .saddle n => n.val
  | .burnisher n => 300 + n.val
  | .girth p => 332 + p.val

/-- Lanes (R215, Table 9-1). -/
def unitLanes : VecUnit → Nat
  | .burnisher _ => 256
  | _ => 1024

def unitUpdate : VecUnit → Bool
  | .saddle _ => false
  | _ => true

def State.vecOf (s : State) (u : VecUnit) : Vec := sget {} s.vec (unitIndex u)
def State.setVec (s : State) (u : VecUnit) (x : Vec) : State := { s with vec := sset {} s.vec (unitIndex u) x }

/-- RF_OVERLAY of a saddle (R216). -/
def overlaid (s : State) : VecUnit → Bool
  | .saddle n => bit (s.reg .sdlCtrl n.val 0) 8
  | _ => false

/-! Lane lists. -/

/-- n lanes of a sparse store from lane i on. -/
def dense {α : Type} (d : α) : Nat → Nat → List (Nat × α) → List α
  | 0, _, _ => []
  | n + 1, i, [] => d :: dense d n (i + 1) []
  | n + 1, i, (k, x) :: m => if k = i then x :: dense d n (i + 1) m else d :: dense d n (i + 1) ((k, x) :: m)

/-- The sparse store of some lanes from lane i on. -/
def sparse {α : Type} [DecidableEq α] (d : α) : Nat → List α → List (Nat × α)
  | _, [] => []
  | i, x :: xs => if x = d then sparse d (i + 1) xs else (i, x) :: sparse d (i + 1) xs

/-- Take the new value in the active lanes, the old one elsewhere (R229). -/
def mergeLanes {α : Type} : List Bool → List α → List α → List α
  | a :: as, n :: ns, o :: os => (if a then n else o) :: mergeLanes as ns os
  | _, _, _ => []

def vreg (u : VecUnit) (x : Vec) (r : Nat) : List Word := dense 0 (unitLanes u) 0 (sget [] x.v r)

def setVreg (x : Vec) (r : Nat) (ws : List Word) : Vec := { x with v := sset [] x.v r (sparse 0 0 ws) }

/-- A predicate register; p0 is all ones (R217). -/
def preg (u : VecUnit) (x : Vec) (r : Nat) : List Bool :=
  if r = 0 then List.replicate (unitLanes u) true else dense false (unitLanes u) 0 (sget [] x.p r)

def setPreg (x : Vec) (r : Nat) (bs : List Bool) : Vec := { x with p := sset [] x.p r (sparse false 0 bs) }

def sreg (x : Vec) (r : Nat) : Word := sget 0 x.sr r
def setSreg (x : Vec) (r : Nat) (w : Word) : Vec := { x with sr := sset 0 x.sr r w }
def areg (x : Vec) (r : Nat) : Int := (sget 0 x.ar r).toInt
def setAreg (x : Vec) (r : Nat) (i : Int) : Vec := { x with ar := sset 0 x.ar r (BitVec.ofInt 64 i) }

/-! The instruction word (Table 6-4). -/

structure VInstr where
  op : Nat
  pred : Nat
  pneg : Bool
  ty : Nat
  vd : Nat
  va : Nat
  vb : Nat
  vc : Nat
  imm : Nat
  deriving DecidableEq, Repr

def vinstrOf (w : Word) : VInstr :=
  ⟨field w 56 8, field w 53 3, bit w 52, field w 49 3, field w 43 6, field w 37 6, field w 31 6, field w 25 6, field w 0 25⟩

/-- Fields of IMM of a memory opcode. -/
def VInstr.areg (i : VInstr) : Nat := i.imm / 2 ^ 22 % 8
def VInstr.smode (i : VInstr) : Bool := i.imm.testBit 21
def VInstr.sreg (i : VInstr) : Nat := i.imm / 2 ^ 17 % 16
def VInstr.mfmt (i : VInstr) : Nat := i.imm / 2 ^ 13 % 16
def VInstr.offset (i : VInstr) : Int := signedOf 13 i.imm
def VInstr.space (i : VInstr) : Nat := i.vc % 4

/-- The vector–scalar form of opcodes 0x10 to 0x1A (R225). -/
def VInstr.scalar (i : VInstr) : Bool := decide (0x90 ≤ i.op ∧ i.op ≤ 0x9A)
/-- The opcode without the form bit. -/
def VInstr.base (i : VInstr) : Nat := if i.scalar then i.op - 0x80 else i.op

/-- A type is a float type. -/
def floatType (ty : Nat) : Option Fmt :=
  match ty with
  | 0 => some .fp64
  | 1 => some .fp32
  | _ => none

def typeBits (ty : Nat) : Nat := if ty % 2 = 0 then 64 else 32

/-- A code of a type in a register (R226): the low bits. -/
def laneCode (ty : Nat) (w : Word) : Nat := w.toNat % 2 ^ typeBits ty

/-! Legality (R225). -/

/-- What an operand field may name. -/
inductive Slot where
  | none | vreg | sreg | areg | pread | pwrite | space
  deriving DecidableEq, Repr

/-- Operand fields, types and immediate of an opcode: VD, VA, VB, VC, types accepted (none: TYPE is unused), whether PRED is
used, and the immediates it takes. -/
structure VForm where
  vd : Slot
  va : Slot
  vb : Slot
  vc : Slot
  types : List Nat
  pred : Bool
  imm : Nat → Bool

def allTypes : List Nat := [0, 1, 2, 3]
def floatTypes : List Nat := [0, 1]
def intTypes : List Nat := [2, 3]
def zeroImm (n : Nat) : Bool := n == 0

/-- Table 6-5. `upd`: in an update kernel, whose groups hold at most 32 lanes (Table 9-2). PRED and PNEG are unused fields of the
opcodes that have no lanes (SLD, VEXT, SADD, SMUL, AADD, STRIP, REP): DESIGN CHOICE, log entry 49. -/
def vform (upd : Bool) (op : Nat) : Option VForm :=
  let grp : Nat → Bool := fun n => decide (n ≤ if upd then 5 else 10)
  if op = 0x01 then some ⟨.vreg, .none, .none, .space, allTypes, true, fun _ => true⟩
  else if op = 0x02 then some ⟨.none, .vreg, .none, .space, allTypes, true, fun _ => true⟩
  else if op = 0x03 then some ⟨.sreg, .none, .none, .space, allTypes, false, fun n => n / 2 ^ 17 % 32 == 0⟩
  else if op = 0x04 then some ⟨.vreg, .none, .none, .none, intTypes, true, zeroImm⟩
  else if op = 0x05 then some ⟨.vreg, .sreg, .none, .none, allTypes, true, zeroImm⟩
  else if op = 0x06 then some ⟨.sreg, .vreg, .none, .none, allTypes, false, fun n => decide (n < 1024)⟩
  else if op = 0x07 ∨ op = 0x08 then some ⟨.sreg, .sreg, .sreg, .none, allTypes, false, zeroImm⟩
  else if op = 0x09 then some ⟨.areg, .none, .none, .none, [], false, fun _ => true⟩
  else if op = 0x0A then some ⟨.sreg, .none, .none, .none, [2], false, zeroImm⟩
  else if op = 0x10 ∨ op = 0x11 ∨ op = 0x12 ∨ op = 0x19 ∨ op = 0x1A then some ⟨.vreg, .vreg, .vreg, .none, allTypes, true, zeroImm⟩
  else if op = 0x13 then some ⟨.vreg, .vreg, .vreg, .vreg, allTypes, true, zeroImm⟩
  else if op = 0x14 then some ⟨.vreg, .vreg, .vreg, .none, floatTypes, true, zeroImm⟩
  else if 0x15 ≤ op ∧ op ≤ 0x18 then some ⟨.vreg, .vreg, .none, .none, floatTypes, true, zeroImm⟩
  else if op = 0x1B ∨ op = 0x1C then some ⟨.vreg, .vreg, .none, .none, allTypes, true, zeroImm⟩
  else if op = 0x1D then some ⟨.vreg, .vreg, .none, .none, allTypes, true, fun n => decide (n < 4)⟩
  else if op = 0x1E then some ⟨.vreg, .vreg, .none, .none, floatTypes, true, zeroImm⟩
  else if 0x20 ≤ op ∧ op ≤ 0x27 then some ⟨.vreg, .vreg, .vreg, .none, intTypes, true, zeroImm⟩
  else if op = 0x30 then some ⟨.pwrite, .vreg, .vreg, .none, allTypes, true, fun n => decide (n < 5)⟩
  else if op = 0x31 then some ⟨.vreg, .vreg, .vreg, .none, allTypes, true, fun n => decide (n < 8)⟩
  else if op = 0x32 ∨ op = 0x33 then some ⟨.pwrite, .pread, .pread, .none, [], true, zeroImm⟩
  else if op = 0x34 then some ⟨.pwrite, .pread, .none, .none, [], true, zeroImm⟩
  else if 0x38 ≤ op ∧ op ≤ 0x3A then some ⟨.vreg, .vreg, .none, .none, allTypes, true, grp⟩
  else if op = 0x3B then some ⟨.vreg, .vreg, .vreg, .vreg, allTypes, true, grp⟩
  else if op = 0x3C then some ⟨.vreg, .none, .none, .none, intTypes, true, fun n => decide (n < 256)⟩
  else if op = 0x3E then some ⟨.none, .none, .none, .none, [], false, fun _ => true⟩
  else none

/-- A field names what its slot allows; vector registers are v0 to v31 on an update unit. -/
def slotFine (upd : Bool) (k : Slot) (v : Nat) : Bool :=
  match k with
  | .none => v == 0
  | .vreg => !upd || decide (v < 32)
  | .sreg => decide (v < 16)
  | .areg | .pread => decide (v < 8)
  | .pwrite => decide (1 ≤ v ∧ v < if upd then 7 else 8)
  | .space => decide (v < 3)

/-- The element formats that a load or store pairs with a type (R231). -/
def pairFine (store : Bool) (ty mfmt : Nat) : Bool :=
  if ty < 2 then decide (1 ≤ mfmt ∧ mfmt ≤ if store then 8 else 6)
  else if store ∧ ty = 3 then decide (1 ≤ mfmt ∧ mfmt ≤ 8)
  else mfmt == 7 || mfmt == 8

/-- A memory opcode names what its space allows (R230, R231, Table 9-2). `body`: the instruction stands in the body. -/
def memoryFine (x : Vec) (upd body : Bool) (i : VInstr) : Bool :=
  let plain := !i.smode && i.sreg == 0 && i.offset == 0
  pairFine (i.base == 2) i.ty i.mfmt
    && (if i.space = 2 then i.base == 3 && i.areg == 0
        else if upd then
          body && plain && i.base != 3
            && (if i.space = 0 then sget 0 (x.ctx.formats.zipIdx.map fun z => (z.2, z.1)) i.areg == i.mfmt && decide (i.areg < 6)
                else i.base == 1 && i.areg == 0 && i.mfmt == x.ctx.gradFmt)
        else if i.space = 1 then i.base != 3 && (i.smode || i.sreg == 0)
        else i.smode || i.sreg == 0)

/-- A tile access of a saddle's unit with a non-zero SMODE or OFFSET, or a store in a format that no tile has (R230). -/
def tileMisuse (upd : Bool) (i : VInstr) : Bool :=
  !upd && decide (i.base = 1 ∨ i.base = 2) && i.space == 1
    && (i.smode || i.offset != 0 || (i.base == 2 && !(([1, 2, 7] : List Nat).contains i.mfmt)))

/-- The fault of an instruction before it has any effect (R216, R225, R230, R235, Table 9-2), if it has one. -/
def illegal (s : State) (u : VecUnit) (x : Vec) (i : VInstr) : Option Nat :=
  let upd := unitUpdate u
  let body := x.sect == 1
  match vform upd i.base with
  | none => some 0x29
  | some k =>
    let kb := if i.scalar ∧ k.vb = .vreg then Slot.sreg else k.vb
    let typed := if k.types.isEmpty then i.ty == 0 else k.types.contains i.ty
    let regs := slotFine upd k.vd i.vd && slotFine upd k.va i.va && slotFine upd kb i.vb && slotFine upd k.vc i.vc
    let high := fun (t : Slot) (v : Nat) => t == .vreg && decide (32 ≤ v)
    let draws := i.base == 0x3C || (i.base == 2 && x.ctx.mode == 1)
    let ruled := upd && ([0x06, 0x09, 0x0A].contains i.base || (i.base == 0x04 && !body))
    if ¬ typed ∨ ¬ regs ∨ ¬ k.imm i.imm ∨ (¬ k.pred ∧ (i.pred ≠ 0 ∨ i.pneg)) ∨ ruled ∨ (draws ∧ ¬ body)
        ∨ (i.base ≤ 3 ∧ ¬ memoryFine x upd body i) then some 0x29
    else if tileMisuse upd i then some 0x12
    else if ¬ upd ∧ ¬ overlaid s u ∧ (high k.vd i.vd || high k.va i.va || high kb i.vb || high k.vc i.vc) then some 0x2A
    else none

/-! Lane arithmetic. -/

/-- Sign of an integer code of a type. -/
def laneInt (ty code : Nat) : Int := signedOf (typeBits ty) code

/-- The value of a code of a type. -/
def laneValue (ty code : Nat) : FV :=
  match floatType ty with
  | some f => fdecode f code
  | none => FV.ofInt (laneInt ty code)

/-- Round to an integral value, ties to even, keeping the sign (VRINT). -/
def FV.rint (v : FV) : FV :=
  match v with
  | .fin s m e => .fin s (roundTo .rne m e 0) 0
  | .nan s p => .nan s (p ||| quietBit)
  | .inf s => .inf s

/-- What one lane gives: its code (none: the spec states no value) and flags. -/
abbrev LaneOut := Option Nat × BitVec 4

def plainOut (c : Nat) : LaneOut := (some c, 0)

/-- Two-source float opcodes (R226 to R228). -/
def floatOp2 (f : Fmt) (op a b c : Nat) : Nat :=
  let va := fdecode f a
  let vb := fdecode f b
  if op = 0x10 then faddc f a b
  else if op = 0x11 then fsubc f a b
  else if op = 0x12 then fmulc f a b
  else if op = 0x13 then fmac f a b c
  else if op = 0x14 then fdivc f a b
  else if op = 0x19 then fround f (FV.minOf va vb)
  else fround f (FV.maxOf va vb)

/-- One-source float opcodes; NaNs pass with their sign (R44). -/
def floatOp1 (f : Fmt) (op a : Nat) : Nat :=
  let v := fdecode f a
  if op = 0x15 then fround f (FV.sqrt v)
  else if op = 0x16 then fround f (FV.rsqrt v)
  else if op = 0x17 then fround f (FV.exp2 v)
  else if op = 0x18 then fround f (FV.log2 v)
  else if op = 0x1B then fround f (if v.isNaN then v else v.abs)
  else if op = 0x1C then fround f (if v.isNaN then v else v.neg)
  else fround f v.rint

/-- Integer opcodes of width n (R225, R228). The absolute value and the negation of the most negative number have no stated
result; a VFMA that overflows wraps like VMUL and VADD, although R228's list does not name it (DESIGN CHOICE, log entry 27). -/
def intOp (n op a b c : Nat) : LaneOut :=
  let ia := signedOf n a
  let ib := signedOf n b
  let wrap := fun (i : Int) => plainOut (intCode n i)
  let sat := fun (i : Int) => let (v, st) := satInt n i; (some (intCode n v), if st then (1 : BitVec 4) else 0)
  let lowest := ia == -(2 ^ (n - 1) : Nat)
  if op = 0x10 then wrap (ia + ib)
  else if op = 0x11 then wrap (ia - ib)
  else if op = 0x12 then wrap (ia * ib)
  else if op = 0x13 then wrap (ia * ib + signedOf n c)
  else if op = 0x19 then wrap (if ib < ia then ib else ia)
  else if op = 0x1A then wrap (if ia < ib then ib else ia)
  else if op = 0x1B then (if lowest then (none, 0) else wrap (ia.natAbs : Nat))
  else if op = 0x1C then (if lowest then (none, 0) else wrap (-ia))
  else if op = 0x20 then plainOut (a &&& b)
  else if op = 0x21 then plainOut (a ||| b)
  else if op = 0x22 then plainOut (a ^^^ b)
  else if op = 0x23 then plainOut ((a <<< (b % n)) % 2 ^ n)
  else if op = 0x24 then plainOut (a >>> (b % n))
  else if op = 0x25 then wrap (ia / (2 ^ (b % n) : Nat))
  else if op = 0x26 then sat (ia + ib)
  else sat (ia - ib)

/-- VCVT (R228): from the type `src`. -/
def convertLane (ty src a : Nat) : LaneOut :=
  let v := laneValue src a
  match floatType ty with
  | some f => plainOut (fround f v)
  | none => let (i, fl) := fconvInt (typeBits ty) .rne v; (some (intCode (typeBits ty) i), fl.bits)

/-- One lane of an arithmetic opcode. -/
def laneOp (op ty imm a b c : Nat) : LaneOut :=
  if op = 0x1D then convertLane ty imm (a % 2 ^ typeBits imm)
  else match floatType ty with
    | some f =>
      let x := a % 2 ^ typeBits ty
      plainOut (if op ≤ 0x14 ∨ op = 0x19 ∨ op = 0x1A then floatOp2 f op x (b % 2 ^ typeBits ty) (c % 2 ^ typeBits ty) else floatOp1 f op x)
    | none => intOp (typeBits ty) op (a % 2 ^ typeBits ty) (b % 2 ^ typeBits ty) (c % 2 ^ typeBits ty)

/-- The word of a lane of an opcode: a free one of the opcode and width where the spec states no value. -/
def laneWordOf (op ty : Nat) (o : LaneOut) : Word :=
  match o.1 with
  | some c => BitVec.ofNat 64 c
  | none => BitVec.ofNat 64 ((Config.unstatedLane op (typeBits ty)).toNat % 2 ^ typeBits ty)

/-- VCMP (Table 6-5): EQ, NE, LT, LE, UNORD. -/
def laneCompare (ty cond a b : Nat) : Bool :=
  match floatType ty with
  | some f =>
    let x := fdecode f a
    let y := fdecode f b
    let un := x.isNaN || y.isNaN
    if cond = 0 then FV.eqv x y else if cond = 1 then !FV.eqv x y else if cond = 2 then FV.lt x y
    else if cond = 3 then FV.le x y else un
  | none =>
    let x := laneInt ty a
    let y := laneInt ty b
    if cond = 0 then x == y else if cond = 1 then x != y else if cond = 2 then decide (x < y)
    else if cond = 3 then decide (x ≤ y) else false

/-! Groups (R233, R234). -/

/-- Cut a list into parts of g; `fuel` bounds the parts. -/
def groupsOf {α : Type} (g : Nat) : Nat → List α → List (List α)
  | 0, _ => []
  | _, [] => []
  | n + 1, xs => xs.take g :: groupsOf g n (xs.drop g)

/-- Addition at a node of VRSUM: rounded, or saturating with its flag. -/
def sumNode (ty : Nat) (a b : Nat × Bool) : Nat × Bool :=
  match floatType ty with
  | some f => (faddc f a.1 b.1, false)
  | none => let (i, st) := satInt (typeBits ty) (laneInt ty a.1 + laneInt ty b.1); (intCode (typeBits ty) i, a.2 || b.2 || st)

/-- A node of VRMAX or VRMIN (R228). -/
def pickNode (op ty : Nat) (a b : Nat × Bool) : Nat × Bool :=
  let op2 := if op = 0x39 then 0x1A else 0x19
  match floatType ty with
  | some f => (floatOp2 f op2 a.1 b.1 0, false)
  | none => ((intOp (typeBits ty) op2 a.1 b.1 0).1.getD 0, false)

/-- A code as an input of an operation: a signalling NaN is quiet (R43), so that one element alone gives no signalling one. -/
def quietLane (ty c : Nat) : Nat :=
  match floatType ty with
  | some f => fround f (fdecode f c)
  | none => c

/-- A reduction of one group: its result and whether it saturated; none with no active lane. -/
def reduceGroup (op ty : Nat) (xs : List (Option Nat)) : Option (Nat × Bool) :=
  tree (if op = 0x38 then sumNode ty else pickNode op ty) (xs.map fun x => x.map fun c => (quietLane ty c, false))

/-- The exact sum of some integers. -/
def intSum (xs : List Int) : Int := xs.foldl (· + ·) 0

/-- VSAD of one group for one lane's vc (R234). -/
def sadGroup (ty : Nat) (ab : List (Option (Nat × Nat))) (c : Nat) : Nat × Bool :=
  match floatType ty with
  | some f =>
    let d := ab.map fun x => x.map fun z : Nat × Nat =>
      let v := fdecode f (fsubc f z.1 z.2)
      (fround f (if v.isNaN then v else v.abs), false)
    (faddc f c (((tree (sumNode ty) d).getD (0, false)).1), false)
  | none =>
    let total := intSum (ab.map fun x =>
      match x with
      | some z => ((laneInt ty z.1 - laneInt ty z.2).natAbs : Int)
      | none => 0)
    let (i, st) := satInt (typeBits ty) (laneInt ty c + total)
    (intCode (typeBits ty) i, st)

/-! Draws (R235, R356). -/

/-- Element term of lane 0. -/
def elemTerm (u : VecUnit) (x : Vec) : Nat := x.ctx.elemBase.toNat + unitLanes u * x.trip

/-- Active lanes: the predicate, and for an update kernel the offsets below COUNT (R229, Table 9-2). -/
def activeLanes (u : VecUnit) (x : Vec) (i : VInstr) : List Bool :=
  let p := (preg u x i.pred).map fun b => xor b i.pneg
  if unitUpdate u then p.zipIdx.map fun z : Bool × Nat => z.1 && decide (unitLanes u * x.trip + z.2 < x.ctx.count) else p

end Sys2Proof.Machine
end

