-- ==== Sys2Proof/Machine/VecRun.lean ====
section
/-! DEFINITION. Running vector code (06, R334): one instruction on a unit (R225 to R235), with its memory accesses and
exceptions (R230, R231, R237 to R240), and sections, trips and repeats (R221, R222). -/

namespace Sys2Proof.Machine

/-! The parameter page (R205). -/

/-- The word at an offset of the parameter page, a multiple of 8 (Table 5-18). -/
def paramWord (s : State) (off : Nat) : Word :=
  if off < 0xA0 then
    match regFind off with
    | some (k, i, j) => s.reg k i j
    | none => 0
  else if off = 0xA0 then s.reg .cfgMemberId 0 0
  else if off = 0xA8 then s.reg .cfgMemberCount 0 0
  else if off = 0xB0 then s.reg .cfgStartStep 0 0
  else 0

/-- n bytes of the parameter page. -/
def paramBytes (s : State) (off n : Nat) : Bytes :=
  let ws := (List.range (ceilDiv (off % 8 + n) 8)).map fun i => paramWord s (off / 8 * 8 + 8 * i)
  ((wordsBytes ws).drop (off % 8)).take n

/-! One instruction. -/

/-- What executing an instruction comes to: done, held by resolvable exceptions (R238), or a fault. -/
inductive VEnd where
  | done
  | wait (lane : Nat)
  | fault (f : VecFault)
  deriving DecidableEq, Repr

abbrev VRes := VEnd × Vec × State

def vfault (code cause lane : Nat) (x : Vec) (s : State) : VRes := (.fault ⟨code, cause, lane⟩, x, s)

/-- Set store flags that the instruction has met (R236). -/
def addVecStf (x : Vec) (f : BitVec 4) : Vec := { x with stf := x.stf ||| f }

/-- The second source of an arithmetic opcode: a vector, or a scalar in every lane (R225). -/
def secondSource (u : VecUnit) (x : Vec) (i : VInstr) : List Word :=
  if i.scalar then List.replicate (unitLanes u) (sreg x i.vb) else vreg u x i.vb

/-- Write a vector register in the active lanes (R229). -/
def writeLanes (u : VecUnit) (x : Vec) (act : List Bool) (r : Nat) (ws : List Word) : Vec :=
  setVreg x r (mergeLanes act ws (vreg u x r))

/-- Codes of a type as register words (R226). -/
def codeWords (ty : Nat) (ws : List Word) : List Word := ws.map fun w => BitVec.ofNat 64 (laneCode ty w)

/-- The lane-wise arithmetic opcodes. -/
def vecArith (s : State) (u : VecUnit) (x : Vec) (i : VInstr) : VRes :=
  let act := activeLanes u x i
  let srcs := (vreg u x i.va).zip ((secondSource u x i).zip (vreg u x i.vc))
  let outs := (act.zip srcs).map fun z : Bool × Word × Word × Word =>
    if z.1 then laneOp i.base i.ty i.imm z.2.1.toNat z.2.2.1.toNat z.2.2.2.toNat else plainOut 0
  let fl := outs.foldl (fun (a : BitVec 4) o => a ||| o.2) 0
  (.done, addVecStf (writeLanes u x act i.vd (outs.map (laneWordOf i.base i.ty))) fl, s)

/-- VCMP, VSEL and predicate logic. -/
def vecLogic (s : State) (u : VecUnit) (x : Vec) (i : VInstr) : VRes :=
  let act := activeLanes u x i
  if i.base = 0x30 then
    let bs := ((vreg u x i.va).zip (secondSource u x i)).map fun z : Word × Word =>
      laneCompare i.ty i.imm (laneCode i.ty z.1) (laneCode i.ty z.2)
    (.done, setPreg x i.vd (mergeLanes act bs (preg u x i.vd)), s)
  else if i.base = 0x31 then
    let ws := ((preg u x i.imm).zip ((vreg u x i.va).zip (secondSource u x i))).map fun z : Bool × Word × Word =>
      if z.1 then z.2.1 else z.2.2
    (.done, writeLanes u x act i.vd (codeWords i.ty ws), s)
  else
    let bs := ((preg u x i.va).zip (preg u x i.vb)).map fun z : Bool × Bool =>
      if i.base = 0x32 then z.1 && z.2 else if i.base = 0x33 then z.1 || z.2 else !z.1
    (.done, setPreg x i.vd (mergeLanes act bs (preg u x i.vd)), s)

/-- Moves and scalar opcodes. -/
def vecScalar (s : State) (u : VecUnit) (x : Vec) (i : VInstr) : VRes :=
  let act := activeLanes u x i
  if i.base = 0x04 then
    let first := if unitUpdate u then unitLanes u * x.trip else 0
    (.done, writeLanes u x act i.vd (codeWords i.ty ((List.range (unitLanes u)).map fun e => BitVec.ofNat 64 (first + e))), s)
  else if i.base = 0x05 then
    (.done, writeLanes u x act i.vd (codeWords i.ty (List.replicate (unitLanes u) (sreg x i.va))), s)
  else if i.base = 0x06 then
    (.done, setSreg x i.vd (BitVec.ofNat 64 (laneCode i.ty ((vreg u x i.va).getD i.imm 0))), s)
  else if i.base = 0x09 then (.done, setAreg x i.vd (areg x i.vd + signedOf 25 i.imm), s)
  else if i.base = 0x0A then (.done, setSreg x i.vd (BitVec.ofNat 64 (if x.sect = 1 then x.trip else 0)), s)
  else
    let r := laneOp (if i.base = 0x07 then 0x10 else 0x12) i.ty 0 (sreg x i.va).toNat (sreg x i.vb).toNat 0
    (.done, setSreg x i.vd (BitVec.ofNat 64 (r.1.getD 0)), s)

/-- Lanes in a group of a reduction (R233). -/
def groupSize (i : VInstr) : Nat := 2 ^ (i.imm % 16)

/-- The reductions and sums of absolute differences (R233, R234). -/
def vecReduce (s : State) (u : VecUnit) (x : Vec) (i : VInstr) : VRes :=
  let act := activeLanes u x i
  let n := unitLanes u
  let g := groupSize i
  let va := (vreg u x i.va).map (laneCode i.ty)
  let outs : List (Nat × Bool) :=
    if i.base = 0x3B then
      let vb := (vreg u x i.vb).map (laneCode i.ty)
      let vc := (vreg u x i.vc).map (laneCode i.ty)
      let ab := (act.zip (va.zip vb)).map fun z : Bool × Nat × Nat => if z.1 then some z.2 else none
      ((groupsOf g n ab).zip (groupsOf g n (act.zip vc))).flatMap fun z : List (Option (Nat × Nat)) × List (Bool × Nat) =>
        z.2.map fun y : Bool × Nat => if y.1 then sadGroup i.ty z.1 y.2 else (0, false)
    else
      (groupsOf g n ((act.zip va).map fun z : Bool × Nat => if z.1 then some z.2 else none)).flatMap fun c =>
        c.map fun _ => (reduceGroup i.base i.ty c).getD (0, false)
  let st := outs.any Prod.snd
  (.done, addVecStf (writeLanes u x act i.vd (outs.map fun o => BitVec.ofNat 64 o.1)) (if st then 1 else 0), s)

/-- Where a unit's generator logs a seed that disagrees (R353, R357). -/
def generatorSrc : VecUnit → Src
  | .saddle n => srcSaddle n.val
  | .burnisher n => srcBurnisher n.val
  | .girth p => srcGirth p.val

/-- VRNG (R235, R356, R357). -/
def vecDraw (s : State) (u : VecUnit) (x : Vec) (i : VInstr) : VRes :=
  let act := activeLanes u x i
  if ¬ act.any id then (.done, x, s)
  else match seedFor s i.imm x.ctx.mirror with
    | .error p => vfault ftSeed 0 0 x (logComplement s (generatorSrc u) 7 p.1 p.2)
    | .ok seed =>
      let ws := act.zipIdx.map fun z : Bool × Nat =>
        if z.1 then BitVec.ofNat 64 (draw32 (draw64 seed i.imm x.ctx.step x.ctx.layer (elemTerm u x + z.2))) else 0
      (.done, writeLanes u x act i.vd ws, s)

/-! Memory. -/

/-- The register code of an element code of a format (R231). -/
def loadCode (ty mfmt code : Nat) : Nat :=
  match floatType ty with
  | some f => fround f (valueOf mfmt code)
  | none => intCode (typeBits ty) (signedOf (elemBits mfmt) code)

/-- Byte address of element e in the bench (R230). -/
def benchAddr (x : Vec) (i : VInstr) (e : Nat) : Int :=
  areg x i.areg + 8 * i.offset + e * (if i.smode then (sreg x i.sreg).toInt else (elemBytes i.mfmt : Int))

/-- An element lies in a declared range that the access may use, at a multiple of its width (R230). -/
def inRanges (x : Vec) (i : VInstr) (wr : Bool) (a : Int) : Bool :=
  let w := elemBytes i.mfmt
  decide (0 ≤ a) && a.toNat % w == 0
    && x.ctx.ranges.any fun r : Nat × Nat × Bool => decide (r.1 ≤ a.toNat ∧ a.toNat + w ≤ r.1 + r.2.1) && (r.2.2 || !wr)

/-- The fault of one element of a load: outside its ranges, void, or uncorrectable (Table 6-6). -/
def elementFault (s : State) (n : Nat) (x : Vec) (i : VInstr) (e : Nat) : Option (Nat × Nat) :=
  let a := benchAddr x i e
  if ¬ inRanges x i false a then some (0x2B, 0)
  else match benchBad s n a.toNat (elemBytes i.mfmt) with
    | some (.void _) => some (0x0B, 0)
    | some (.uncorrectable _) => some (0x2D, 1)
    | none => none

/-- The active lanes of a list. -/
def activeList (act : List Bool) : List Nat := act.zipIdx.filterMap fun z : Bool × Nat => if z.1 then some z.2 else none

/-- A word of an element needs its correction written back (R267, R237). -/
def needsFix (s : State) (n : Nat) (x : Vec) (i : VInstr) (e : Nat) : Bool :=
  (benchWordsOf (benchAddr x i e).toNat (elemBytes i.mfmt)).any fun o => s.benchWord n o == .correctable

/-- The codes of bench elements, for the lanes given (R230, R237 to R240). -/
def benchLoad (s : State) (n : Nat) (x : Vec) (i : VInstr) (es : List Nat) : Except VEnd (List Nat) × State :=
  let w := elemBytes i.mfmt
  match es.findSome? fun e => (elementFault s n x i e).map fun z => (e, z) with
  | some (e, c, cause) =>
    (.error (.fault ⟨c, cause, e⟩), if c = 0x2D then (benchRead s n (benchAddr x i e).toNat w).2 else s)
  | none =>
    match es.find? (needsFix s n x i) with
    | some e => (.error (.wait e), s)
    | none => (.ok (es.map fun e => leNat (s.benchRaw n (benchAddr x i e).toNat w)), s)

/-- The saddle of a unit; an update unit has none. -/
def unitSaddle : VecUnit → Nat
  | .saddle n => n.val
  | _ => 0

/-- Lanes of a block for a per-block tensor, or 1 (R335). -/
def blockLanes (x : Vec) (t : Nat) : Nat := if x.ctx.perblk.testBit t then 32 else 1

/-- Codes that a VLD gives, by lane (R230, R334, R335). -/
def loadCodes (s : State) (u : VecUnit) (x : Vec) (i : VInstr) (act : List Bool) : Except VEnd (List Nat) × State :=
  let lanes := List.range (unitLanes u)
  if unitUpdate u then
    if i.space = 1 then (.ok (lanes.map fun e => x.grad.getD e 0), s)
    else (.ok (lanes.map fun e => (sget [] x.stage i.areg).getD (e / blockLanes x i.areg) 0), s)
  else
    let n := unitSaddle u
    if i.space = 1 then
      if ¬ act.any id then (.ok [], s)
      else if (tileFmt s n i.areg).code ≠ i.mfmt then (.error (.fault ⟨0x12, 0, 0⟩), s)
      else if tileFlag s n i.areg 3 then (.error (.fault ⟨0x14, 0, 0⟩), s)
      else (.ok (lanes.map fun e => tileSlot s n i.areg (e / 32) (e % 32)), s)
    else
      let es := activeList act
      match benchLoad s n x i es with
      | (.error e, s1) => (.error e, s1)
      | (.ok cs, s1) => (.ok (dense 0 (unitLanes u) 0 (es.zip cs)), s1)

/-- VLD. -/
def vecLoad (s : State) (u : VecUnit) (x : Vec) (i : VInstr) : VRes :=
  let act := activeLanes u x i
  match loadCodes s u x i act with
  | (.error e, s1) => (e, x, s1)
  | (.ok cs, s1) =>
    let all := cs ++ List.replicate (unitLanes u - cs.length) 0
    (.done, writeLanes u x act i.vd (all.map fun c => BitVec.ofNat 64 (loadCode i.ty i.mfmt c)), s1)

/-- SLD: one element of the bench or of the parameter page (R230). -/
def vecScalarLoad (s : State) (u : VecUnit) (x : Vec) (i : VInstr) : VRes :=
  let put := fun (c : Nat) (s : State) => (VEnd.done, setSreg x i.vd (BitVec.ofNat 64 (loadCode i.ty i.mfmt c)), s)
  let w := elemBytes i.mfmt
  if i.space = 2 then
    let o := 8 * i.offset
    if o < 0 ∨ 4096 < o + w then vfault 0x2B 0 0 x s else put (leNat (paramBytes s o.toNat w)) s
  else match benchLoad s (unitSaddle u) x i [0] with
    | (.error e, s1) => (e, x, s1)
    | (.ok cs, s1) => put (cs.headD 0) s1

/-- The lanes whose values a store writes: for a per-block tensor, the lowest lane of each block (R335). -/
def storeLanes (x : Vec) (t : Nat) (act : List Bool) : List Nat :=
  let es := activeList act
  if blockLanes x t = 1 then es
  else (List.range (act.length / 32)).filterMap fun b => es.find? fun e => e / 32 == b

/-- Stores of an update kernel go to the stage (R336): element e of window t takes a code. -/
def stagePut (x : Vec) (t : Nat) (cs : List (Nat × Nat)) : Vec :=
  let win := cs.foldl (fun (w : List Nat) z => w.set (z.1 / blockLanes x t) z.2) (sget [] x.stage t)
  { x with stage := sset [] x.stage t win, stores := x.stores ++ cs.map fun z => (t, z.1 / blockLanes x t, z.2) }

/-- Stores of a saddle kernel into a tile (R113, R230), with the flags of their conversions; a kernel's first store into a tile
clears those it has (R66). -/
def tilePut (s : State) (n t mfmt : Nat) (first : Bool) (fl : BitVec 4) (cs : List (Nat × Nat)) : State :=
  match accFmtOf mfmt with
  | none => s
  | some f =>
    let s1 := if first then openTile s n t (some f) else freshTile s n t f
    let y := s1.saddle n
    addTileStf (s1.setSaddle n { y with tiles := cs.foldl (fun m z => sset 0 m (1024 * t + z.1) (BitVec.ofNat 64 z.2)) y.tiles })
      n t fl

/-- The rounding of a store's elements, or the seed pair that disagrees (R231, R357). -/
def vecStoreMode (s : State) (x : Vec) (some? : Bool) : Except (Word × Word) StoreMode :=
  if x.ctx.mode = 1 ∧ some? then
    match seedFor s x.ctx.stream x.ctx.mirror with
    | .ok v => .ok (.stoch v x.ctx.stream x.ctx.step x.ctx.layer)
    | .error p => .error p
  else .ok .rne

/-- VST (R230, R231, R59, R235, R341). -/
def vecStore (s : State) (u : VecUnit) (x : Vec) (i : VInstr) : VRes :=
  let p := activeLanes u x i
  let act := if unitUpdate u then (p.zip (preg u x 7)).map fun z : Bool × Bool => z.1 && z.2 else p
  let n := unitSaddle u
  let es := if unitUpdate u then storeLanes x i.areg act else activeList act
  let bench := !unitUpdate u && i.space == 0
  let bad := if bench then es.find? fun e => !inRanges x i true (benchAddr x i e) else none
  if x.ctx.mode = 1 ∧ ¬ stochAllowed i.mfmt then vfault 0x16 0 0 x s
  else match bad with
    | some e => vfault 0x2B 0 e x s
    | none =>
      match vecStoreMode s x (!es.isEmpty) with
      | .error q => vfault ftSeed 0 0 x (logComplement s (generatorSrc u) 7 q.1 q.2)
      | .ok mode =>
        let va := vreg u x i.va
        let outs := es.map fun e =>
          let (c, fl) := convertCode i.mfmt (mode.at (elemTerm u x + e)) (laneValue i.ty (laneCode i.ty (va.getD e 0)))
          (e, c, fl)
        let fl := (outs.foldl (fun (a : StoreFlags) o => a.or o.2.2) {}).bits
        let x1 := addVecStf x fl
        let cs := outs.map fun o => (o.1, o.2.1)
        if unitUpdate u then (.done, stagePut x1 i.areg cs, s)
        else if bench then
          (.done, x1, cs.foldl (fun s z => benchWrite s n (benchAddr x i z.1).toNat (leBytes (elemBytes i.mfmt) z.2)) s)
        else if cs.isEmpty then (.done, x1, s)
        else (.done, { x1 with wrote := i.areg :: x1.wrote }, tilePut s n i.areg i.mfmt (!x.wrote.contains i.areg) fl cs)

/-- An ordinary write to a tile that ends with a fault marks the tile invalid (R97). -/
def spoilTile (u : VecUnit) (i : VInstr) (z : VRes) : VRes :=
  match z.1 with
  | .fault _ => if unitUpdate u ∨ i.space ≠ 1 then z else (z.1, z.2.1, invalidate z.2.2 (unitSaddle u) [i.areg])
  | _ => z

/-- Execute one instruction other than a repeat. -/
def vecInstr (s : State) (u : VecUnit) (x : Vec) (i : VInstr) : VRes :=
  match illegal s u x i with
  | some c => vfault c 0 0 x s
  | none =>
    if i.base = 0x01 then vecLoad s u x i
    else if i.base = 0x02 then spoilTile u i (vecStore s u x i)
    else if i.base = 0x03 then vecScalarLoad s u x i
    else if i.base ≤ 0x0A then vecScalar s u x i
    else if i.base ≤ 0x27 then vecArith s u x i
    else if i.base ≤ 0x34 then vecLogic s u x i
    else if i.base ≤ 0x3B then vecReduce s u x i
    else if i.base = 0x3C then vecDraw s u x i
    else (.done, x, s)

/-! Sections. -/

/-- Vector code in execution: the unit, the module, the instructions still to pass over because they have executed before
(R238), and whether it has stopped. -/
structure VRun where
  x : Vec
  s : State
  skip : Nat
  halt : Bool
  deriving DecidableEq, Repr

/-- One dynamic step that cannot stop. -/
def stepFree (f : Vec → Vec) (r : VRun) : VRun :=
  if r.halt then r
  else if r.skip ≠ 0 then { r with skip := r.skip - 1 }
  else { r with x := { f r.x with done := r.x.done + 1 } }

/-- Take what an instruction came to (R238 to R240). -/
def settle (w : Word) (z : VRes) : VRun :=
  let (e, x, s) := z
  match e with
  | .done => ⟨{ x with done := x.done + 1, restarts := 0 }, s, 0, false⟩
  | .wait e =>
    if 8 ≤ x.restarts then ⟨{ x with fault := some ⟨0x2C, 4, e⟩ }, s, 0, true⟩
    else ⟨{ x with wait := some w }, s, 0, true⟩
  | .fault f => ⟨{ x with fault := some f }, s, 0, true⟩

/-- Execute the instruction at a place of the kernel; a repeat that cannot repeat is illegal (R222). -/
def stepInstr (u : VecUnit) (w : Word) (place : Nat) (fits : Bool) (r : VRun) : VRun :=
  if r.halt then r
  else if r.skip ≠ 0 then { r with skip := r.skip - 1 }
  else
    let x := { r.x with pc := place }
    if fits then settle w (vecInstr r.s u x (vinstrOf w))
    else settle w (vfault 0x29 0 0 x r.s)

def isRep (w : Word) : Bool := field w 56 8 == 0x3E
/-- L and C of a repeat. -/
def repLen (w : Word) : Nat := field w 12 13
def repCount (w : Word) : Nat := field w 0 12 + 1

/-- Run a stretch again and again. -/
def iterate (f : VRun → VRun) : Nat → VRun → VRun
  | 0, r => r
  | n + 1, r => if r.halt then r else iterate f n (f r)

/-- Run the instructions at places pos to stop − 1 of a section; `deeper` runs the body of a repeat met here. `fuel` bounds
the instructions; `base` is the place of the section in the kernel. An inner repeat may reach past the body of the outer one, as
long as it stays in the section: what lies beyond runs in the inner repeat and, the outer one over, once more after it (DESIGN
CHOICE, log entry 28: R222 bounds a REP by its section only). -/
def runLevel (u : VecUnit) (code : List Word) (base : Nat) (deeper : Option (Nat → Nat → VRun → VRun)) :
    Nat → Nat → Nat → VRun → VRun
  | 0, _, _, r => r
  | fuel + 1, pos, stop, r =>
    if stop ≤ pos ∨ r.halt then r
    else
      let w := code.getD pos 0
      if isRep w then
        let l := repLen w
        let fits := deeper.isSome && decide (pos + 1 + l ≤ code.length)
        let r1 := stepInstr u w (base + pos) fits r
        let r2 := match deeper with
          | some f => if fits then iterate (f (pos + 1) (pos + 1 + l)) (repCount w) r1 else r1
          | none => r1
        runLevel u code base deeper fuel (pos + 1 + l) stop r2
      else runLevel u code base deeper fuel (pos + 1) stop (stepInstr u w (base + pos) true r)

/-- Run a section (R221, R222): repeats nest to a depth of 2. -/
def runSection (u : VecUnit) (code : List Word) (base : Nat) (r : VRun) : VRun :=
  let n := code.length
  let two := runLevel u code base none n
  let one := runLevel u code base (some two) n
  runLevel u code base (some one) n 0 n r

/-- Enter a section at a trip. -/
def enter (sect trip : Nat) (r : VRun) : VRun := if r.halt then r else { r with x := { r.x with sect := sect, trip := trip } }

/-- a0 to a5 take their increments (R221). -/
def addIncs (x : Vec) : Vec := x.ctx.incs.zipIdx.foldl (fun x z => setAreg x z.2 (areg x z.2 + z.1)) x

/-- Body trips from some trip on. -/
def runTrips (u : VecUnit) (code : List Word) (base total : Nat) : Nat → VRun → VRun
  | 0, r => r
  | n + 1, r =>
    if r.halt then r
    else runTrips u code base total n (stepFree addIncs (runSection u code base (enter 1 (total - (n + 1)) r)))

/-- The code of a kernel: its three sections. -/
structure VCode where
  pro : List Word
  body : List Word
  epi : List Word
  deriving DecidableEq, Repr

/-- The code of an entry of a kernel image (Table 6-3). -/
def codeOf (img : Bytes) (e : KernelEntry) : VCode :=
  let at' := fun (i n : Nat) => (List.range n).map fun k => wordAt img (e.start + 8 * (i + k))
  ⟨at' 0 e.pro, at' e.pro e.body, at' (e.pro + e.body) e.epi⟩

/-- Run a whole kernel (R221), passing over what has executed before. -/
def runKernel (u : VecUnit) (c : VCode) (x : Vec) (s : State) : VRun :=
  let r := runSection u c.pro 0 (enter 0 0 ⟨x, s, x.done, false⟩)
  let r1 := runTrips u c.body c.pro.length x.ctx.trips x.ctx.trips r
  runSection u c.epi (c.pro.length + c.body.length) (enter 2 (x.ctx.trips - 1) r1)

/-- DETAIL of a vector fault (R248); zero for a code whose chapter gives it none (R183). -/
def vecDetail (x : Vec) (f : VecFault) : Word :=
  if f.code < 0x28 ∨ 0x30 ≤ f.code then 0
  else place 56 8 f.cause ||| place 32 17 (if x.sect = 1 then x.trip else 0) ||| place 29 3 x.sect ||| place 16 13 x.pc ||| place 0 10 f.lane

/-- The correctable words that hold an instruction are corrected and written back (R237, R267). -/
def resolveWords (s : State) (u : VecUnit) (x : Vec) (w : Word) : State :=
  let i := vinstrOf w
  let es := if i.base = 3 then [0] else activeList (activeLanes u x i)
  es.foldl (fun s e => benchCorrect s (unitSaddle u) (benchAddr x i e).toNat (elemBytes i.mfmt)) s

end Sys2Proof.Machine
end

