-- ==== Sys2Proof/Machine/Tiles.lean ====
section
/-! DEFINITION. Which accumulator tiles the descriptors of a saddle still have to read or write, in order (R91, R115, R171). -/

namespace Sys2Proof.Machine

/-- The kernel image of a bank of the stirrup's die. -/
def kernelImage (s : State) (t b : Nat) : Bytes := (s.bank (dieOf t) b).image

/-- KERNEL of a VEC_KERNEL (Table 6-2). -/
def dKernel (ws : List Word) : Nat := dField ws 40 48 16

/-- The tile that an instruction loads or stores (R230). -/
def tileOfInstr (w : Word) : Option Nat :=
  let i := vinstrOf w
  if (i.base = 0x01 ∨ i.base = 0x02) ∧ i.space = 1 then some i.areg else none

/-- Tiles that the code of a VEC_KERNEL loads or stores. -/
def kernelTiles (img : Bytes) (k : Nat) : List Nat :=
  match findKernel img k with
  | some e => let c := codeOf img e; (c.pro ++ c.body ++ c.epi).filterMap tileOfInstr
  | none => []

/-- Accumulator tiles that a COPY names. -/
def copyTiles (ws : List Word) : List Nat :=
  (if (dRef ws 40).space = 3 then [(dRef ws 40).addr] else []) ++ (if (dRef ws 48).space = 3 then [(dRef ws 48).addr] else [])

/-- Tiles that a MATMUL in execution still reads or writes: its operands and the column chunks of its passes to come, the
tiles it has still to drain, and its destination tile. -/
def runTiles (x : Mat) (r : MatRun) : List Nat :=
  (if r.pass < x.passes then operandTiles x ++ x.outTiles.drop (r.pass / x.kc * x.mt) else [])
    ++ (if x.drain ∧ r.drained < x.mt * x.nt then x.outTiles.drop r.drained ++ (if x.d.space = 3 then [x.d.addr] else []) else [])

/-- Tiles that a descriptor in flight still has to read or write. -/
def tilesOf (s : State) (n : Nat) (f : InFlight) : List Nat :=
  if dOpcode f.words = 0x10 then
    match (s.saddle n).runs.find? fun r : MatRun => r.slot == f.slot && r.step == f.step && f.phase == .executing with
    | some r => runTiles (matOf f.words) r
    | none => (matOf f.words).outTiles ++ operandTiles (matOf f.words)
  else if dOpcode f.words = 0x20 then copyTiles f.words
  else if dOpcode f.words = 0x18 then kernelTiles (kernelImage s n f.bank) (dKernel f.words)
  else []

/-- The descriptors in flight before one, not ended. -/
def olderThan (s : State) (t : Nat) (f : InFlight) : List InFlight :=
  ((s.stir t).flight.takeWhile fun g => g != f).filter fun g : InFlight => g.phase != .ended

/-- No earlier descriptor on the saddle still has to read or write a tile that a descriptor names (R91, R171). -/
def tilesClear (s : State) (n : Nat) (f : InFlight) : Bool :=
  let mine := tilesOf s n f
  mine.isEmpty || (olderThan s n f).all fun g => (tilesOf s n g).all fun t => !mine.contains t

/-- A tile is not BUSY, and no MATMUL in execution still has to read or write it (R115). -/
def tileFree (s : State) (n t : Nat) : Bool :=
  !tileFlag s n t 4 && (s.saddle n).runs.all fun r => !(runTiles (matOf (matWords s n r)) r).contains t

end Sys2Proof.Machine
end

