-- ==== Sys2Proof/Machine/Matrix.lean ====
section
/-! DEFINITION. The commands of a saddle's matrix engine: MATMUL, WELT_SWITCH, TILE_DRAIN with scaling, quantising and fused
row operations (R109 to R113, R139 to R147), SHADOW_CHECK_VERDICT, and SCALE_LOAD (R172). -/

namespace Sys2Proof.Machine

/-! The end of a run. -/

/-- The histogram record of the snapshot bank (Table 2-13). -/
def histRecord (s : State) (n : Nat) : Bytes :=
  let bins := (List.range 64).map fun b => (s.reg .sdlHistBin n b).toNat
  let ctrl := (s.saddle n).snapCtrl
  bins.flatMap (leBytes 4) ++ leBytes 4 (s.fld .sdlHistSeq n 0 0 32) ++ leBytes 2 (signedOf 12 (field ctrl 0 12) % 65536).toNat
    ++ [BitVec.ofNat 8 (field ctrl 12 2), if bins.any fun b => b == 2 ^ 32 - 1 then 1 else 0] ++ List.replicate 8 0

/-- Counts of one bank joined to another; a bin holds at 2^32 − 1 (R75). -/
def joinBanks (a b : List (Nat × Nat)) : List (Nat × Nat) := b.foldl (fun m z => sset 0 m z.1 (min (2 ^ 32 - 1) (sget 0 m z.1 + z.2))) a

/-- Publish a MATMUL's counts, taken under SDL_HIST_CTRL = c (R74, R75): they join the active bank, and the snapshot takes it. -/
def publishHist (n : Nat) (c : Word) (counts : List (Nat × Nat)) (s : State) : State :=
  let y := s.saddle n
  let bank := joinBanks y.bank counts
  let full := bank.any fun b : Nat × Nat => b.2 == 2 ^ 32 - 1
  let s1 := (List.range 64).foldl (fun s b => s.setReg .sdlHistBin n b (BitVec.ofNat 64 (sget 0 bank b)))
    (s.setSaddle n { y with bank := bank, snapCtrl := c })
  let s2 := s1.countWrap .sdlHistSeq n 0 0 32 1
  if full then s2.setFld .sdlHistSeq n 0 32 1 1 else s2

/-- The histogram record that a MATMUL writes, with its address (R74): HIST_DST is an address of HBM (DESIGN CHOICE, log entry
48: Table 5-8 gives an OFFSET of 22 bits). -/
def histPut (s : State) (n : Nat) (f : InFlight) : Option (Nat × Bytes) :=
  match f.counts, (matOf f.words).histDst with
  | some (c, counts), some a => some (a, histRecord (publishHist n c counts s) n)
  | _, _ => none

/-- Write the histogram record of a MATMUL that has ended; the access that fails, if one does. -/
def writeHist (s : State) (n : Nat) (f : InFlight) : Option MemErr × State :=
  match histPut s n f with
  | none => (none, s)
  | some (a, bs) => memWrite s .sdma {} a bs

/-- The histogram record of a MATMUL that completes lies on a stack whose lock is held (R273). -/
def histLocked (s : State) (n : Nat) (f : InFlight) : Bool :=
  match histPut s n f with
  | none => false
  | some (a, bs) => hbmLocked s a bs.length

/-- A run has nothing left to do: passes, drains and checks (R152). -/
def runDone (x : Mat) (r : MatRun) : Bool :=
  decide (x.passes ≤ r.pass) && (!x.drain || decide (x.mt * x.nt ≤ r.drained)) && r.checks.isEmpty

/-- End a run that has nothing left to do; its descriptor keeps its counts until it completes (R74). -/
def tryFinishMat (s : State) (n : Nat) (r : MatRun) : State :=
  match runNow s n r, matFlight s n r with
  | some y, some f =>
    let x := matOf f.words
    if ¬ runDone x y then s
    else putFlight (dropRunOf s n y) n f
      { f with phase := .ended, fault := none, counts := if dHist f.words = 0 then none else some (y.hist, y.bank) }
  | _, _ => s

/-! Starting. -/

/-- The tiles that vector instructions given by themselves, held by a resolvable exception, have still to load or store
(R115). -/
def heldTiles (s : State) (n : Nat) : List Nat :=
  match sget {} s.vec n with
  | x => if x.running ∨ x.wait.isNone then [] else x.block.filterMap tileOfInstr

/-- A MATMUL may begin (R91, R115, R171, R182): no other is streaming, no vector kernel runs, and nothing earlier still has to
read or write a tile it names. -/
def matMayStart (s : State) (n : Nat) (f : InFlight) : Bool :=
  ((s.saddle n).runs.all fun r => decide ((matOf (matWords s n r)).passes ≤ r.pass))
    && (s.stir n).flight.all (fun g => !(dOpcode g.words == 0x18 && g.phase == .executing))
    && tilesClear s n f && (heldTiles s n).all fun t => !(tilesOf s n f).contains t

/-- What a MATMUL checks as its first pass is about to begin (R91, R97, R171). The spec gives the two faults no order; a tag that
differs comes before INVALID (DESIGN CHOICE, log entry 25). -/
def tileFault (s : State) (n : Nat) (x : Mat) : Option Nat :=
  let ops := (if x.a.space = 3 then [x.a] else []) ++ (if x.b.space = 3 then [x.b] else [])
  let bad := fun (o : Operand) => some (tileFmt s n o.addr) != accFmtOf o.fmt
  if ops.any bad ∨ (x.accum ∧ x.outTiles.any fun t => some (tileFmt s n t) ≠ x.acc) then some 0x12
  else if ops.any fun o => tileFlag s n o.addr 3 then some 0x14
  else none

/-- The histogram bank at the start of a descriptor (R72, R73). An earlier descriptor that still drains joins its counts to the
bank when it completes, also to one cleared meanwhile; and a bank without counts is not restarted (DESIGN CHOICE, log entry 27:
the spec is silent on both). -/
def startHist (s : State) (n : Nat) (ws : List Word) : State :=
  let c := s.reg .sdlHistCtrl n 0
  let y := s.saddle n
  if dHist ws = 1 then s.setSaddle n { y with bank := [], bankCtrl := c }
  else if dHist ws = 2 then
    if y.bankCtrl = c then s
    else
      let s1 := s.setSaddle n { y with bank := [], bankCtrl := c }
      if y.bank.isEmpty then s1 else s1.setFld .sdlHistSeq n 0 33 1 1
  else s

/-- MATMUL (R78, R91, R94): the oldest issued one begins; it latches its controls and loads its first chunk. SKIVED, GROUP and
QUAD of SDL_STAT change with one that begins, and not with one that a tile operand's check or a check at issue ends first
(DESIGN CHOICE, log entry 27: Table 3-12 says only 'the last matrix descriptor'). -/
def execMatmul (n : Fin 300) (s : State) : Out :=
  match oldest s n.val 0x10 .issued with
  | none => disabled "MATMUL"
  | some f =>
    if ¬ matMayStart s n.val f then disabled "MATMUL"
    else
      let x := matOf f.words
      match tileFault s n.val x with
      | some c => .next (endFlight s n.val f (some (c, 0)) 0)
      | none =>
        let g := { f with phase := Phase.executing }
        let s1 := startHist (putFlight s n.val f g) n.val f.words
        let w := setField (setField (setField (s1.reg .sdlStat n.val 0) 11 1 (if x.skived then 1 else 0)) 9 2 x.group)
          8 1 (if x.quad then 1 else 0)
        let s2 := s1.setReg .sdlStat n.val 0 w
        let r : MatRun := { slot := f.slot, step := f.step, guard := BitVec.ofNat 8 (s2.fld .sdlCtrl n.val 0 0 8)
                            narrow := s2.reg .sdlNarrowCtrl n.val 0, hist := s2.reg .sdlHistCtrl n.val 0
                            slips := (s2.saddle n.val).slips }
        let y := s2.saddle n.val
        .next (loadShadow (s2.setSaddle n.val { y with runs := y.runs ++ [r], slips := [] }) n.val r)

/-- Group j of the saddle takes its shadow registers as active (R98). -/
def switchGroup (s : State) (n : Nat) (x : Mat) (j : Nat) : State :=
  let y := s.saddle n
  let lanes := (List.range x.quads).flatMap fun q => (List.range x.g).flatMap fun i => (List.range x.w).map fun c =>
    laneIndex x q (j * x.g + i) c
  s.setSaddle n { y with active := lanes.foldl (fun m l => sset 0 m l (sget 0 y.shadow l)) y.active }

/-- The run that streams. -/
def streaming (s : State) (n : Nat) : Option MatRun :=
  (s.saddle n).runs.find? fun r : MatRun => decide (r.pass < (matOf (matWords s n r)).passes)

/-- WELT_SWITCH (R98): groups switch in order, while the issue gate lets lines stream (R488); when the last one has switched, the pass has streamed its rows, and the next
chunk is loaded. -/
def execWeltSwitch (n : Fin 300) (j : Fin 32) (s : State) : Out :=
  match streaming s n.val with
  | none => disabled "WELT_SWITCH"
  | some r =>
    let x := matOf (matWords s n.val r)
    if j.val ≠ r.groups ∨ x.q ≤ j.val ∨ ¬ s.m.gateOpen then disabled "WELT_SWITCH"
    else
      let s1 := switchGroup s n.val x j.val
      let s2 := if j.val = 0 then markLoaded (beginTiles s1 n.val x (x.acc.getD .fp64) r.pass) n.val r x else s1
      let r2 := { r with groups := r.groups + 1, loadedReserved := r.loadedReserved && j.val != 0 }
      let s3 := setRunOf s2 n.val r2
      if r2.groups < x.q then .next s3
      else
        let s4 := runPass s3 n.val r2
        match runNow s4 n.val r with
        | none => .next s4
        | some r3 => .next (if r3.pass < x.passes then loadShadow s4 n.val r3 else tryFinishMat s4 n.val r3)

/-! Drains. -/

def srfEntry (s : State) (n i : Nat) : Word := s.reg .sdlSrf n i

/-- The rows and columns of the descriptor that tile t of a quadrant holds. -/
def tileRows (x : Mat) (t : Nat) : List Nat := ((List.range x.w).map fun i => x.w * (t % x.mt) + i).filter fun m => decide (m < x.m)
def tileCols (x : Mat) (t : Nat) : List Nat := ((List.range x.w).map fun c => x.w * (t / x.mt) + c).filter fun c => decide (c < x.n)

/-- The entries that the drain of tile t reads (R140): per-channel scales, column sums and second-level output scales. -/
def scaleEntries (x : Mat) (t : Nat) : List Nat := (List.range x.quads).flatMap fun q => (tileCols x t).map fun c => x.srf + q * x.n + c
def sumEntries (x : Mat) (t : Nat) : List Nat := (List.range x.quads).flatMap fun q => (tileCols x t).map fun c => x.colsum + q * x.n + c
def secondEntries (x : Mat) (t : Nat) : List Nat := (List.range x.quads).map fun q => x.s2Base + q * x.mt * x.nt + t

/-- Every entry that the drain of tile t reads. -/
def drainReads (x : Mat) (t : Nat) : List Nat :=
  (if x.dscale = 0 then [] else scaleEntries x t) ++ (if x.zpA = 0 then [] else sumEntries x t) ++ (if x.s2Out then secondEntries x t else [])

/-- An entry read under a use has a non-zero reserved field (Table 4-7, R139). -/
def srfBad (s : State) (n : Nat) (x : Mat) (t : Nat) : Bool :=
  (x.dscale == 2 && (scaleEntries x t).any fun i => field (srfEntry s n i) 6 26 != 0)
    || (x.zpA != 0 && (sumEntries x t).any fun i => field (srfEntry s n i) 32 32 != 0)
    || (x.s2Out && (secondEntries x t).any fun i => field (srfEntry s n i) 16 48 != 0)

/-- Value of a drained element after zero point and per-channel scale (R142): y and whether the correction clamped. -/
def drainValue (s : State) (n : Nat) (x : Mat) (q c : Nat) (v : FV) : FV × Bool :=
  let (w, st) := if x.zpA = 0 then (v, false)
    else match v with
      | .fin sg m e =>
        let (i, st) := satInt 32 (roundInt .rne sg m e - x.zpA * signedOf 32 (srfEntry s n (x.colsum + q * x.n + c)).toNat)
        (FV.ofInt i, st)
      | _ => (v, false)
  (if x.dscale = 1 then fvIn .fp64 (FV.mul w (fdecode .fp64 (srfEntry s n (x.srf + q * x.n + c)).toNat)) else w, st)

/-- p ÷ 2^S to the nearest integer, ties to even (R143). -/
def roundShiftEven (p : Int) (k : Nat) : Int := roundInt .rne (decide (p < 0)) p.natAbs (-(k : Int))

/-- The stored code of a drained element and its flags (R142). -/
def drainCode (s : State) (n : Nat) (x : Mat) (md : RMode) (q c : Nat) (y : FV) : Nat × StoreFlags :=
  if x.dscale = 2 then
    match y with
    | .fin sg m e =>
      let w := srfEntry s n (x.srf + q * x.n + c)
      let (i, st) := satInt 8 (roundShiftEven (roundInt .rne sg m e * (field w 32 32 : Nat)) (field w 0 6) + x.zpOut)
      (intCode 8 i, { sat := st })
    | _ => (0, {})
  else convertCode x.d.fmt md y

/-- One drained row: its accumulator values, its y values and whether a correction clamped. -/
structure Row where
  q : Nat
  m : Nat
  raw : List FV
  ys : List FV
  clamped : Bool
  deriving DecidableEq, Repr

def drainRows (s : State) (n : Nat) (x : Mat) (t : Nat) : List Row :=
  (List.range x.quads).flatMap fun q => (tileRows x t).map fun m =>
    let raw := (tileCols x t).map fun c => tileValue s n (x.a0 + t) (x.row q (m % x.w)) (x.col q (c % x.w))
    let ys := ((tileCols x t).zip raw).map fun z : Nat × FV => drainValue s n x q z.1 z.2
    ⟨q, m, raw, ys.map Prod.fst, ys.any Prod.snd⟩

/-- A change that a drain makes outside its tile: bytes of the bench. -/
abbrev Put := Nat × Bytes

/-- What a row writes to its destination, and its flags: row-major elements (R585) or a block (R144). -/
def rowOut (s : State) (n : Nat) (x : Mat) (mode : StoreMode) (t : Nat) (r : Row) : List Put × List Nat × StoreFlags :=
  let o := 32 * r.q * x.qsD
  let c0 := x.w * (t / x.mt)
  if isBlock x.d.fmt then
    let s2 := if x.s2Out then some (fdecode .fp16 (field (srfEntry s n (x.s2Base + r.q * x.mt * x.nt + t)) 0 16)) else none
    let xs := r.ys ++ List.replicate (32 - r.ys.length) .zero
    let (sc, cs, fl) := quantBlock x.d.fmt s2 (fun i => mode.at (r.m * x.n + c0 + i)) xs
    let blk := r.m * x.nt + t / x.mt
    ([(x.d.addr + o + blk * (32 * elemBits x.d.fmt / 8), packCodes x.d.fmt cs), (x.dSc.getD 0 + o + blk, [BitVec.ofNat 8 sc])], cs, fl)
  else
    let cs := r.ys.zipIdx.map fun z : FV × Nat => drainCode s n x (mode.at (r.m * x.n + c0 + z.2)) r.q (c0 + z.2) z.1
    let codes := cs.map Prod.fst
    let w := elemBytes x.d.fmt
    (if x.d.space = 2 then [(x.d.addr + o + (r.m * x.n + c0) * w, bytesOf w codes)] else [], codes,
      cs.foldl (fun (a : StoreFlags) z => a.or z.2) {})

/-- The largest magnitude of a capture group as an FP64 code (R146, R147). -/
def amaxCode (vs : List FV) : Nat :=
  if vs.any FV.isNaN then fround .fp64 .qnan else if vs.any FV.isInf then fround .fp64 (.inf false) else fround .fp64 (maxAbs vs)

/-- What amax capture writes for a tile (R147). -/
def amaxPuts (x : Mat) (t : Nat) (rows : List Row) : List Put :=
  match x.amaxDst with
  | none => []
  | some a =>
    (List.range x.quads).flatMap fun q =>
      let mine := rows.filter fun r : Row => r.q == q
      let o := a + 32 * q * x.qsD
      if x.amax = 1 then mine.map fun r => (o + 8 * (t / x.mt * x.m + r.m), leBytes 8 (amaxCode r.ys))
      else [(o + 8 * t, leBytes 8 (amaxCode (mine.flatMap fun r => r.ys)))]

/-- Flags of a fused sum in terms of store flags (R111). -/
def fusedFlags (f : AccFlags) : StoreFlags := { sat := f.gsat || f.isat, ovf := f.ovf }

/-- An INT32 sum of two values, saturating (R95, R111). -/
def intNode (a b : FV × Bool) : FV × Bool :=
  match FV.add a.1 b.1 with
  | .fin sg m e => let (i, st) := satInt 32 (roundInt .rne sg m e); (FV.ofInt i, a.2 || b.2 || st)
  | v => (v, a.2 || b.2)

/-- Row sum of a tile row (R111). -/
def rowSumOf (acc : AccFmt) (guard : Bool) (w : Nat) (vs : List FV) : FV × AccFlags :=
  let leaves := vs.map some ++ List.replicate (w - vs.length) none
  match acc with
  | .int32 =>
    let (v, st) := (tree intNode (leaves.map fun l => l.map fun v => (v, false))).getD (.zero, false)
    (v, { isat := st })
  | _ => let (v, f) := groupTree acc guard (Nat.log2 w) leaves; (v.getD .zero, f)

/-- Join a tile's row sum to the sum of the earlier column chunks (R112). -/
def joinSum (acc : AccFmt) (guard : Bool) (old : Option FV) (v : FV) : FV × AccFlags :=
  match old with
  | none => (v, {})
  | some r => chainAdd acc guard r (some v)

/-- Key of a row's fused results. -/
def rowKey (r : Row) : Nat := 1024 * r.q + r.m

/-- Fused results of a row over the tile (R110 to R112): the new partial results and flags. -/
def fuseRow (x : Mat) (acc : AccFmt) (guard first : Bool) (st : List (Nat × Nat) × List (Nat × Nat) × StoreFlags) (r : Row) :
    List (Nat × Nat) × List (Nat × Nat) × StoreFlags :=
  let (mx, sm, fl) := st
  let k := rowKey r
  let mx1 := if x.fused = 1 ∨ x.fused = 3 then
      let v := (tree FV.maxOf (r.raw.map some ++ List.replicate (x.w - r.raw.length) none)).getD .zero
      let u := if first then v else FV.maxOf (acc.value (sget 0 mx k)) v
      sset 0 mx k (accCode acc u)
    else mx
  if x.fused = 2 ∨ x.fused = 3 then
    let (v, f1) := rowSumOf acc guard x.w r.raw
    let (u, f2) := joinSum acc guard (if first then none else some (acc.value (sget 0 sm k))) v
    (mx1, sset 0 sm k (accCode acc u), fl.or (fusedFlags (f1.or f2)))
  else (mx1, sm, fl)

/-- Write the fused results of rows whose last column chunk has been drained (R112, R170). -/
def fusedPuts (x : Mat) (acc : AccFmt) (rows : List Row) (mx sm : List (Nat × Nat)) : List Put :=
  match x.fusedDst with
  | none => []
  | some a =>
    let w := acc.bytes
    rows.flatMap fun r =>
      let o := a + 32 * r.q * x.qsD + r.m * w
      (if x.fused = 1 ∨ x.fused = 3 then [(o, leBytes w (sget 0 mx (rowKey r)))] else [])
        ++ (if x.fused = 2 then [(o, leBytes w (sget 0 sm (rowKey r)))] else [])
        ++ (if x.fused = 3 then [(o + x.m * w, leBytes w (sget 0 sm (rowKey r)))] else [])

/-- Put the drained codes into a destination tile (R113, R583). -/
def putTile (s : State) (n : Nat) (x : Mat) (rows : List (Row × List Nat)) : State :=
  let s1 := openTile s n x.d.addr (accFmtOf x.d.fmt)
  let y := s1.saddle n
  let tiles := rows.foldl (fun m z => z.2.zipIdx.foldl (fun m c =>
    sset 0 m (1024 * x.d.addr + 32 * x.row z.1.q z.1.m + x.col z.1.q c.2) (BitVec.ofNat 64 c.1)) m) y.tiles
  s1.setSaddle n { y with tiles := tiles }

/-- Flags that a drain takes from the tile it reads (R96). -/
def tileStoreFlags (s : State) (n t : Nat) : StoreFlags :=
  { sat := tileFlag s n t 1 || tileFlag s n t 2, ovf := tileFlag s n t 0 }

/-- Drain tile t of a run (R109, R142). -/
def drainTile (s : State) (n : Nat) (r : MatRun) (x : Mat) (ws : List Word) (mode : StoreMode) : State :=
  let t := r.drained
  let acc := x.acc.getD .fp64
  let rows := drainRows s n x t
  let outs := rows.map fun y => (y, rowOut s n x mode t y)
  let (mx, sm, ff) := rows.foldl (fuseRow x acc (r.guard.toNat.testBit (x.a0 + t)) (decide (t < x.mt))) (r.rowMax, r.rowSum, {})
  let fl := outs.foldl (fun (a : StoreFlags) z => (a.or z.2.2.2).or { sat := z.1.clamped }) ((tileStoreFlags s n (x.a0 + t)).or ff)
  let last := decide (x.nt ≤ t / x.mt + 1)
  let puts := outs.flatMap (fun z => z.2.1) ++ amaxPuts x t rows ++ (if last then fusedPuts x acc rows mx sm else [])
  let bank := if dHist ws = 0 then r.bank
    else histCount (signedOf 12 (field r.hist 0 12)) (field r.hist 12 2) (rows.flatMap fun z => z.ys) r.bank
  let s2 := puts.foldl (fun s p => benchWrite s n p.1 p.2) s
  let s3 := if x.d.space = 3 then putTile s2 n x (outs.map fun z => (z.1, z.2.2.1)) else s2
  let s4 := setRunOf s3 n { r with drained := t + 1, rowMax := mx, rowSum := sm, bank := bank }
  let s5 := addStf s4 n r (x.a0 + t) fl.bits
  tryFinishMat (if x.d.space = 3 then addTileStf s5 n x.d.addr fl.bits else s5) n r

/-- A SCALE_LOAD issued before a MATMUL that writes an entry the drain of tile t reads has not ended (R138). -/
def scalePending (s : State) (n : Nat) (f : InFlight) (x : Mat) (t : Nat) : Bool :=
  (olderThan s n f).any fun g : InFlight => dOpcode g.words == 0x11 &&
    (drainReads x t).any fun i => decide (dField g.words 48 32 10 ≤ i ∧ i < dField g.words 48 32 10 + dField g.words 48 0 11)

/-- The run whose next tile can be drained: every pass into it is done (R109). -/
def drainable (s : State) (n : Nat) : Option MatRun :=
  (s.saddle n).runs.find? fun r : MatRun =>
    let x := matOf (matWords s n r)
    x.drain && decide (r.drained < x.mt * x.nt ∧ (r.drained / x.mt + 1) * x.kc ≤ r.pass)

/-- A drain ends its descriptor in a fault (R97); a destination tile is invalid with it. -/
def failDrain (s : State) (n : Nat) (r : MatRun) (x : Mat) (fault : Nat) : State :=
  failMat (if x.d.space = 3 then invalidate s n [x.d.addr] else s) n r fault 0 true

/-- TILE_DRAIN (R109). -/
def execTileDrain (n : Fin 300) (s : State) : Out :=
  match drainable s n.val with
  | none => disabled "TILE_DRAIN"
  | some r =>
    match matFlight s n.val r with
    | none => disabled "TILE_DRAIN"
    | some f =>
      let x := matOf f.words
      if scalePending s n.val f x r.drained then disabled "TILE_DRAIN"
      else if tileFlag s n.val (x.a0 + r.drained) 3 then .next (failDrain s n.val r x 0x14)
      else if srfBad s n.val x r.drained then .next (failDrain s n.val r x 0x1C)
      else match storeModeOf s f.words r.step with
        | .error p => .next (failDrain (logComplement s (srcSaddle n.val) 7 p.1 p.2) n.val r x ftSeed)
        | .ok mode => .next (drainTile s n.val r x f.words mode)

/-- The tags of the streams that feed the checker, for the blocks of a selected group sum (R133, R149). -/
def checkerSkew (x : Mat) (r : MatRun) (c : ShadowCheck) : Option Skew :=
  if r.slips.isEmpty then none
  else (List.range (x.g * x.lane / 32)).findSome? fun k =>
    let first := decide (k = 0 ∧ c.index < 2 ^ field r.narrow 0 5)
    joinSkew (tagsAt r.slips true false x.aS2.isSome first x.aB0 (c.blockA + k))
      (tagsAt r.slips true true x.bS2.isSome first x.bB0 (c.blockB + k * x.w))

/-- SHADOW_CHECK_VERDICT (R149 to R152): the checker takes the blocks of a selected group sum, whose tags it compares, and
judges the sum. -/
def execShadowCheckVerdict (n : Fin 300) (s : State) : Out :=
  match (s.saddle n.val).runs.find? fun r : MatRun => !r.checks.isEmpty with
  | none => disabled "SHADOW_CHECK_VERDICT"
  | some r =>
    match r.checks with
    | [] => disabled "SHADOW_CHECK_VERDICT"
    | c :: rest =>
      let x := matOf (matWords s n.val r)
      let r2 := { r with checks := rest }
      match checkerSkew x r c with
      | some k => .next (failSkew s n.val r2 k)
      | none =>
        let (bad, s1) := settleCheck (setRunOf s n.val r2) n.val r (x.acc.getD .fp64) c
        if bad ∧ bit r.narrow 9 then .next (failMat s1 n.val r2 0x1E 0 true)
        else .next (tryFinishMat s1 n.val r2)

/-! SCALE_LOAD. -/

/-- A SCALE_LOAD that R166 and R172 take. -/
def scaleGood (ws : List Word) : Bool :=
  let o := dRef ws 40
  dField ws 32 32 32 == 0 && o.fine && o.space == 2 && o.fmt == 0 && decide (o.addr < benchSize)
    && dField ws 48 42 22 == 0 && dField ws 48 11 21 == 0 && decide (1 ≤ dField ws 48 0 11 ∧ dField ws 48 0 11 ≤ 1024)
    && (List.range 9).all (fun i => dWord ws (56 + 8 * i) == 0)

def scaleRanges (ws : List Word) : List Range := [((dRef ws 40).addr, 8 * dField ws 48 0 11)]

/-- Its own issue checks (R172). -/
def scaleIssue (ws : List Word) : Option Nat :=
  if 1024 < dField ws 48 32 10 + dField ws 48 0 11 then some 0x1B
  else if ¬ (scaleRanges ws).all rangeFits then some 0x20 else none

/-- A MATMUL in flight has drained every tile (R138). -/
def drainComplete (s : State) (n : Nat) (g : InFlight) : Bool :=
  g.phase == .executing && (s.saddle n).runs.any fun r : MatRun =>
    r.slot == g.slot && r.step == g.step && decide ((matOf g.words).mt * (matOf g.words).nt ≤ r.drained)

/-- An earlier MATMUL has still to drain with an entry that a SCALE_LOAD writes (R138). -/
def scaleHeld (s : State) (n : Nat) (f : InFlight) : Bool :=
  let a := dField f.words 48 32 10
  let c := dField f.words 48 0 11
  (olderThan s n f).any fun g : InFlight => dOpcode g.words == 0x10 && !drainComplete s n g &&
    (srfReads (matOf g.words)).any fun z => decide (a < z.1 + z.2 ∧ z.1 < a + c)

/-- SCALE_LOAD (R172). -/
def execScaleLoad (n : Fin 300) (s : State) : Out :=
  match oldest s n.val 0x11 .issued with
  | none => disabled "SCALE_LOAD"
  | some f =>
    if scaleHeld s n.val f then disabled "SCALE_LOAD"
    else match benchGets n.val (scaleRanges f.words) s with
      | (.error e, s1) => .next (endFlight s1 n.val f (some (benchFault e, benchDetail e)) 0)
      | (.ok bs, s1) =>
        let ws := bytesWords (dField f.words 48 0 11) (bs.getD 0 [])
        let s2 := ws.zipIdx.foldl (fun s z => s.setReg .sdlSrf n.val (dField f.words 48 32 10 + z.2) z.1) s1
        .next (endFlight s2 n.val f none 0)

end Sys2Proof.Machine
end

