-- ==== Sys2Proof/Machine/Dma.lean ====
section
/-! DEFINITION. The DMA engines: COPY (R283 to R290) and GATHER (R242 to R246). -/

namespace Sys2Proof.Machine

/-! Accesses of a DMA engine. -/

/-- Requester class of a stirrup's DMA engine (Table 7-8). -/
def dmaClass (t : Nat) : Class := if t < 300 then .sdma else .ddma

/-- A fault code with its DETAIL. -/
abbrev Bad := Nat × Word

/-- Read n bytes at an address of an operand's space, HBM or bench; the DISCARD of a hint is left to the end of the
descriptor (R189, R260). `told`: the descriptor has logged its denial (R281). -/
def dmaRead (t : Nat) (o : Operand) (a n : Nat) (s : State) (told : Bool := false) : Except Bad Bytes × State :=
  if n = 0 then (.ok [], s)
  else if o.space = 1 then
    match memRead s (dmaClass t) { hintOf o.hint with discard := false } a n with
    | (.error e, s1) => (.error (errFault e, errDetail e), if told then s1 else noteErr s1 (dmaClass t) e)
    | (.ok bs, s1) => (.ok bs, s1)
  else match benchRead s t a n with
    | (.error e, s1) => (.error (benchFault e, benchDetail e), s1)
    | (.ok bs, s1) => (.ok bs, s1)

/-- Write bytes at an address of an operand's space, HBM or bench. -/
def dmaWrite (t : Nat) (o : Operand) (a : Nat) (bs : Bytes) (s : State) (told : Bool := false) : Except Bad Unit × State :=
  if o.space = 1 then
    match memWrite s (dmaClass t) (hintOf o.hint) a bs with
    | (some e, s1) => (.error (errFault e, errDetail e), if told then s1 else noteErr s1 (dmaClass t) e)
    | (none, s1) => (.ok (), s1)
  else (.ok (), benchWrite s t a bs)

/-- The slices drop the lines of an operand that its DISCARD hint names (R260). -/
def dmaDiscard (o : Operand) (lo len : Nat) (s : State) : State :=
  if o.space = 1 ∧ (hintOf o.hint).discard then (linesOf lo len).foldl sbgDiscard s else s

/-- A byte of a range lies on a stack whose lock is held (R273). -/
def rangeLocked (s : State) (o : Operand) (lo len : Nat) : Bool :=
  o.space == 1 && s.maint.running.any (fun a : Act => match a.what with | .rowRepair _ _ _ => true | _ => false)
    && (linesOf lo len).any fun l => stackLocked s (stackOf s (64 * l))

/-- Bytes of an operand's range that are left undefined become free values, in bench and in HBM pages that the class may
write (R246, R287, R289). -/
def spoil (t : Nat) (o : Operand) (a n : Nat) (s : State) : State :=
  if o.space = 1 then
    let (bs, s1) := freeBytes n s
    let put := bs.zipIdx.foldl (fun m z =>
      if (denies s1 (dmaClass t) true (a + z.2)).isSome then m else sset 0 m (a + z.2) z.1) s1.mem.hbm
    { s1 with mem := { s1.mem with hbm := put } }
  else if o.space = 2 then
    let (bs, s1) := freeBytes n s
    benchPut s1 t a bs
  else s

/-! The COPY operand area (Table 7-9). -/

structure Cp where
  src : Operand
  dst : Operand
  rows : Nat
  cols : Nat
  ss : Int
  ds : Int
  skew : Nat
  quad : Bool
  group : Nat
  sn : Nat
  nt : Nat
  deriving DecidableEq, Repr

def copyOf (ws : List Word) : Cp :=
  { src := dRef ws 40, dst := dRef ws 48, rows := dField ws 56 24 20, cols := dField ws 56 0 24
    ss := signedOf 48 (dField ws 64 0 48), ds := signedOf 48 (dField ws 72 0 48)
    skew := dField ws 80 61 3, quad := bit (dWord ws 80) 60, group := dField ws 80 58 2, sn := dField ws 80 56 2
    nt := dField ws 80 0 20 }

/-- The formats pair for a conversion (R286). -/
def Cp.converts (c : Cp) : Bool := decide (1 ≤ c.src.fmt ∧ c.src.fmt ≤ 8 ∧ 1 ≤ c.dst.fmt ∧ c.dst.fmt ≤ 8)

/-- Bytes of a row on each side. -/
def Cp.srcRow (c : Cp) : Nat := c.cols * elemBits c.src.fmt / 8
def Cp.dstRow (c : Cp) : Nat := c.cols * elemBits c.dst.fmt / 8

/-- Lowest and highest byte of strided rows (R284). -/
def extent (a : Nat) (rows : Nat) (stride : Int) (n : Nat) : Int × Int :=
  let span : Int := ((rows : Int) - 1) * stride
  ((a : Int) + min 0 span, (a : Int) + max 0 span + n - 1)

/-! Pre-skew shape (R288, R289). -/

def Cp.w (c : Cp) : Nat := if c.quad then 16 else 32
def Cp.n (c : Cp) : Nat := if c.sn = 0 then 1 else if c.sn = 1 then 4 else 8
def Cp.g (c : Cp) : Nat := 4 * 2 ^ c.group
def Cp.q (c : Cp) : Nat := c.w / c.g
def Cp.depth (c : Cp) : Nat := c.w * c.n
/-- K; for a scale matrix, 32 for each column (DESIGN CHOICE, log entry 29). -/
def Cp.k (c : Cp) : Nat := if c.skew = 3 then 32 * c.cols else c.cols
def Cp.mp (c : Cp) : Nat := max c.rows c.w
def Cp.kc (c : Cp) : Nat := ceilDiv c.k c.depth
def Cp.pm (c : Cp) : Nat := c.kc * c.nt * c.mp
def Cp.lines (c : Cp) : Nat := c.pm + c.q - 1
/-- Bytes of one group in a line. -/
def Cp.part (c : Cp) : Nat := if c.skew = 3 then ceilDiv (c.g * c.n) 32 else c.g * c.n * elemBits c.dst.fmt / 8
def Cp.lineBytes (c : Cp) : Nat := c.q * c.part

/-- The byte ranges of the two sides, lowest and highest byte (R284). -/
def Cp.srcExtent (c : Cp) : Int × Int := extent c.src.addr c.rows c.ss c.srcRow
def Cp.dstExtent (c : Cp) : Int × Int :=
  if c.skew = 0 then extent c.dst.addr c.rows c.ds c.dstRow else (c.dst.addr, (c.dst.addr : Int) + c.lines * c.lineBytes - 1)

/-! Checks of a COPY. -/

/-- A side is aligned: its address in HBM or bench, and its stride (R284). -/
def sideAligned (o : Operand) (stride : Int) : Bool :=
  let w := max 1 (elemBits o.fmt / 8)
  o.space == 3 || (o.addr % w == 0 && stride % (w : Int) == 0)

/-- An ACC side is used as R284 states, with a tile that exists. -/
def accSide (c : Cp) (o : Operand) (stride : Int) : Bool :=
  o.space != 3 || (c.rows == 32 && c.cols == 32 && c.skew == 0 && stride == 0 && decide (o.addr < 8))

/-- A COPY that R163, R166, R171, R284, R286 and R288 take. With SKEW = NONE the skew's own fields are unused and must be zero,
SK_NT too (DESIGN CHOICE, log entry 49: Table 7-9 gives SK_NT 1 to 1,048,575). -/
def dmaCopyGood (t : Nat) (ws : List Word) : Bool :=
  let c := copyOf ws
  let spaces := [c.src.space, c.dst.space]
  let saddleSpace := spaces.any fun x => x == 2 || x == 3
  dField ws 56 44 20 == 0 && dField ws 64 48 16 == 0 && dField ws 72 48 16 == 0 && dField ws 80 20 36 == 0
    && (List.range 5).all (fun i => dWord ws (88 + 8 * i) == 0)
    && dHist ws == 0 && decide (dStoreMode ws ≤ 1) && dField ws 32 56 4 == 0 && (c.converts || dExec ws == 0)
    && c.src.fine && c.dst.fine && spaces.all (fun x => decide (1 ≤ x ∧ x ≤ 3)) && saddleSpace == decide (t < 300)
    && c.rows != 0 && c.cols != 0 && accSide c c.src c.ss && accSide c c.dst c.ds
    && (c.converts || (c.src.fmt == c.dst.fmt && (c.src.fmt == 0 || isBlock c.src.fmt)))
    && (c.dst.space != 3 || (accFmtOf c.dst.fmt).isSome)
    && sideAligned c.src c.ss && sideAligned c.dst c.ds
    && (c.cols * elemBits c.src.fmt) % 8 == 0 && (c.cols * elemBits c.dst.fmt) % 8 == 0
    && decide (c.skew ≤ 3) && c.group != 3 && c.sn != 3
    && (if c.skew = 0 then dWord ws 80 == 0 else c.ds == 0 && c.nt != 0 && c.src.space != 3 && c.dst.space != 3)
    && (c.skew != 1 || (c.sn == 0 && !isNarrow c.src.fmt && !isNarrow c.dst.fmt))
    && (c.skew != 2 || (isNarrow c.src.fmt && c.sn == (if 14 ≤ c.src.fmt then 2 else 1)))
    && (c.skew != 3 || c.src.fmt == 0)

/-- A range leaves its space (R284). -/
def offSpace (o : Operand) (e : Int × Int) : Bool :=
  match o.space with
  | 1 => decide (e.1 < 0 ∨ (hbmSize : Int) ≤ e.2)
  | 2 => decide (e.1 < 0 ∨ (benchSize : Int) ≤ e.2)
  | _ => false

def rangesMeet (a b : Int × Int) : Bool := decide (a.1 ≤ b.2 ∧ b.1 ≤ a.2)

/-- Both sides lie in one space and overlap (R284). -/
def copyOverlaps (c : Cp) : Bool :=
  c.src.space == c.dst.space
    && (if c.src.space = 3 then c.src.addr == c.dst.addr else rangesMeet c.srcExtent c.dstExtent)

/-- Its own issue checks (R59, R284, R288), the lowest code first (DESIGN CHOICE, log entry 25). -/
def copyIssue (ws : List Word) : Option Nat :=
  let c := copyOf ws
  if dStoreMode ws = 1 ∧ ¬ stochAllowed c.dst.fmt then some 0x16
  else if offSpace c.src c.srcExtent ∨ offSpace c.dst c.dstExtent then some 0x20
  else if copyOverlaps c then some 0x25
  else if (c.skew = 2 ∨ c.skew = 3) ∧ c.sn = 1 ∧ c.group = 0 then some 0x26
  else none

/-- The bench ranges of a COPY (R168). -/
def dmaCopyRanges (ws : List Word) : List Range :=
  let c := copyOf ws
  let of := fun (o : Operand) (e : Int × Int) => if o.space = 2 then [(e.1.toNat, (e.2 + 1 - e.1).toNat)] else []
  of c.src c.srcExtent ++ of c.dst c.dstExtent

/-! Moving. -/

/-- What a stretch of a row becomes: destination bytes and flags; `base` is the element term of its first element. -/
def convertRow (c : Cp) (mode : StoreMode) (base : Nat) (bs : Bytes) : Bytes × StoreFlags :=
  if c.converts then
    let outs := (codesOf (elemBytes c.src.fmt) bs).zipIdx.map fun z : Nat × Nat =>
      convertCode c.dst.fmt (mode.at (base + z.2)) (valueOf c.src.fmt z.1)
    (bytesOf (elemBytes c.dst.fmt) (outs.map Prod.fst), outs.foldl (fun (a : StoreFlags) z => a.or z.2) {})
  else (bs, {})

/-- What a COPY has come to: the state, its flags, and where and how it met a fault (a row, or a line of a stream). -/
structure CopyOut where
  s : State
  fl : StoreFlags
  bad : Option (Nat × Bad)
  deriving DecidableEq, Repr

/-- The bytes of a tile's row in its format. -/
def tileRowBytes (s : State) (t : Nat) (o : Operand) (i : Nat) : Bytes :=
  bytesOf (elemBytes o.fmt) ((List.range 32).map fun j => tileSlot s t o.addr i j)

/-- Put a row of codes into a tile. -/
def putTileRow (s : State) (t : Nat) (o : Operand) (i : Nat) (bs : Bytes) : State :=
  let y := s.saddle t
  s.setSaddle t { y with tiles := (codesOf (elemBytes o.fmt) bs).zipIdx.foldl (fun m z =>
    sset 0 m (1024 * o.addr + 32 * i + z.2) (BitVec.ofNat 64 z.1)) y.tiles }

/-- Move row i (R287). -/
def moveRow (t : Nat) (c : Cp) (mode : StoreMode) (i : Nat) (o : CopyOut) : CopyOut :=
  let got := if c.src.space = 3 then (Except.ok (tileRowBytes o.s t c.src i), o.s)
    else dmaRead t c.src ((c.src.addr : Int) + i * c.ss).toNat c.srcRow o.s
  match got with
  | (.error e, s1) => { o with s := s1, bad := some (i, e) }
  | (.ok bs, s1) =>
    let (out, fl) := convertRow c mode (i * c.cols) bs
    if c.dst.space = 3 then { o with s := putTileRow s1 t c.dst i out, fl := o.fl.or fl }
    else match dmaWrite t c.dst ((c.dst.addr : Int) + i * c.ds).toNat out s1 with
      | (.error e, s2) => { o with s := s2, bad := some (i, e) }
      | (.ok _, s2) => { o with s := s2, fl := o.fl.or fl }

def moveRows (t : Nat) (c : Cp) (mode : StoreMode) : List Nat → CopyOut → CopyOut
  | [], o => o
  | i :: is, o => if o.bad.isSome then o else moveRows t c mode is (moveRow t c mode i o)

/-- Pad bytes with zeros to a length. -/
def padTo (n : Nat) (bs : Bytes) : Bytes := bs.take n ++ List.replicate (n - bs.length) 0

/-- The parts that a row gives the groups of a pass, group 0 first (R288, R289); flags of its conversion. -/
def rowParts (c : Cp) (mode : StoreMode) (m k0 : Nat) (bs : Bytes) : List Bytes × StoreFlags :=
  if c.skew = 3 then
    ((List.range c.q).map fun j => padTo c.part (bs.drop ((k0 + c.n * j * c.g) / 32 - k0 / 32)), {})
  else
    let (out, fl) := convertRow c mode (m * c.cols + k0) bs
    ((List.range c.q).map fun j => padTo c.part (out.drop (j * c.part)), fl)

/-- First byte and bytes that a row gives a pass with first depth k0. -/
def rowPiece (c : Cp) (k0 : Nat) : Nat × Nat :=
  if c.skew = 3 then (k0 / 32, min c.cols ((k0 + c.n * (c.q - 1) * c.g) / 32 + c.part) - k0 / 32)
  else (k0 * elemBits c.src.fmt / 8, (min c.depth (c.k - k0)) * elemBits c.src.fmt / 8)

/-- Read what enters the stream at a line: the parts of one row of one pass; none for filler. -/
def readParts (t : Nat) (c : Cp) (mode : StoreMode) (u : Nat) (s : State) : Except Bad (Option (List Bytes) × StoreFlags) × State :=
  let m := u % c.mp
  let k0 := c.depth * (u / c.mp % c.kc)
  if c.pm ≤ u ∨ c.rows ≤ m then (.ok (none, {}), s)
  else
    let p := rowPiece c k0
    match dmaRead t c.src ((c.src.addr : Int) + m * c.ss + p.1).toNat p.2 s with
    | (.error e, s1) => (.error e, s1)
    | (.ok bs, s1) => let (ps, fl) := rowParts c mode m k0 bs; (.ok (some ps, fl), s1)

/-- The bytes of a line: group j takes its part of what entered j lines before. -/
def lineOfParts (c : Cp) (win : List (Option (List Bytes))) : Bytes :=
  (List.range c.q).flatMap fun j =>
    match win.getD j none with
    | some ps => ps.getD j []
    | none => List.replicate c.part 0

/-- Write the lines of a stream in order (R288, R289); `fuel` counts the lines left. -/
def moveLines (t : Nat) (c : Cp) (mode : StoreMode) : Nat → List (Option (List Bytes)) → CopyOut → CopyOut
  | 0, _, o => o
  | fuel + 1, win, o =>
    let l := c.lines - (fuel + 1)
    match readParts t c mode l o.s with
    | (.error e, s1) => { o with s := s1, bad := some (l, e) }
    | (.ok (ps, fl), s1) =>
      let win1 := (ps :: win).take c.q
      match dmaWrite t c.dst (c.dst.addr + l * c.lineBytes) (lineOfParts c win1) s1 with
      | (.error e, s2) => { o with s := s2, bad := some (l, e) }
      | (.ok _, s2) => moveLines t c mode fuel win1 { o with s := s2, fl := o.fl.or fl }

/-- What a COPY has read with DISCARD, row by row, leaves the slices (R260). -/
def copyDiscard (c : Cp) (s : State) : State :=
  (List.range c.rows).foldl (fun s (i : Nat) => dmaDiscard c.src ((c.src.addr : Int) + i * c.ss).toNat c.srcRow s) s

/-- Move everything a COPY moves. -/
def moveAll (t : Nat) (c : Cp) (mode : StoreMode) (s : State) : CopyOut :=
  if c.skew = 0 then moveRows t c mode (List.range c.rows) ⟨s, {}, none⟩ else moveLines t c mode c.lines [] ⟨s, {}, none⟩

/-- What a fault at a row or line leaves undefined (R287, R289); a tile that was being written is INVALID (R97). -/
def copySpoil (t : Nat) (c : Cp) (at' : Nat) (s : State) : State :=
  if c.dst.space = 3 then invalidate s t [c.dst.addr]
  else if c.skew = 0 then
    (List.range (c.rows - at')).foldl (fun s i => spoil t c.dst ((c.dst.addr : Int) + (at' + i : Nat) * c.ds).toNat c.dstRow s) s
  else spoil t c.dst (c.dst.addr + at' * c.lineBytes) ((c.lines - at') * c.lineBytes) s

/-- The fault of a tile that a COPY reads (R97, R171): nothing is written then. -/
def copyTileFault (s : State) (t : Nat) (c : Cp) : Option Nat :=
  if c.src.space ≠ 3 then none
  else if some (tileFmt s t c.src.addr) ≠ accFmtOf c.src.fmt then some 0x12
  else if tileFlag s t c.src.addr 3 then some 0x14
  else none

/-- Where the generator of a DMA engine logs a seed that disagrees (R353). -/
def dmaSrc (t : Nat) : Src := if t < 300 then srcSaddle t else srcDie (t - 300)

/-- A COPY may begin: no earlier descriptor on the saddle still has to read or write a tile it names (R171, R91, R115), and
no byte it moves lies on a locked stack (R273). -/
def copyMayStart (s : State) (t : Nat) (f : InFlight) : Bool :=
  let c := copyOf f.words
  (decide (300 ≤ t) || (tilesClear s t f && !((copyTiles f.words).any fun x => tileFlag s t x 4)))
    && !rangeLocked s c.src c.srcExtent.1.toNat (c.srcExtent.2 + 1 - c.srcExtent.1).toNat
    && !rangeLocked s c.dst c.dstExtent.1.toNat (c.dstExtent.2 + 1 - c.dstExtent.1).toNat

/-- Run-ahead of a COPY is over (R190). -/
def dropPrefetch (s : State) (t slot : Nat) : State :=
  s.setStir t { s.stir t with prefetched := (s.stir t).prefetched.filter (· != slot) }

/-- COPY (R283 to R289). -/
def execCopy (t : Fin 304) (s : State) : Out :=
  match oldest s t.val 0x20 .issued with
  | none => disabled "COPY"
  | some f =>
    let c := copyOf f.words
    if ¬ copyMayStart s t.val f then disabled "COPY"
    else
      let s0 := dropPrefetch s t.val f.slot
      match copyTileFault s0 t.val c with
      | some code => .next (endFlight s0 t.val f (some (code, 0)) 0)
      | none =>
        match storeModeOf s0 f.words f.step with
        | .error p => .next (endFlight (copySpoil t.val c 0 (logComplement s0 (dmaSrc t.val) 7 p.1 p.2)) t.val f (some (ftSeed, 0)) 0)
        | .ok mode =>
          let s1 := if c.dst.space = 3 then openTile s0 t.val c.dst.addr (accFmtOf c.dst.fmt) else s0
          let o := moveAll t.val c mode s1
          match o.bad with
          | some (i, e) => .next (endFlight (copySpoil t.val c i o.s) t.val f (some e) o.fl.bits)
          | none =>
            let s2 := copyDiscard c o.s
            let s3 := if c.dst.space = 3 then addTileStf s2 t.val c.dst.addr o.fl.bits else s2
            .next (endFlight s3 t.val f none o.fl.bits)

/-! GATHER (Table 6-8). -/

structure Ga where
  src : Operand
  idx : Operand
  dst : Operand
  bytes : Nat
  sources : Nat
  count : Nat
  deriving DecidableEq, Repr

def gatherOf (ws : List Word) : Ga :=
  { src := dRef ws 40, idx := dRef ws 48, dst := dRef ws 56, bytes := dField ws 64 48 16, sources := dField ws 64 0 40
    count := dField ws 72 0 24 }

/-- A GATHER that R166 and R242 take. -/
def gatherGood (ws : List Word) : Bool :=
  let g := gatherOf ws
  let side := fun (o : Operand) (fmt : Nat) => o.fine && (o.space == 1 || o.space == 2) && o.fmt == fmt
  dExec ws == 0 && dField ws 64 40 8 == 0 && dField ws 72 24 40 == 0 && (List.range 6).all (fun i => dWord ws (80 + 8 * i) == 0)
    && side g.src 0 && side g.idx 7 && side g.dst 0

/-- The three ranges of a GATHER: operand, first byte and length. -/
def gatherSides (ws : List Word) : List (Operand × Range) :=
  let g := gatherOf ws
  [(g.src, (g.src.addr, g.sources * g.bytes)), (g.idx, (g.idx.addr, 4 * g.count)), (g.dst, (g.dst.addr, g.count * g.bytes))]

def gatherRanges (ws : List Word) : List Range :=
  ((gatherSides ws).filter fun z : Operand × Range => z.1.space == 2).map Prod.snd

def meets (a b : Operand × Range) : Bool :=
  a.1.space == b.1.space && decide (a.2.1 < b.2.1 + b.2.2 ∧ b.2.1 < a.2.1 + a.2.2)

/-- A range ends past its space. -/
def pastSpace (z : Operand × Range) : Bool :=
  decide ((if z.1.space = 1 then hbmSize else benchSize) < z.2.1 + z.2.2)

/-- Its own issue checks (R243, R252), the lowest code first (DESIGN CHOICE, log entry 25). -/
def gatherIssue (t : Nat) (ws : List Word) : Option Nat :=
  let g := gatherOf ws
  let sides := gatherSides ws
  let dst := sides.getD 2 (g.dst, (0, 0))
  if g.bytes < 8 ∨ 32768 < g.bytes ∨ g.bytes % 8 ≠ 0 ∨ g.sources = 0 ∨ g.count = 0 ∨ (300 ≤ t ∧ sides.any fun z => z.1.space == 2) then
    some 0x02
  else if sides.any pastSpace then some 0x20
  else if (sides.take 2).any fun z => meets z dst then some 0x2E
  else none

/-! Groups. -/

/-- What reading or writing for a group has met: nothing, a resolvable exception, the lowest element that met one, or an
unresolvable one at an element (fault code, CAUSE). -/
inductive Met where
  | good
  | resolvable (element : Nat)
  | bad (element code cause : Nat)
  deriving DecidableEq, Repr

/-- Keep the lowest unresolvable exception; it comes before a resolvable one (R246). -/
def Met.join (a b : Met) : Met :=
  match a, b with
  | .bad e c x, .bad e' c' x' => if e' < e then .bad e' c' x' else .bad e c x
  | .bad e c x, _ => .bad e c x
  | _, .bad e c x => .bad e c x
  | .resolvable e, .resolvable e' => .resolvable (min e e')
  | .resolvable e, _ | _, .resolvable e => .resolvable e
  | _, _ => .good

/-- CAUSE of a failed access (Table 6-6), and the code it gives a GATHER. -/
def gatherCause (e : Bad) : Nat × Nat := if e.1 = 0x0B then (0x0B, 0) else if e.1 = 0x24 then (0x2F, 2) else (0x2F, 1)

/-- A range has a resolvable exception: a locked stack or a bridge transfer error (Table 6-6). A bench word to correct is one for a
vector load only (R267). -/
def resolvableIn (s : State) (t : Nat) (o : Operand) (a n : Nat) : Bool :=
  o.space == 1 && (rangeLocked s o a n || (linesOf a n).any fun l => sget false s.mem.bridgeErr l) && (denied s (dmaClass t) false a n).isNone

/-- Move the element of one index (R244). -/
def moveElement (t : Nat) (g : Ga) (i index : Nat) (told : Bool) (s : State) : Met × State :=
  let a := g.src.addr + index * g.bytes
  let d := g.dst.addr + i * g.bytes
  if g.sources ≤ index then (.bad i 0x2F 3, s)
  else if resolvableIn s t g.src a g.bytes ∨ rangeLocked s g.dst d g.bytes then (.resolvable i, s)
  else match dmaRead t g.src a g.bytes s told with
    | (.error e, s1) => (.bad i (gatherCause e).1 (gatherCause e).2, s1)
    | (.ok bs, s1) =>
      match dmaWrite t g.dst d bs s1 told with
      | (.error e, s2) => (.bad i (gatherCause e).1 (gatherCause e).2, s2)
      | (.ok _, s2) => (.good, s2)

/-- A denial has been met, and so logged. -/
def Met.denial : Met → Bool
  | .bad _ _ c => c == 2
  | _ => false

/-- Move elements in order; a descriptor logs its first denial only (R281). -/
def moveElements (t : Nat) (g : Ga) : List (Nat × Nat) → Bool → Met × State → Met × Bool × State
  | [], told, (m, s) => (m, told, s)
  | (i, x) :: rest, told, (m, s) =>
    let (m1, s1) := moveElement t g i x told s
    moveElements t g rest (told || m1.denial) (m.join m1, s1)

/-- Run group j: its indices, then its elements (R244); with it, whether the descriptor has logged a denial. -/
def runGroup (t : Nat) (g : Ga) (j : Nat) (told : Bool) (s : State) : Met × Bool × State :=
  let n := min 16 (g.count - 16 * j)
  let a := g.idx.addr + 64 * j
  match (List.range n).find? fun i => resolvableIn s t g.idx (a + 4 * i) 4 with
  | some i => (.resolvable (16 * j + i), told, s)
  | none =>
    match dmaRead t g.idx a (4 * n) s told with
    | (.error e, s1) =>
      let first := match e.1 with
        | 0x0B => 0
        | _ => (max a (field e.2 0 48) - a) / 4
      let m := Met.bad (16 * j + min first (n - 1)) (gatherCause e).1 (gatherCause e).2
      (m, told || m.denial, s1)
    | (.ok bs, s1) => moveElements t g ((codesOf 4 bs).zipIdx.map fun z => (16 * j + z.2, z.1)) told (.good, s1)

/-- The lower of two bad elements. -/
def lowerBad (a : Option (Nat × Nat × Nat)) (b : Nat × Nat × Nat) : Option (Nat × Nat × Nat) :=
  match a with
  | none => some b
  | some x => if b.1 < x.1 then some b else some x

/-- Put what a group has come to into its run; `tries` counts its restarts (R245, R246). -/
def noteGroup (t j tries : Nat) (z : Met × Bool × State) (r : GatherRun) : GatherRun × State :=
  let r1 := { r with told := z.2.1 }
  match z.1 with
  | .good => (r1, z.2.2.countWrap .dspGatherStat t 0 0 40 1)
  | .resolvable e =>
    if 8 ≤ tries then ({ r1 with bad := lowerBad r.bad (e, 0x2F, 4) }, z.2.2)
    else ({ r1 with held := r.held ++ [(j, tries)] }, z.2.2)
  | .bad e c x => ({ r1 with bad := lowerBad r.bad (e, c, x) }, z.2.2)

/-- Start groups in order, eight in flight at most, none above one that met an unresolvable exception; `fuel` bounds the
groups. -/
def startGroups (t : Nat) (g : Ga) : Nat → GatherRun × State → GatherRun × State
  | 0, z => z
  | fuel + 1, (r, s) =>
    if r.bad.isSome ∨ 8 ≤ r.held.length ∨ ceilDiv g.count 16 ≤ r.next then (r, s)
    else startGroups t g fuel (noteGroup t r.next 0 (runGroup t g r.next r.told s) { r with next := r.next + 1 })

def sameGather (a b : GatherRun) : Bool := a.slot == b.slot && a.step == b.step

def State.gathersOf (s : State) (t : Nat) : List GatherRun := sget [] s.d.gathers t
def State.setGathers (s : State) (t : Nat) (rs : List GatherRun) : State :=
  { s with d := { s.d with gathers := sset [] s.d.gathers t rs } }

/-- n indices from index i on, as they stand. -/
def indices (s : State) (t : Nat) (g : Ga) (i n : Nat) : List Nat :=
  let a := g.idx.addr + 4 * i
  codesOf 4 (if g.idx.space = 2 then s.benchRaw t a (4 * n) else s.bytesAt a (4 * n))

/-- What a completed GATHER has read with DISCARD leaves the slices (R260). -/
def gatherDiscard (s : State) (t : Nat) (g : Ga) : State :=
  let xs := if g.src.space = 1 ∧ (hintOf g.src.hint).discard then indices s t g 0 g.count else []
  xs.foldl (fun s x => dmaDiscard g.src (g.src.addr + x * g.bytes) g.bytes s) (dmaDiscard g.idx g.idx.addr (4 * g.count) s)

/-- Keep a run; it ends when no group is left that must still complete (R246). -/
def keepGather (t : Nat) (f : InFlight) (z : GatherRun × State) : State :=
  let (r, s) := z
  let g := gatherOf f.words
  let below := match r.bad with
    | some b => r.held.filter fun h : Nat × Nat => decide (h.1 < b.1 / 16)
    | none => r.held
  let others := (s.gathersOf t).filter fun x : GatherRun => !sameGather x r
  if below ≠ [] ∨ (r.bad.isNone ∧ r.next < ceilDiv g.count 16) then
    s.setGathers t ((s.gathersOf t).map fun x : GatherRun => if sameGather x r then { r with held := below } else x)
  else
    let s1 := s.setGathers t others
    match r.bad with
    | none => endFlight (gatherDiscard s1 t g) t f none 0
    | some (e, c, x) =>
      let lo := e / 16 * 16
      let s2 := spoil t g.dst (g.dst.addr + lo * g.bytes) ((g.count - lo) * g.bytes) s1
      endFlight s2 t f (some (c, if c = 0x0B then 0 else place 56 8 x ||| place 0 32 e)) 0

/-- GATHER (R242 to R246): its groups run until they are done or held. -/
def execGather (t : Fin 304) (s : State) : Out :=
  match oldest s t.val 0x21 .issued with
  | none => disabled "GATHER"
  | some f =>
    let h := { f with phase := Phase.executing }
    let r : GatherRun := { slot := f.slot, step := f.step }
    let s1 := (putFlight s t.val f h).setGathers t.val (s.gathersOf t.val ++ [r])
    let g := gatherOf f.words
    .next (keepGather t.val h (startGroups t.val g (ceilDiv g.count 16) (r, s1)))

/-- What a range of a group's reads waits for has come: its bridge transfers are repeated (R237). -/
def fixRange (o : Operand) (a n : Nat) (s : State) : State :=
  if o.space = 2 then s
  else { s with mem := { s.mem with bridgeErr := (linesOf a n).foldl (fun m l => sset false m l false) s.mem.bridgeErr } }

/-- The resolvable exceptions of a group's reads have resolved. -/
def fixGroup (s : State) (t : Nat) (g : Ga) (j : Nat) : State :=
  let n := min 16 (g.count - 16 * j)
  let s1 := fixRange g.idx (g.idx.addr + 64 * j) (4 * n) s
  (indices s1 t g (16 * j) n).foldl (fun s x => if x < g.sources then fixRange g.src (g.src.addr + x * g.bytes) g.bytes s else s) s1

/-- A range of a group's accesses still lies on a locked stack. -/
def groupLocked (s : State) (t : Nat) (g : Ga) (j : Nat) : Bool :=
  let n := min 16 (g.count - 16 * j)
  let a := g.idx.addr + 64 * j
  rangeLocked s g.idx a (4 * n) || rangeLocked s g.dst (g.dst.addr + 16 * j * g.bytes) (n * g.bytes)
    || (indices s t g (16 * j) n).any fun x => rangeLocked s g.src (g.src.addr + x * g.bytes) g.bytes

/-- The first held group, of some GATHER of a stirrup, whose exceptions have resolved. -/
def readyGroup (s : State) (t : Nat) : Option (GatherRun × InFlight × Nat × Nat) :=
  (s.gathersOf t).findSome? fun r : GatherRun =>
    match (s.stir t).flight.find? fun f : InFlight => f.slot == r.slot && f.step == r.step && dOpcode f.words == 0x21 with
    | none => none
    | some f => (r.held.find? fun h : Nat × Nat => !groupLocked s t (gatherOf f.words) h.1).map fun h => (r, f, h.1, h.2)

/-- GATHER_GROUP_RESTART (R245): a held group runs again from its index read. -/
def execGatherGroupRestart (t : Fin 304) (s : State) : Out :=
  match readyGroup s t.val with
  | none => disabled "GATHER_GROUP_RESTART"
  | some (r, f, j, tries) =>
    let g := gatherOf f.words
    let s1 := (fixGroup s t.val g j).countWrap .dspGatherStat t.val 0 40 24 1
    let r1 := { r with held := r.held.filter fun h : Nat × Nat => h.1 != j }
    let z := noteGroup t.val j (tries + 1) (runGroup t.val g j r1.told s1) r1
    .next (keepGather t.val f (startGroups t.val g (ceilDiv g.count 16) z))

end Sys2Proof.Machine
end

