-- ==== Sys2Proof/Machine/Update.lean ====
section
/-! DEFINITION. Parameter update (R333 to R352): the UPDATE descriptor, trips of burnishers and of girths, freeze masks, and
gradient norm partials. -/

namespace Sys2Proof.Machine

/-! Trips, whichever unit executes them. -/

/-- A fault of a binding: its code, CAUSE or vector fault code, and element offset (R352); and the access that a protection region
denied, which is logged once for the whole descriptor (R281). -/
structure BindFault where
  code : Nat
  cause : Nat := 0
  element : Nat := 0
  denied : Option MemErr := none
  deriving DecidableEq, Repr

/-- DETAIL of an update fault (R352). -/
def updDetail (index : Nat) (e : BindFault) : Word := place 56 8 e.cause ||| place 40 8 index ||| place 0 40 e.element

/-- CAUSE of a failed access of an update unit (Table 6-6), and the address it concerns. -/
def memCause : MemErr → Nat × Nat
  | .range _ => (2, 0)
  | .protect a _ _ => (2, a)
  | .uncorrectable a | .badTag a | .poison a => (1, a)

/-- The fault of a failed access of an update unit at an element offset (R352). -/
def memFault (e : MemErr) (element : Nat) : BindFault :=
  { code := 0x3C, cause := (memCause e).1, element := element, denied := match e with | .protect _ _ _ => some e | _ => none }

/-- Log the denied access of a fault, if it has one (R281). -/
def noteFault (s : State) (e : BindFault) : State :=
  match e.denied with
  | some m => noteErr s .upd m
  | none => s

/-- Of two faults the one at the lower element offset counts; a denied access of either is kept. -/
def lowerFault (e f : BindFault) : BindFault :=
  if f.element < e.element then { f with denied := f.denied <|> e.denied } else { e with denied := e.denied <|> f.denied }

/-- Read a window of an operand, n units of w bytes from unit e0 on, each of which stands for `per` elements: the units, or
what failed (R336, R352). -/
def windowRead (o : Operand) (w per e0 n : Nat) (s : State) : Except BindFault (List Nat) × State :=
  if o.absent ∨ n = 0 then (.ok [], s)
  else
    let a := o.addr + e0 * w
    match memRead s .upd (hintOf o.hint) a (n * w) with
    | (.error e, s1) => (.error (memFault e ((max (memCause e).2 a - o.addr) / w * per)), s1)
    | (.ok bs, s1) => (.ok (codesOf w bs), s1)

/-- Windows to read: operand, unit width, elements for each unit, first unit, units. -/
abbrev Window := Operand × Nat × Nat × Nat × Nat

/-- Read windows; of several that fail, the lowest element offset counts. -/
def readWindows : List Window → State → Except BindFault (List (List Nat)) × State
  | [], s => (.ok [], s)
  | (o, w, per, e0, n) :: rest, s =>
    let (x, s1) := windowRead o w per e0 n s
    let (y, s2) := readWindows rest s1
    match x, y with
    | .ok cs, .ok more => (.ok (cs :: more), s2)
    | .error e, .ok _ => (.error e, s2)
    | .ok _, .error f => (.error f, s2)
    | .error e, .error f => (.error (lowerFault e f), s2)

/-- Elements of trip i of a binding, on a unit of vl lanes. -/
def tripCount (b : Binding) (vl i : Nat) : Nat := min vl (b.count - vl * i)

/-- The windows of trip i (R335, R336, R341): tensors T0 to T5, block mask, element mask. -/
def tripWindows (b : Binding) (vl i : Nat) : List Window :=
  let m := tripCount b vl i
  (b.tensors.zipIdx.map fun z : Operand × Nat =>
      let per := if b.perblk.testBit z.2 then 32 else 1
      (z.1, elemBytes z.1.fmt, per, vl * i / per, ceilDiv m per))
    ++ [(b.bmask, 1, 256, vl * i / 256, ceilDiv m 256), (b.emask, 1, 8, vl * i / 8, ceilDiv m 8)]

/-- Bit k of a string of mask bytes; clear where there is no mask. -/
def maskBit (bytes : List Nat) (k : Nat) : Bool := (bytes.getD (k / 8) 0).testBit (k % 8)

/-- p7 of a trip (R341). -/
def liveMask (b : Binding) (vl i : Nat) (bm em : List Nat) : List Bool :=
  (List.range vl).map fun e =>
    decide (vl * i + e < b.count) && !maskBit bm (vl * i % 256 / 32 + e / 32) && !maskBit em e

/-- The context of an update kernel (Table 9-2). -/
def updCtx (b : Binding) (slot : Nat) (step : Word) (vl : Nat) : VecCtx :=
  { slot := slot, step := step, kernel := b.kernel, trips := ceilDiv b.count vl, elemBase := b.elemBase, mode := b.storeMode
    stream := b.stream, layer := b.layer, mirror := b.mirror, count := b.count
    formats := b.tensors.map fun o : Operand => if o.absent then 0 else o.fmt
    perblk := b.perblk, gradFmt := b.gradFmt }

/-- The unit at the start of an update kernel (R217, Table 9-2). -/
def startUpd (c : VecCtx) (hyper : Bytes) : Vec :=
  let hs := bytesWords 14 hyper
  let ss := hs ++ List.replicate (14 - hs.length) 0 ++ [c.step, BitVec.ofNat 64 c.count]
  { ctx := c, running := true, sr := sparse 0 0 ss }

/-- The fault of an update kernel that has stopped (R334, R352, R357). -/
def kernelFault (x : Vec) : Option BindFault :=
  x.fault.map fun f : VecFault => if f.code = ftSeed then { code := ftSeed } else { code := 0x3B, cause := f.code }

/-- Group elements with rising indices into runs of consecutive ones. -/
def runsOf : List (Nat × Nat) → List (Nat × List Nat)
  | [] => []
  | (k, c) :: rest =>
    match runsOf rest with
    | (j, cs) :: more => if j = k + 1 then (k, c :: cs) :: more else (k, [c]) :: (j, cs) :: more
    | [] => [(k, [c])]

/-- What a trip's stores leave in HBM: tensor, first element, codes (R336). -/
def tripRuns (x : Vec) : List (Nat × Nat × List Nat) :=
  (List.range 6).flatMap fun t =>
    let mine := x.stores.filter fun z : Nat × Nat × Nat => z.1 == t
    let m := mine.foldl (fun (m : List (Nat × Nat)) z => sput m z.2.1 z.2.2) []
    (runsOf m).map fun r => (t, r.1, r.2)

/-- The store at the lowest element offset that a protection region denies (R352). -/
def deniedStore (s : State) (b : Binding) (vl i : Nat) (rs : List (Nat × Nat × List Nat)) : Option (Nat × MemErr) :=
  let bad := rs.filterMap fun r =>
    let o := b.tensors.getD r.1 ⟨0, 0, 0, 0⟩
    let w := elemBytes o.fmt
    let per := if b.perblk.testBit r.1 then 32 else 1
    (denied s .upd true (o.addr + (vl * i / per + r.2.1) * w) (r.2.2.length * w)).map fun z =>
      ((max z.1 o.addr - o.addr) / w * per, MemErr.protect z.1 z.2 true)
  bad.foldl (fun (m : Option (Nat × MemErr)) x =>
    match m with
    | some y => if x.1 < y.1 then some x else some y
    | none => some x) none

/-- UPD_FRONT advances to a step whose update has started writing (R370, R380); a front that differs from its complement stays as it
is, with its event (R29). -/
def advanceFront (s : State) (step : Word) : State :=
  if ¬ regHeld s .updFront then noteHeld s [.updFront]
  else if (step - s.reg .updFront 0 0).toInt ≤ 0 then s else s.setPair .updFront .updFrontInv 0 step

/-- Write a trip's stores back (R336); in a dry replay nothing is written (R390). -/
def writeBack (s : State) (b : Binding) (vl i : Nat) (step : Word) (x : Vec) : Except BindFault Unit × State :=
  let rs := tripRuns x
  if s.a.dry.isSome ∨ rs.isEmpty then (.ok (), s)
  else match deniedStore s b vl i rs with
    | some (e, m) => (.error (memFault m e), s)
    | none =>
      let put := fun (s : State) (r : Nat × Nat × List Nat) =>
        let o := b.tensors.getD r.1 ⟨0, 0, 0, 0⟩
        let w := elemBytes o.fmt
        let per := if b.perblk.testBit r.1 then 32 else 1
        (memWrite s .upd (hintOf o.hint) (o.addr + (vl * i / per + r.2.1) * w) (bytesOf w r.2.2)).2
      (.ok (), rs.foldl put (advanceFront s step))

/-! Gradient norm partials (R351). -/

/-- The sum of the squares of a trip's gradient, over vl leaves. -/
def normPart (b : Binding) (vl : Nat) (grad : List Nat) : Nat :=
  let sq := grad.map fun g => let x := fround .fp64 (valueOf b.gradFmt g); some (fmulc .fp64 x x)
  (tree (faddc .fp64) (sq ++ List.replicate (vl - grad.length) none)).getD 0

/-- A trip's part joins its segment; a segment with every part is written (R351). -/
def noteNorm (s : State) (b : Binding) (bind : Nat) (step : Word) (vl i : Nat) (grad : List Nat) : Except BindFault Unit × State :=
  if b.norm.absent then (.ok (), s)
  else
    let here := fun (z : Nat × Word × Nat × Word) => z.1 == bind && z.2.1 == step
    let v := BitVec.ofNat 64 (normPart b vl grad)
    let all := (s.u.norms.filter fun z => !(here z && z.2.2.1 == i)) ++ [(bind, step, i, v)]
    let g := vl * i / 4096
    let first := g * 4096 / vl
    let need := ceilDiv (min 4096 (b.count - 4096 * g)) vl
    let parts := (List.range (4096 / vl)).map fun k =>
      (all.find? fun z => here z && z.2.2.1 == first + k).map fun z => z.2.2.2.toNat
    if (parts.filter Option.isSome).length < need then (.ok (), { s with u := { s.u with norms := all } })
    else
      let kept := all.filter fun z => !(here z && decide (first ≤ z.2.2.1 ∧ z.2.2.1 < first + 4096 / vl))
      let s1 := { s with u := { s.u with norms := kept } }
      let sum := BitVec.ofNat 64 ((tree (faddc .fp64) parts).getD 0)
      match memWrite s1 .upd (hintOf b.norm.hint) (b.norm.addr + 8 * g) (wordBytes sum) with
      | (some e, s2) => (.error (memFault e (4096 * g)), s2)
      | (none, s2) => (.ok (), s2)

/-! Opening a binding and executing its trips. -/

/-- The code of a binding's kernel, or UPD_NO_KERNEL (R339). -/
def bindCode (img : Bytes) (b : Binding) : Option VCode :=
  match findKernel img b.kernel with
  | some e => if e.kver = b.kver then some (codeOf img e) else none
  | none => none

/-- A binding opens: HYPER is read and the prologue runs (R334, R340). -/
def openBinding (u : VecUnit) (b : Binding) (code : VCode) (slot : Nat) (step : Word) (s : State) : Except BindFault Unit × State :=
  match windowRead b.hyper 1 0 0 112 s with
  | (.error e, s1) => (.error { e with element := 0 }, s1)
  | (.ok hs, s1) =>
    let x := startUpd (updCtx b slot step (unitLanes u)) (hs.map fun h => BitVec.ofNat 8 h)
    let r := runSection u code.pro 0 (enter 0 0 ⟨x, s1, 0, false⟩)
    match kernelFault r.x with
    | some e => (.error e, r.s.setVec u { r.x with running := false })
    | none => (.ok (), r.s.setVec u r.x)

/-- What a stage fill brings (R336): the gradient window, read from HBM unless it has landed, and the windows of the trip; of
several that fail, the lowest element offset counts (R352). -/
def fillStage (b : Binding) (vl i : Nat) (landed : Option (List Nat)) (s : State) :
    Except BindFault (List Nat × List (List Nat)) × State :=
  match landed with
  | some g =>
    match readWindows (tripWindows b vl i) s with
    | (.error e, s1) => (.error e, s1)
    | (.ok ws, s1) => (.ok (g, ws), s1)
  | none =>
    match readWindows ((b.grad, elemBytes b.gradFmt, 1, vl * i, tripCount b vl i) :: tripWindows b vl i) s with
    | (.error e, s1) => (.error e, s1)
    | (.ok ws, s1) => (.ok (ws.headD [], ws.tail), s1)

/-- Trip i of an open binding; `landed`: its gradient, where a landing buffer holds it (R336, R341, R351). -/
def runTrip (u : VecUnit) (b : Binding) (code : VCode) (bind : Nat) (step : Word) (i : Nat) (landed : Option (List Nat)) (s : State) :
    Except BindFault Unit × State :=
  let vl := unitLanes u
  match fillStage b vl i landed s with
  | (.error e, s1) => (.error e, s1)
  | (.ok (grad, ws), s1) =>
    let x := s1.vecOf u
    let stage := sparse [] 0 (ws.take 6)
    let x1 := setPreg { x with stage := stage, grad := grad, stores := [] } 7 (liveMask b vl i (ws.getD 6 []) (ws.getD 7 []))
    let r := runSection u code.body code.pro.length (enter 1 i ⟨x1, s1, 0, false⟩)
    let x2 := { r.x with stage := [], grad := [], stores := [] }
    match kernelFault r.x with
    | some e => (.error e, r.s.setVec u { x2 with running := false })
    | none =>
      match writeBack (r.s.setVec u x2) b vl i step r.x with
      | (.error e, s2) => (.error e, s2)
      | (.ok _, s2) => noteNorm s2 b bind step vl i grad

/-- The epilogue of a binding. -/
def closeBinding (u : VecUnit) (code : VCode) (s : State) : Except BindFault Unit × State :=
  let x := s.vecOf u
  let r := runSection u code.epi (code.pro.length + code.body.length) (enter 2 x.trip ⟨x, s, 0, false⟩)
  match kernelFault r.x with
  | some e => (.error e, r.s.setVec u { r.x with running := false })
  | none => (.ok (), r.s.setVec u { r.x with running := false })

/-! UPDATE (R343). -/

def dBind (ws : List Word) : Operand := dRef ws 40
def dBindCount (ws : List Word) : Nat := dField ws 48 0 9

/-- An UPDATE that R166 and R343 take. -/
def updateGood (ws : List Word) : Bool :=
  dExec ws == 0 && (dBind ws).fine && (dBind ws).space == 1 && (dBind ws).fmt == 0 && dField ws 48 9 55 == 0
    && decide (1 ≤ dBindCount ws ∧ dBindCount ws ≤ 256) && (List.range 9).all (fun i => dWord ws (56 + 8 * i) == 0)

/-- Its own issue checks (R252, R349), the lowest code first (DESIGN CHOICE, log entry 25). -/
def updateIssue (s : State) (ws : List Word) : Option Nat :=
  if hbmSize < (dBind ws).addr + 128 * dBindCount ws then some 0x20
  else if bit (s.reg .updCtrl 0 0) 0 then some 0x3D
  else none

def State.updQueue (s : State) (n : Nat) : List UpdWork := sget [] s.u.queues n
def State.setUpdQueue (s : State) (n : Nat) (ws : List UpdWork) : State :=
  { s with u := { s.u with queues := sset [] s.u.queues n ws } }

/-- Give a binding to the burnisher of the stack that holds T0's first byte. -/
def giveBinding (s : State) (w : UpdWork) : State :=
  let n := stackOf s ((bindingOf w.bytes).tensors.getD 0 ⟨0, 0, 0, 0⟩).addr
  s.setUpdQueue n (s.updQueue n ++ [w])

/-- UPDATE: the die stirrup reads the list and hands its bindings out (R343). -/
def execUpdate (d : Fin 4) (s : State) : Out :=
  let t := 300 + d.val
  match oldest s t 0x38 .issued with
  | none => disabled "UPDATE"
  | some f =>
    let o := dBind f.words
    let n := dBindCount f.words
    if hbmLocked s o.addr (128 * n) then disabled "UPDATE"
    else match memRead s .upd (hintOf o.hint) o.addr (128 * n) with
      | (.error e, s1) => .next (endFlight (noteErr s1 .upd e) t f (some (errFault e, errDetail e)) 0)
      | (.ok bs, s1) =>
        let ws := (List.range n).map fun i =>
          { die := d.val, slot := f.slot, index := i, bind := o.addr + 128 * i, bytes := (bs.drop (128 * i)).take 128
            step := f.step : UpdWork }
        .next (ws.foldl giveBinding (putFlight s1 t f { f with phase := .executing }))

/-! Burnishers. -/

def sameUpdate (a b : UpdWork) : Bool := a.die == b.die && a.slot == b.slot && a.step == b.step

/-- The UPDATE in flight of a binding. -/
def updFlight (s : State) (w : UpdWork) : Option InFlight :=
  (s.stir (300 + w.die)).flight.find? fun f : InFlight =>
    f.slot == w.slot && f.step == w.step && dOpcode f.words == 0x38 && f.phase == .executing

/-- A burnisher gives up its open binding. -/
def closeBurnisher (s : State) (m : Fin 32) : State :=
  let s1 := burnisherIdle s m.val
  s1.setVec (.burnisher m) { s1.vecOf (.burnisher m) with running := false }

/-- The next trip of an open binding, and its epilogue after the last: how it ended. -/
def burnStep (s : State) (n : Fin 32) (w : UpdWork) (b : Binding) (code : VCode) : Except BindFault Unit × State :=
  match runTrip (.burnisher n) b code w.bind w.step w.trips none s with
  | (.error e, s1) => (.error e, s1)
  | (.ok _, s1) =>
    let s2 := s1.countWrap .updBurnStat n.val 0 24 40 1
    if (w.trips + 1) * 256 < b.count then (.ok (), s2) else closeBinding (.burnisher n) code s2

/-- Burnisher m finishes the trip that it is executing when a binding of its UPDATE faults elsewhere (R345): an open binding of that
UPDATE, which no lock or closed gate holds up, executes its next trip. The fault it ends with, if one. -/
def lastTrip (w : UpdWork) (s : State) (m : Fin 32) : Option (Nat × BindFault) × State :=
  match s.updQueue m.val with
  | [] => (none, s)
  | y :: _ =>
    if ¬ sameUpdate y w ∨ y.trips = 0 ∨ ¬ s.m.gateOpen ∨ mirrorLocked s ∨ stackLocked s m.val then (none, s)
    else
      let b := bindingOf y.bytes
      match bindCode (s.bank (m.val / 8) y.bank).image b with
      | none => (some (y.index, { code := 0x3A }), s)
      | some code =>
        match burnStep s m y b code with
        | (.error e, s1) => (some (y.index, e), s1)
        | (.ok _, s1) => (none, s1)

/-- The other burnishers finish their trips, in order: the faults they end with. -/
def lastTrips (w : UpdWork) : List (Fin 32) → State → List (Nat × BindFault) × State
  | [], s => ([], s)
  | m :: ms, s =>
    let (x, s1) := lastTrip w s m
    let (xs, s2) := lastTrips w ms s1
    (x.toList ++ xs, s2)

/-- The fault of the lowest-numbered binding. -/
def lowestFault (x : Nat × BindFault) (xs : List (Nat × BindFault)) : Nat × BindFault :=
  xs.foldl (fun a y => if y.1 < a.1 then y else a) x

/-- The denied access that is logged for an UPDATE (R281): that of the lowest-numbered binding with one. -/
def deniedOf (xs : List (Nat × BindFault)) : Option MemErr :=
  match xs.filter fun x : Nat × BindFault => x.2.denied.isSome with
  | [] => none
  | x :: rest => (lowestFault x rest).2.denied

/-- A binding of an UPDATE has ended in a fault (R345): every other burnisher finishes the trip it is executing, no further trip or
binding of that UPDATE starts, and it faults with the code of the lowest-numbered binding that faulted. Of the accesses that were denied
one is logged (R281). -/
def failUpdate (s : State) (n : Fin 32) (w : UpdWork) (e : BindFault) : State :=
  let others := (List.finRange 32).filter fun m : Fin 32 => m ≠ n
  let (xs, s1) := lastTrips w others s
  let mine := n :: others.filter fun m : Fin 32 => match s1.updQueue m.val with
    | y :: _ => sameUpdate y w
    | [] => false
  let queues := (s1.u.queues.map fun q : Nat × List UpdWork =>
    (q.1, q.2.filter fun x : UpdWork => !sameUpdate x w)).filter fun q => !q.2.isEmpty
  let s2 := mine.foldl closeBurnisher { s1 with u := { s1.u with queues := queues } }
  let z := lowestFault (w.index, e) xs
  let s3 := match deniedOf ((w.index, e) :: xs) with
    | some m => noteErr s2 .upd m
    | none => s2
  match updFlight s3 w with
  | some f => endFlight s3 (300 + w.die) f (some (z.2.code, updDetail z.1 z.2)) 0
  | none => s3

/-- A binding is done; with the last one its UPDATE ends. -/
def doneBinding (s : State) (n : Nat) (w : UpdWork) : State :=
  let s1 := burnisherIdle (s.setUpdQueue n ((s.updQueue n).drop 1)) n
  if s1.u.queues.any fun q : Nat × List UpdWork => q.2.any fun x : UpdWork => sameUpdate x w then s1
  else match updFlight s1 w with
    | some f => endFlight s1 (300 + w.die) f none 0
    | none => s1

/-- The ranges of a binding (R338): operand and bytes. -/
def bindRanges (b : Binding) : List (Operand × Nat) :=
  (b.tensors.zipIdx.map fun z : Operand × Nat => (z.1, tensorBytes b z.2 z.1))
    ++ [(b.grad, b.count * elemBytes b.gradFmt), (b.bmask, ceilDiv b.count 256), (b.emask, b.count / 8), (b.hyper, 112),
      (b.norm, 8 * ceilDiv b.count 4096)]

/-- Every byte of a binding's ranges lies on one stack (R344). -/
def onStack (s : State) (n : Nat) (b : Binding) : Bool :=
  (bindRanges b).all fun z : Operand × Nat => z.1.absent || (linesOf z.1.addr z.2).all fun l => stackOf s (64 * l) == n

/-- Why a burnisher does not open a binding (R339, R344), the lowest code first (DESIGN CHOICE, log entry 25). -/
def burnRefuses (s : State) (n bank : Nat) (b : Binding) : Option Nat :=
  if ¬ bindingGood b false then some 0x38
  else if ¬ onStack s n b then some 0x39
  else if (bindCode (s.bank (n / 8) bank).image b).isNone then some 0x3A
  else none

/-- The next trip of an open binding; after the last one the binding is done. -/
def burnTrip (s : State) (n : Fin 32) (w : UpdWork) (b : Binding) (code : VCode) : State :=
  match burnStep s n w b code with
  | (.error e, s1) => failUpdate s1 n w e
  | (.ok _, s1) =>
    let w1 := { w with trips := w.trips + 1 }
    if w1.trips * 256 < b.count then s1.setUpdQueue n.val (w1 :: (s1.updQueue n.val).drop 1) else doneBinding s1 n.val w1

/-- UPD_TRIP_START (R336, R343): the burnisher of stack n opens the first binding of its queue, if it has not, and executes its
next trip. While the issue gate is closed (R488), the MIRROR lock is held, or the stack's lock (Table 14-12), or a digest or
checkpoint of the step before has not read what the binding writes (R386, R396), none starts. -/
def execUpdTripStart (n : Fin 32) (s : State) : Out :=
  match s.updQueue n.val with
  | [] => disabled "UPD_TRIP_START"
  | w :: rest =>
    if ¬ s.m.gateOpen ∨ mirrorLocked s ∨ stackLocked s n.val ∨ rangeUnread s w.step (bindingOf w.bytes) then disabled "UPD_TRIP_START"
    else
      let b := bindingOf w.bytes
      if w.trips ≠ 0 then
        match bindCode (s.bank (n.val / 8) w.bank).image b with
        | some code => .next (burnTrip s n w b code)
        | none => .next (failUpdate s n w { code := 0x3A })
      else
        let bank := (s.stir (300 + n.val / 8)).bank
        let w1 := { w with bank := bank }
        let s1 := ((s.setUpdQueue n.val (w1 :: rest)).setFld .updBurnStat n.val 0 16 8 w.index).setFld .updBurnStat n.val 0 0 1 1
        match burnRefuses s n.val bank b, bindCode (s.bank (n.val / 8) bank).image b with
        | some c, _ => .next (failUpdate s1 n w1 { code := c })
        | none, none => .next (failUpdate s1 n w1 { code := 0x3A })
        | none, some code =>
          match openBinding (.burnisher n) b code w.slot w.step s1 with
          | (.error e, s2) => .next (failUpdate s2 n w1 e)
          | (.ok _, s2) => .next (burnTrip s2 n w1 b code)

/-! Girths (R346 to R349). -/

def dropLanding (s : State) (x : Landing) : State := { s with f := { s.f with landing := s.f.landing.erase x } }

/-- A binding of a girth has ended in a fault: the routine ends with its code (R348), and a denied access is logged (R281). -/
def failGirth (s : State) (p : Nat) (x : Landing) (c : Coll) (e : BindFault) : State :=
  failColl (dropLanding ((noteFault s e).setFld .updGirthStat p 0 0 1 0) x) c e.code 0xF

/-- Why a girth does not open a chunk's binding (R339, R346, R349), the lowest code first (DESIGN CHOICE, log entry 25). -/
def girthRefuses (s : State) (x : Landing) (b : Binding) (code : Option VCode) : Option Nat :=
  let last := x.first + x.count
  if ¬ bindingGood b true ∨ x.first % 1024 ≠ 0 ∨ b.count < last ∨ (last % 1024 ≠ 0 ∧ last ≠ b.count)
      ∨ elemBytes b.gradFmt ≠ x.width then some 0x38
  else if code.isNone then some 0x3A
  else if ¬ bit (s.reg .updCtrl 0 0) 0 then some 0x3D
  else none

/-- A trip of a girth has ended; after the chunk's last one the epilogue runs and the stage may complete (R433). -/
def afterGirth (s : State) (p : Fin 12) (x : Landing) (c : Coll) (code : VCode) : State :=
  let x1 := { x with trips := x.trips + 1 }
  let s1 := (s.countWrap .updGirthStat p.val 0 24 40 1).setLanding x1
  if 1024 * x1.trips < x1.count then drain s1
  else match closeBinding (.girth p) code s1 with
    | (.error e, s2) => failGirth s2 p.val x1 c e
    | (.ok _, s2) => drain (girthStage (s2.setFld .updGirthStat p.val 0 0 1 0) c x.stage)

/-- The next trip of an open chunk. -/
def girthTrip (s : State) (p : Fin 12) (x : Landing) (c : Coll) (b : Binding) (code : VCode) : State :=
  let n := chunkNext x
  let grad := (List.range n).map fun k =>
    leNat ((List.range x.width).map fun j => sget 0 x.grad ((1024 * x.trips + k) * x.width + j))
  match runTrip (.girth p) b code x.bind x.step (x.first / 1024 + x.trips) (some grad) s with
  | (.error e, s1) => failGirth (s1.setVec (.girth p) { s1.vecOf (.girth p) with running := false }) p.val x c e
  | (.ok _, s1) => afterGirth s1 p x c code

/-- The kernel store bank of the TACK_CALL that drives a collective (Table 9-1). -/
def collBank (s : State) (c : Coll) : Nat :=
  match collRun s c with
  | some r => match runFlight s r with
    | some f => f.bank
    | none => (s.stir (300 + c.die)).bank
  | none => (s.stir (300 + c.die)).bank

/-- An HBM range that a trip of a binding touches lies on a locked stack. -/
def bindLocked (s : State) (b : Binding) : Bool := (bindRanges b).any fun z : Operand × Nat => !z.1.absent && hbmLocked s z.1.addr z.2

/-- GIRTH_TRIP_START (R347): the girth of port p starts the next trip of its chunk, with its gradient landed and step s − 1
passed; it opens the binding first if it has not. While the issue gate is closed (R488), the MIRROR lock is held, or a lock
of a stack that the binding uses (Table 14-12), or while a digest or checkpoint of the step before has not read what the binding
writes (R386, R396), none starts. -/
def execGirthTripStart (p : Fin 12) (s : State) : Out :=
  match girthChunk s p.val with
  | none => disabled "GIRTH_TRIP_START"
  | some (x, c) =>
    if ¬ tripLanded x ∨ ¬ priorPassed s x.step ∨ ¬ s.m.gateOpen ∨ mirrorLocked s ∨ hbmLocked s x.bind 128 then
      disabled "GIRTH_TRIP_START"
    else match memRead s .upd {} x.bind 128 with
      | (.error e, s1) => .next (failGirth s1 p.val x c (memFault e 0))
      | (.ok bs, s1) =>
        let b := bindingOf bs
        if bindLocked s b ∨ rangeUnread s x.step b then disabled "GIRTH_TRIP_START"
        else
          let bank := if x.trips = 0 then collBank s c else x.bank
          let code := bindCode (s.bank c.die bank).image b
          let x1 := { x with bank := bank }
          match (if x.trips = 0 then girthRefuses s x b code else none), code with
          | some e, _ => .next (failGirth s1 p.val x c { code := e })
          | none, none => .next (failGirth s1 p.val x c { code := 0x3A })
          | none, some k =>
            if x.trips ≠ 0 then .next (girthTrip s1 p x c b k)
            else
              let s2 := ((s1.setLanding x1).setFld .updGirthStat p.val 0 16 8 x.index).setFld .updGirthStat p.val 0 0 1 1
              match openBinding (.girth p) b k c.slot x.step s2 with
              | (.error e, s3) => .next (failGirth s3 p.val x1 c e)
              | (.ok _, s3) => .next (girthTrip s3 p x1 c b k)

end Sys2Proof.Machine
end

