-- ==== Sys2Proof/Machine/Latigo.lean ====
section
/-! DEFINITION. The latigo: LATIGO_ASSEMBLE (R298 to R303) and its adjoint kinds (R327). -/

namespace Sys2Proof.Machine

/-! Accesses under class SOLV. A DISCARD hint acts at the end of a descriptor. -/

def solvRead (o : Operand) (a n : Nat) (s : State) : Except Bad Bytes × State :=
  match memRead s .solv { hintOf o.hint with discard := false } a n with
  | (.error e, s1) => (.error (errFault e, errDetail e), noteErr s1 .solv e)
  | (.ok bs, s1) => (.ok bs, s1)

/-- An area of an operand: where it starts and its bytes. -/
structure Area where
  o : Operand
  a : Nat
  n : Nat
  deriving DecidableEq, Repr

def areaOf (o : Operand) (n : Nat) : Area := ⟨o, o.addr, if o.absent then 0 else n⟩

def Area.past (x : Area) : Bool := decide (x.n ≠ 0 ∧ hbmSize < x.a + x.n)

/-- An area that faulted work leaves undefined: free bytes wherever SOLV may write (R329). -/
def solvSpoil (s : State) (x : Area) : State :=
  if x.past then s
  else
    let (bs, s1) := freeBytes x.n s
    let put := bs.zipIdx.foldl (fun m z =>
      if (denies s1 .solv true (x.a + z.2)).isSome then m else sset 0 m (x.a + z.2) z.1) s1.mem.hbm
    { s1 with mem := { s1.mem with hbm := put } }

/-- Work ends in a fault that leaves its output areas undefined. -/
def solvFail (s : State) (outs : List Area) (b : Bad) : Option Bad × State := (some b, outs.foldl solvSpoil s)

/-- Write areas in order; a write that fails ends the work. -/
def solvWrites (outs : List Area) : List (Area × Bytes) → State → Option Bad × State
  | [], s => (none, s)
  | (x, bs) :: rest, s =>
    match memWrite s .solv (hintOf x.o.hint) x.a bs with
    | (some e, s1) => solvFail (noteErr s1 .solv e) outs (errFault e, errDetail e)
    | (none, s1) => solvWrites outs rest s1

/-- Lines of operands read with DISCARD leave the slices (R260). -/
def solvDiscard (s : State) (ins : List Area) : State := ins.foldl (fun s x => dmaDiscard x.o x.a x.n s) s

/-- DETAIL of a solver fault (R330). -/
def cinDetail (system row : Nat) : Word := place 48 16 system ||| place 0 32 row

/-! The operand area (Table 8-3). -/

structure Assemble where
  src0 : Operand
  src1 : Operand
  src2 : Operand
  src3 : Operand
  dst : Operand
  adj : Operand
  kind : Nat
  camp : Nat
  count : Nat
  m : Nat
  n : Nat
  nc : Nat
  np : Nat
  rows : Nat
  no : Nat
  stream : Nat
  dropP : Nat
  layer : Nat
  deriving DecidableEq, Repr

def assembleOf (ws : List Word) : Assemble :=
  { src0 := dRef ws 40, src1 := dRef ws 48, src2 := dRef ws 56, src3 := dRef ws 64, dst := dRef ws 72, adj := dRef ws 112
    kind := dField ws 80 60 4, camp := dField ws 80 56 4, count := dField ws 80 40 16, m := dField ws 80 20 20
    n := dField ws 80 0 20, nc := dField ws 88 48 16, np := dField ws 88 24 24, rows := dField ws 88 0 40
    no := dField ws 96 0 32, stream := dField ws 104 56 8, dropP := dField ws 104 40 16, layer := dField ws 104 24 16 }

/-- A bundle-adjustment kind; an adjoint kind. -/
def Assemble.ba (x : Assemble) : Bool := x.kind % 2 == 1
def Assemble.adjoint (x : Assemble) : Bool := decide (2 ≤ x.kind)
/-- Camera parameters. -/
def Assemble.c (x : Assemble) : Nat := if x.camp = 0 then 6 else 9
/-- Unknowns of a bundle. -/
def Assemble.unknowns (x : Assemble) : Nat := x.nc * x.c + 3 * x.np

/-- An HBM operand with a floating-point format (R293). -/
def floatIn (o : Operand) : Bool := o.space == 1 && decide (1 ≤ o.fmt ∧ o.fmt ≤ 4)
/-- An HBM operand of indices or records. -/
def rawIn (o : Operand) : Bool := o.space == 1 && o.fmt == 0
/-- An HBM area whose words are of several kinds, RAW or FP64 (DEDUCED, log entry 31). -/
def areaIn (o : Operand) : Bool := o.space == 1 && decide (o.fmt ≤ 1)

/-- The batch area of a command: that of BA holds observation records and indices, and so is RAW (R293). -/
def batchIn (ba : Bool) (o : Operand) : Bool := if ba then rawIn o else areaIn o

/-- Bytes of the batch area (Table 8-2). -/
def Assemble.batchBytes (x : Assemble) : Nat :=
  if x.ba then 64 + 8 * (x.nc * (x.c + 5) + 3 * x.np) + 32 * x.no else 64 + 8 * x.count * x.m * (x.n + 1)

def Assemble.dstBytes (x : Assemble) : Nat :=
  if x.adjoint then (if x.ba then 24 * x.no else 8 * x.count * x.m * (x.n + 2)) else x.batchBytes

/-- Words of one system in the adjoint output area (Table 8-10). -/
def Assemble.adjWords (x : Assemble) : Nat :=
  if x.ba then 2 + 2 * x.unknowns + 4 * x.no else 2 + 2 * x.n + 2 * x.m

/-- The areas read, and the area written. -/
def Assemble.ins (x : Assemble) : List Area :=
  let w := fun (o : Operand) (n : Nat) => areaOf o (n * elemBytes o.fmt)
  let p := x.count * x.m
  (if x.ba then [w x.src0 (x.nc * x.c), w x.src1 (3 * x.np), areaOf x.src2 (32 * x.no), w x.src3 (5 * x.nc)]
    else [w x.src0 (x.rows * x.n), w x.src1 p, areaOf x.src2 (4 * p), w x.src3 p])
    ++ [areaOf x.adj (8 * x.count * x.adjWords)]
def Assemble.out (x : Assemble) : Area := areaOf x.dst x.dstBytes

/-- A LATIGO_ASSEMBLE that R166, R292, R293 and R298 take. -/
def assembleGood (ws : List Word) : Bool :=
  let x := assembleOf ws
  dExec ws == 0 && decide (x.kind ≤ 3 ∧ x.camp ≤ 1) && dField ws 96 32 32 == 0 && dField ws 104 0 24 == 0 && dWord ws 120 == 0
    && [x.src0, x.src1, x.src2, x.src3, x.dst, x.adj].all Operand.fine
    && floatIn x.src0 && floatIn x.src1 && rawIn x.src2 && (floatIn x.src3 || (!x.ba && x.src3.absent))
    && batchIn (x.ba && !x.adjoint) x.dst
    && (x.adj.absent || areaIn x.adj)
    && (if x.ba then x.m == 0 && x.n == 0 && dField ws 88 0 24 == 0
        else x.camp == 0 && dField ws 88 40 24 == 0 && x.no == 0 && dWord ws 104 == 0)

/-- Its own issue checks (R252, R299), the lowest code first (DESIGN CHOICE, log entry 25), but that an area which runs past
2^40 is judged after the shape, as R299 judges the batch area's size. -/
def assembleIssue (ws : List Word) : Option Nat :=
  let x := assembleOf ws
  let shape :=
    if x.ba then x.count ≠ 1 ∨ x.nc = 0 ∨ x.np = 0 ∨ x.no = 0 ∨ 268435456 < x.no
    else x.count = 0 ∨ x.m = 0 ∨ x.n = 0 ∨ 2048 < x.n ∨ x.rows = 0
  if (x.out :: x.ins).any fun a => decide (a.n ≠ 0 ∧ hbmSize ≤ a.a) then some 0x20
  else if shape ∨ hbmSize < x.batchBytes ∨ x.adj.absent = x.adjoint then some 0x30
  else if (x.out :: x.ins).any Area.past then some 0x20
  else none

/-! Reading sources. -/

/-- FP64 codes of the elements in some bytes (R56, R293). -/
def widen (fmt : Nat) (bs : Bytes) : List Nat :=
  (codesOf (elemBytes fmt) bs).map fun c => fround .fp64 (fdecode ((elemFmt fmt).getD .fp64) c)

/-- Read n elements of a floating-point operand from element i on. -/
def floatRead (o : Operand) (i n : Nat) (s : State) : Except Bad (List Nat) × State :=
  let w := elemBytes o.fmt
  match solvRead o (o.addr + i * w) (n * w) s with
  | (.error e, s1) => (.error e, s1)
  | (.ok bs, s1) => (.ok (widen o.fmt bs), s1)

/-- σ = sqrt(w) where w is a positive finite value; none masks (R300, R301). -/
def sigmaOf (w : Nat) : Option Nat := if posFinite w then some (sqrt64 w) else none

/-- A gathered row: its elements, b, and σ. -/
structure GatherRow where
  idx : Nat
  a : List Nat
  b : Nat
  sigma : Option Nat
  deriving DecidableEq, Repr

/-- Gather rows for (position, index, b, w) (R300). -/
def gatherRows (x : Assemble) : List (Nat × Nat × Nat × Nat) → State → Except Bad (List GatherRow) × State
  | [], s => (.ok [], s)
  | (p, i, b, w) :: rest, s =>
    if x.rows ≤ i then (.error (0x33, cinDetail (p / x.m) (p % x.m)), s)
    else match floatRead x.src0 (i * x.n) x.n s with
      | (.error e, s1) => (.error e, s1)
      | (.ok a, s1) =>
        match gatherRows x rest s1 with
        | (.error e, s2) => (.error e, s2)
        | (.ok rs, s2) => (.ok (⟨i, a, b, sigmaOf w⟩ :: rs), s2)

/-- The rows of a LINEAR assembly, in gathered order. -/
def linearRows (x : Assemble) (s : State) : Except Bad (List GatherRow) × State :=
  let n := x.count * x.m
  match solvRead x.src2 x.src2.addr (4 * n) s with
  | (.error e, s1) => (.error e, s1)
  | (.ok is, s1) =>
    match floatRead x.src1 0 n s1 with
    | (.error e, s2) => (.error e, s2)
    | (.ok bs, s2) =>
      match (if x.src3.absent then (Except.ok (List.replicate n one64), s2) else floatRead x.src3 0 n s2) with
      | (.error e, s3) => (.error e, s3)
      | (.ok ws, s3) =>
        gatherRows x ((codesOf 4 is).zipIdx.map fun z => (z.2, z.1, bs.getD z.2 0, ws.getD z.2 0)) s3

/-- The observations of a bundle with σ (none: masked), and the words of its cameras, points and intrinsics. -/
structure BundleIn where
  cams : List Nat := []
  pts : List Nat := []
  intr : List Nat := []
  obs : List (Nat × Nat × Nat × Nat × Option Nat) := []
  deriving DecidableEq, Repr

/-- A record of 32 bytes: camera, point, and three FP64 words. -/
def obsRecord (bs : Bytes) : Nat × Nat × Nat × Nat × Nat :=
  (leNat (bs.take 4), leNat ((bs.drop 4).take 4), (wordAt bs 8).toNat, (wordAt bs 16).toNat, (wordAt bs 24).toNat)

/-- The observation dropout draw (R302); `seed` is none where dropout is off. -/
def droppedObs (x : Assemble) (seed : Option Word) (step : Word) (o : Nat) : Bool :=
  match seed with
  | none => false
  | some v => decide (draw32 (draw64 v x.stream step x.layer o) / 65536 < x.dropP)

/-- Check the observations in list order (R301); `prev` is the pair before, as point × 2^32 + camera. -/
def checkObs (x : Assemble) (seed : Option Word) (step : Word) : List ((Nat × Nat × Nat × Nat × Nat) × Nat) → Option Nat →
    Except Bad (List (Nat × Nat × Nat × Nat × Option Nat))
  | [], _ => .ok []
  | ((i, j, zx, zy, w), o) :: rest, prev =>
    let key := j * 2 ^ 32 + i
    if x.nc ≤ i ∨ x.np ≤ j then .error (0x33, cinDetail 0 o)
    else if (match prev with | none => false | some k => decide (key ≤ k)) then .error (0x34, cinDetail 0 o)
    else match checkObs x seed step rest (some key) with
      | .error e => .error e
      | .ok os => .ok ((i, j, zx, zy, if droppedObs x seed step o then none else sigmaOf w) :: os)

/-- The sources of a BA assembly (R301, R302). -/
def bundleIn (x : Assemble) (seed : Option Word) (step : Word) (s : State) : Except Bad BundleIn × State :=
  match floatRead x.src0 0 (x.nc * x.c) s with
  | (.error e, s1) => (.error e, s1)
  | (.ok cams, s1) =>
    match floatRead x.src3 0 (5 * x.nc) s1 with
    | (.error e, s2) => (.error e, s2)
    | (.ok intr, s2) =>
      match floatRead x.src1 0 (3 * x.np) s2 with
      | (.error e, s3) => (.error e, s3)
      | (.ok pts, s3) =>
        match solvRead x.src2 x.src2.addr (32 * x.no) s3 with
        | (.error e, s4) => (.error e, s4)
        | (.ok bs, s4) =>
          let recs := (List.range x.no).map fun o => (obsRecord ((bs.drop (32 * o)).take 32), o)
          match checkObs x seed step recs none with
          | .error e => (.error e, s4)
          | .ok os => (.ok ⟨cams, pts, intr, os⟩, s4)

/-! Forward kinds. -/

/-- Squares of the lengths of runs of one point, added (Table 8-1, S2). -/
def squaresGo : List Nat → Nat → Nat → Nat
  | [], _, n => n * n
  | j :: rest, k, n => if j = k then squaresGo rest k (n + 1) else n * n + squaresGo rest j 1

/-- The batch header (Table 8-1). -/
def batchHeader (x : Assemble) (step : Word) (sigData : Bytes) (s2 : Nat) : List Word :=
  let w0 := place 60 4 x.kind ||| place 56 4 x.camp ||| place 40 16 x.count ||| place 20 20 x.m ||| place 0 20 x.n
  let w4 := if x.ba then place 48 16 x.nc ||| place 24 24 x.np else 0
  let w5 := place 0 32 x.no
  let sig := leWord (sha256 (wordsBytes [w0, w4, w5] ++ sigData))
  [w0, step, ~~~step, sig, w4, w5, BitVec.ofNat 64 s2, BitVec.ofNat 64 x.batchBytes]

def linearArea (x : Assemble) (step : Word) (rs : List GatherRow) : Bytes :=
  let row := fun (r : GatherRow) => match r.sigma with | none => zeros x.n | some g => vScale g r.a
  let rhs := fun (r : GatherRow) => match r.sigma with | none => 0 | some g => mul64 g r.b
  let body := (List.range x.count).flatMap fun i =>
    let sys := (rs.drop (i * x.m)).take x.m
    sys.flatMap row ++ sys.map rhs
  wordsBytes (batchHeader x step (bytesOf 4 (rs.map fun r : GatherRow => r.idx)) 0) ++ bytesOf 8 body

def bundleArea (x : Assemble) (step : Word) (b : BundleIn) : Bytes :=
  let pairs := b.obs.flatMap fun o => leBytes 4 o.1 ++ leBytes 4 o.2.1
  let recs := b.obs.flatMap fun o =>
    leBytes 4 o.1 ++ leBytes 4 o.2.1 ++ bytesOf 8 [o.2.2.1, o.2.2.2.1, o.2.2.2.2.getD 0]
  wordsBytes (batchHeader x step pairs (squaresGo (b.obs.map fun o => o.2.1) 0 0)) ++ bytesOf 8 (b.cams ++ b.intr ++ b.pts) ++ recs

/-! Adjoint kinds (R327). -/

/-- One system of an adjoint output area (Table 8-10), for nx unknowns and nr residuals. -/
structure AdjSystem where
  zeroed : Bool
  cbar : Nat
  x : List Nat
  lambda : List Nat
  r : List Nat
  q : List Nat
  deriving DecidableEq, Repr

def adjSystem (nx nr : Nat) (ws : List Nat) : AdjSystem :=
  { zeroed := (ws.getD 0 0).testBit 63, cbar := ws.getD 1 0, x := (ws.drop 2).take nx, lambda := (ws.drop (2 + nx)).take nx
    r := (ws.drop (2 + 2 * nx)).take nr, q := (ws.drop (2 + 2 * nx + nr)).take nr }

def two : Nat := f64OfInt 2

/-- Gradients of row i of a system: ∂L/∂a, ∂L/∂b, ∂L/∂w (Table 8-11). -/
def linearGrad (n : Nat) (g : AdjSystem) (i : Nat) (row : GatherRow) : List Nat :=
  match row.sigma with
  | none => zeros (n + 2)
  | some sg =>
    if g.zeroed then zeros (n + 2)
    else
      let r := g.r.getD i 0
      let u := sub64 (mul64 g.cbar r) (g.q.getD i 0)
      let big := List.zipWith (fun x l => sub64 (mul64 u x) (mul64 r l)) g.x g.lambda
      let w := treeSum64 (vMul big row.a ++ [mul64 (neg64 u) row.b])
      vScale sg big ++ [neg64 (mul64 sg u), div64 w (mul64 two sg)]

/-- Gradients of an observation: ∂L/∂z and ∂L/∂w. -/
def bundleGrad (g : AdjSystem) (o : Nat) (sigma : Option Nat) : List Nat :=
  match sigma with
  | none => zeros 3
  | some sg =>
    if g.zeroed then zeros 3
    else
      let r := (g.r.drop (2 * o)).take 2
      let q := (g.q.drop (2 * o)).take 2
      let z := List.zipWith (fun a b => mul64 sg (sub64 a (mul64 g.cbar b))) q r
      let num := sub64 (mul64 g.cbar (dotTree r r)) (mul64 two (dotTree q r))
      z ++ [div64 num (mul64 two (mul64 sg sg))]

/-- The gradient area from the rows of all systems. -/
def linearGrads (x : Assemble) (rs : List GatherRow) (adj : List Nat) : Bytes :=
  bytesOf 8 ((List.range x.count).flatMap fun k =>
    let g := adjSystem x.n x.m (adj.drop (k * x.adjWords))
    (((rs.drop (k * x.m)).take x.m).zipIdx.flatMap fun z => linearGrad x.n g z.2 z.1))

def bundleGrads (x : Assemble) (b : BundleIn) (adj : List Nat) : Bytes :=
  let g := adjSystem x.unknowns (2 * x.no) adj
  bytesOf 8 (b.obs.zipIdx.flatMap fun z => bundleGrad g z.2 z.1.2.2.2.2)

/-! The command. -/

/-- Read the adjoint output area of an adjoint kind; nothing for a forward kind. -/
def adjRead (x : Assemble) (s : State) : Except Bad (List Nat) × State :=
  if x.adjoint then
    match solvRead x.adj x.adj.addr (8 * x.count * x.adjWords) s with
    | (.error e, s1) => (.error e, s1)
    | (.ok bs, s1) => (.ok (codesOf 8 bs), s1)
  else (.ok [], s)

/-- What a latigo operation writes. -/
def assembleBytes (x : Assemble) (seed : Option Word) (step : Word) (s : State) : Except Bad Bytes × State :=
  match adjRead x s with
  | (.error e, s1) => (.error e, s1)
  | (.ok adj, s1) =>
    if x.ba then
      match bundleIn x seed step s1 with
      | (.error e, s2) => (.error e, s2)
      | (.ok b, s2) => (.ok (if x.adjoint then bundleGrads x b adj else bundleArea x step b), s2)
    else
      match linearRows x s1 with
      | (.error e, s2) => (.error e, s2)
      | (.ok rs, s2) => (.ok (if x.adjoint then linearGrads x rs adj else linearArea x step rs), s2)

/-- A LATIGO_ASSEMBLE of die d in a step, and the fault it ends in. -/
def assembleRun (d : Nat) (step : Word) (ws : List Word) (s : State) : Option Bad × State :=
  let x := assembleOf ws
  let go := fun (seed : Option Word) =>
    match assembleBytes x seed step s with
    | (.error e, s1) => solvFail s1 [x.out] e
    | (.ok bs, s1) => solvWrites [x.out] [(x.out, bs)] (solvDiscard s1 x.ins)
  if x.dropP = 0 then go none
  else match seedFor s x.stream false with
    | .error p => solvFail (logComplement s (srcDie d) 7 p.1 p.2) [x.out] (ftSeed, 0)
    | .ok v => go (some v)

/-- Some area lies on a stack whose lock is held (R273). -/
def areasLocked (s : State) (xs : List Area) : Bool := xs.any fun x : Area => hbmLocked s x.a x.n

/-- LATIGO_ASSEMBLE: the oldest issued one of die d executes (R298). -/
def execLatigoAssemble (d : Fin 4) (s : State) : Out :=
  let t := 300 + d.val
  match oldest s t 0x30 .issued with
  | none => disabled "LATIGO_ASSEMBLE"
  | some f =>
    let x := assembleOf f.words
    if ¬ s.m.gateOpen ∨ areasLocked s (x.out :: x.ins) then disabled "LATIGO_ASSEMBLE"
    else let (bad, s1) := assembleRun d.val f.step f.words s; .next (endFlight s1 t f bad 0)

end Sys2Proof.Machine
end

