-- ==== Sys2Proof/Machine/Cinch.lean ====
section
/-! DEFINITION. The cinch: CINCH_SOLVE (R305 to R321) and CINCH_ADJOINT (R322 to R326). -/

namespace Sys2Proof.Machine

/-! Operand areas (Tables 8-4 and 8-9). -/

/-- The fields both commands have. -/
structure Cinch where
  sys : Operand
  method : Nat
  implicit : Bool
  iters : Nat
  cgIters : Nat
  pf : Int
  df : Int
  mu : Word
  deriving DecidableEq, Repr

def solveOf (ws : List Word) : Cinch :=
  { sys := dRef ws 40, method := dField ws 88 62 2, implicit := bit (dWord ws 88) 61, iters := dField ws 88 40 10
    cgIters := dField ws 88 30 10, pf := signedOf 12 (dField ws 104 20 12), df := signedOf 12 (dField ws 104 8 12), mu := dWord ws 96 }

def adjointOf (ws : List Word) : Cinch :=
  { sys := dRef ws 40, method := dField ws 96 62 2, implicit := bit (dWord ws 96) 61, iters := 0
    cgIters := dField ws 96 30 10, pf := signedOf 12 (dField ws 96 12 12), df := signedOf 12 (dField ws 96 0 12), mu := dWord ws 104 }

def Cinch.lm (x : Cinch) : Bool := x.method == 2

def sX (ws : List Word) : Operand := dRef ws 48
def sStat (ws : List Word) : Operand := dRef ws 56
def sFact (ws : List Word) : Operand := dRef ws 64
def sWarmIn (ws : List Word) : Operand := dRef ws 72
def sWarmOut (ws : List Word) : Operand := dRef ws 80
def sUpExp (ws : List Word) : Nat := dField ws 104 60 4
def sDownExp (ws : List Word) : Nat := dField ws 104 56 4
def sMuMin (ws : List Word) : Int := signedOf 12 (dField ws 104 44 12)
def sMuMax (ws : List Word) : Int := signedOf 12 (dField ws 104 32 12)
def sRidge (ws : List Word) : Nat := (dWord ws 112).toNat
def aGbar (ws : List Word) : Operand := dRef ws 72
def aCbar (ws : List Word) : Operand := dRef ws 80
def aOut (ws : List Word) : Operand := dRef ws 88

/-! Issue checks. -/

/-- An operand that may be absent. -/
def orAbsent (p : Operand → Bool) (o : Operand) : Bool := o.absent || p o

/-- A CINCH_SOLVE that R166 and R292 take. -/
def solveGood (ws : List Word) : Bool :=
  dExec ws == 0 && [40, 48, 56, 64, 72, 80].all (fun i => (dRef ws i).fine)
    && batchIn (solveOf ws).lm (dRef ws 40) && areaIn (sX ws) && rawIn (sStat ws) && orAbsent areaIn (sFact ws)
    && [sWarmIn ws, sWarmOut ws].all (orAbsent rawIn)
    && decide (dField ws 88 62 2 ≤ 2) && dField ws 88 50 11 == 0 && dField ws 88 0 30 == 0 && dField ws 104 0 8 == 0
    && dWord ws 120 == 0

/-- A CINCH_ADJOINT that R166 and R292 take. -/
def adjointGood (ws : List Word) : Bool :=
  dExec ws == 0 && [40, 48, 56, 64, 72, 80, 88].all (fun i => (dRef ws i).fine)
    && batchIn (adjointOf ws).lm (dRef ws 40) && floatIn (sX ws) && rawIn (sStat ws) && orAbsent areaIn (sFact ws) && floatIn (aGbar ws)
    && orAbsent floatIn (aCbar ws) && areaIn (aOut ws)
    && decide (dField ws 96 62 2 ≤ 2) && dField ws 96 40 21 == 0 && dField ws 96 24 6 == 0 && dWord ws 112 == 0 && dWord ws 120 == 0

/-- A signed exponent lies in a range. -/
def expIn (x lo hi : Int) : Bool := decide (lo ≤ x ∧ x ≤ hi)

/-- The fields of both commands that depend on METHOD and REDUCED lie in their ranges. -/
def Cinch.inRange (x : Cinch) : Bool :=
  expIn x.pf (-1022) 0 && (if x.lm then expIn x.df (-1022) 1023 else x.df == 0 && !x.implicit)
    && (if x.implicit then x.cgIters != 0 else x.cgIters == 0)

/-- A solve's fields lie in their ranges (R305, R306). -/
def solveInRange (ws : List Word) : Bool :=
  let x := solveOf ws
  let mu := fdecode .fp64 x.mu.toNat
  let damping := [sUpExp ws, sDownExp ws].all (fun e => e != 0) && expIn (sMuMin ws) (-1022) 1023 && decide (sMuMin ws ≤ sMuMax ws)
    && FV.le (.fin false 1 (sMuMin ws)) mu && FV.le mu (.fin false 1 (sMuMax ws))
  let ridge := fin64 (sRidge ws) && !lt64 (sRidge ws) 0
  x.inRange && (if x.lm then x.iters != 0 && damping && (sFact ws).absent && sRidge ws == 0
    else x.iters == 0 && x.mu == 0 && dField ws 104 32 32 == 0 && (sWarmIn ws).absent && (sWarmOut ws).absent
      && (if x.method = 1 then ridge else sRidge ws == 0))

/-- An adjoint's fields lie in their ranges (R322, R324). -/
def adjointInRange (ws : List Word) : Bool :=
  let x := adjointOf ws
  let mu := x.mu.toNat
  x.inRange && (if x.lm then (sFact ws).absent && fin64 mu && !lt64 mu 0 else mu == 0 && !(sFact ws).absent)

/-! The batch header (R296). -/

structure Batch where
  kind : Nat
  camp : Nat
  count : Nat
  m : Nat
  n : Nat
  step : Word
  stepInv : Word
  sig : Word
  nc : Nat
  np : Nat
  no : Nat
  reserved : Bool
  deriving DecidableEq, Repr

def batchOf (bs : Bytes) : Batch :=
  let w := fun (i : Nat) => wordAt bs (8 * i)
  { kind := field (w 0) 60 4, camp := field (w 0) 56 4, count := field (w 0) 40 16, m := field (w 0) 20 20, n := field (w 0) 0 20
    step := w 1, stepInv := w 2, sig := w 3, nc := field (w 4) 48 16, np := field (w 4) 24 24, no := field (w 5) 0 32
    reserved := field (w 4) 0 24 != 0 || field (w 5) 32 32 != 0 || (field (w 0) 60 4 == 1 && decide (1 < field (w 0) 56 4)) }

def Batch.c (b : Batch) : Nat := if b.camp = 0 then 6 else 9
/-- Unknowns and residuals of one system. -/
def Batch.unknowns (b : Batch) (lm : Bool) : Nat := if lm then b.nc * b.c + 3 * b.np else b.n
def Batch.residuals (b : Batch) (lm : Bool) : Nat := if lm then 2 * b.no else b.m
/-- Systems; one for BA. -/
def Batch.systems (b : Batch) (lm : Bool) : Nat := if lm then 1 else b.count
def Batch.bytes (b : Batch) (lm : Bool) : Nat :=
  if lm then 64 + 8 * (b.nc * (b.c + 5) + 3 * b.np) + 32 * b.no else 64 + 8 * b.count * b.m * (b.n + 1)

/-- The shape lies within the limits of Table 8-5. -/
def Batch.fits (b : Batch) (x : Cinch) : Bool :=
  let k := b.nc * b.c
  let words := b.no * (2 * (b.c + 3)) + 12 * b.np + k * (b.c + 4)
  if x.method = 0 then decide (b.n ≤ b.m ∧ b.n ≤ 1024 ∧ b.m * (b.n + 1) ≤ 4194304)
  else if x.method = 1 then decide (b.n ≤ 2048)
  else if x.implicit then decide (words ≤ 8388608)
  else decide (k ≤ 2048 ∧ words + k * (k + 1) / 2 ≤ 8388608)

/-- Bytes of a factor area (R315). -/
def factBytes (b : Batch) : Nat := 32 + 8 * (b.count * (b.n * (b.n + 1) / 2))

/-- The areas a solve reads and writes, from its batch's header. -/
def solveIns (ws : List Word) (b : Batch) : List Area :=
  let x := solveOf ws
  [areaOf x.sys (b.bytes x.lm), areaOf (sWarmIn ws) (32 + 8 * b.unknowns x.lm)]
def solveOuts (ws : List Word) (b : Batch) : List Area :=
  let x := solveOf ws
  let n := b.systems x.lm
  [areaOf (sX ws) (8 * n * b.unknowns x.lm), areaOf (sStat ws) (32 * n), areaOf (sFact ws) (factBytes b),
    areaOf (sWarmOut ws) (32 + 8 * b.unknowns x.lm)]

/-- Words of the adjoint output of one system (Table 8-10). -/
def Batch.adjWords (b : Batch) (lm : Bool) : Nat := 2 + 2 * b.unknowns lm + 2 * b.residuals lm

def adjointIns (ws : List Word) (b : Batch) : List Area :=
  let x := adjointOf ws
  let n := b.systems x.lm
  [areaOf x.sys (b.bytes x.lm), areaOf (sX ws) (n * b.unknowns x.lm * elemBytes (sX ws).fmt), areaOf (sStat ws) (32 * n),
    areaOf (sFact ws) (factBytes b), areaOf (aGbar ws) (n * b.unknowns x.lm * elemBytes (aGbar ws).fmt), areaOf (aCbar ws) (n * elemBytes (aCbar ws).fmt)]
def adjointOut (ws : List Word) (b : Batch) : Area :=
  let x := adjointOf ws
  areaOf (aOut ws) (8 * b.systems x.lm * b.adjWords x.lm)

/-- The issue checks of both: field ranges, then the header, an area's address (R252) and the shape (R306), and then an area that runs
past 2^40 (DESIGN CHOICE, log entry 25). A fault found here has no DETAIL (R290). -/
def cinchIssue (inRange : Bool) (x : Cinch) (areas : Batch → List Area) (s : State) : Option Bad × State :=
  if !inRange then (some (0x02, 0), s)
  else match solvRead x.sys x.sys.addr 64 s with
    | (.error e, s1) => (some (e.1, 0), s1)
    | (.ok bs, s1) =>
      let b := batchOf bs
      if (areas b).any fun a => decide (a.n ≠ 0 ∧ hbmSize ≤ a.a) then (some (0x20, 0), s1)
      else if !b.fits x then (some (0x30, 0), s1)
      else if (areas b).any Area.past then (some (0x20, 0), s1)
      else (none, s1)

def solveIssue (ws : List Word) (s : State) : Option Bad × State :=
  cinchIssue (solveInRange ws) (solveOf ws) (fun b => solveIns ws b ++ solveOuts ws b) s
def adjointIssue (ws : List Word) (s : State) : Option Bad × State :=
  cinchIssue (adjointInRange ws) (adjointOf ws) (fun b => adjointOut ws b :: adjointIns ws b) s

/-! What a system comes to. -/

/-- Marks of a system that R318 counts. -/
structure Marks where
  floored : Bool := false
  excluded : Bool := false
  warmRejected : Bool := false
  broke : Bool := false
  deriving DecidableEq, Repr

/-- A solved system: its solution, status record, factor, warm-start record, marks and masked count. -/
structure Solved where
  x : List Nat
  stat : List Word
  fact : List Nat
  warm : Option (List Nat)
  marks : Marks
  masked : Nat
  deriving DecidableEq, Repr

/-- What the numbers of a system come to before exclusion (R317). -/
structure Raw where
  x : List Nat
  cost : Nat
  mu : Nat
  fact : List Nat := []
  warm : Option (List Nat) := none
  noted : Pivots
  badInput : Bool
  masked : Nat
  accepted : Nat := 0
  warmUsed : Bool := false
  warmRejected : Bool := false
  broke : Bool := false
  deriving DecidableEq, Repr

/-- Exclusion and the status record (R317, Tables 8-6 and 8-7). An input that is not finite is named before a solution that
is not (DESIGN CHOICE, log entry 32). -/
def finishSystem (r : Raw) : Solved :=
  let badX := !r.badInput && !(r.x.all fin64)
  let out := r.badInput || badX
  let pattern := if r.badInput then 0x7FF8400000000000 else 0x7FF8200000000000
  let w0 := placeBit 63 (!out) ||| placeBit 62 (r.noted.floored != 0) ||| placeBit 61 r.noted.negative ||| placeBit 60 badX
    ||| placeBit 59 r.badInput ||| placeBit 58 r.warmUsed ||| placeBit 57 r.warmRejected ||| placeBit 56 r.broke
    ||| place 32 16 r.accepted ||| place 0 32 (min r.noted.floored (2 ^ 32 - 1))
  { x := if out then r.x.map fun _ => pattern else r.x
    stat := [w0, if out then 0 else BitVec.ofNat 64 r.cost, BitVec.ofNat 64 r.mu, place 0 32 r.masked]
    fact := r.fact, warm := if out then none else r.warm
    marks := ⟨r.noted.floored != 0, out, r.warmRejected, r.broke⟩, masked := r.masked }

/-! LINEAR systems. -/

/-- Residuals Ãx − b̃ (R307). -/
def residuals (rows : List (List Nat)) (b x : List Nat) : List Nat := List.zipWith (fun r c => sub64 (dotTree r x) c) rows b

/-- One LINEAR system (R308, R309). -/
def solveLinear (q : Cinch) (ridge n : Nat) (rows : List (List Nat)) (b : List Nat) : Solved :=
  let cols := columns n rows
  let (x, fact, noted) :=
    if q.method = 0 then
      let f := qr q.pf cols b
      (backSub f.rows, f.rows.flatMap Prod.fst, (⟨f.floored, false⟩ : Pivots))
    else
      let f := ldl q.pf (normalLower ridge cols)
      (ldlSolve f (normalRight cols b), f.rows.flatMap Prod.fst ++ f.rows.map Prod.snd, f.noted)
  finishSystem
    { x := x, cost := costOf (residuals rows b x), mu := 0, fact := fact, noted := noted
      badInput := !(rows.all fun r => r.all fin64) || !(b.all fin64)
      masked := ((rows.zip b).filter fun z => z.2 == 0 && z.1.all fun e => e == 0).length }

/-- System k of the body of a LINEAR batch: its rows and right side. -/
def linearSystem (b : Batch) (body : List Nat) (k : Nat) : List (List Nat) × List Nat :=
  let ws := body.drop (k * b.m * (b.n + 1))
  ((List.range b.m).map fun i => (ws.drop (i * b.n)).take b.n, (ws.drop (b.m * b.n)).take b.m)

/-! BA systems. -/

/-- The bundle of a batch area (Table 8-2). -/
def bundleOf (b : Batch) (bs : Bytes) : Bundle :=
  let body := codesOf 8 (bs.drop 64)
  let c := b.c
  let recs := (List.range b.no).map fun o => obsRecord ((bs.drop (64 + 8 * (b.nc * (c + 5) + 3 * b.np) + 32 * o)).take 32)
  let x := unknownsOf c b.nc b.np (body.take (b.nc * c) ++ body.drop (b.nc * (c + 5)))
  { c := c, cams := x.cams, pts := x.pts
    intr := (List.range b.nc).map fun i => (body.drop (b.nc * c + 5 * i)).take 5
    obs := recs.map fun r => ⟨r.1, r.2.1, r.2.2.1, r.2.2.2.1, r.2.2.2.2⟩ }

/-- Every observation names a camera and a point of the batch. -/
def Bundle.indexed (g : Bundle) : Bool := g.obs.all fun o : Obs => decide (o.cam < g.cams.length ∧ o.pt < g.pts.length)

/-- A warm-start record fits a batch (R320). -/
def warmFits (b : Batch) (ws : List Nat) : Bool :=
  let w := fun (i : Nat) => BitVec.ofNat 64 (ws.getD i 0)
  w 0 == b.sig && field (w 1) 48 16 == b.nc && field (w 1) 24 24 == b.np && field (w 1) 20 4 == b.camp && field (w 1) 0 20 == 0
    && field (w 2) 32 32 == 0 && field (w 2) 0 32 == b.no && (ws.drop 3).all fin64

/-- Solve a bundle (R310, R317, R320, R321); `warm` is the words of a record offered. -/
def solveBundle (ws : List Word) (b : Batch) (g : Bundle) (warm : Option (List Nat)) : Solved :=
  let q := solveOf ws
  let x0 : Unknowns := ⟨g.cams, g.pts⟩
  let lo := two64 (sMuMin ws)
  let hi := two64 (sMuMax ws)
  let used := match warm with
    | some r => if warmFits b r then some r else none
    | none => none
  let delta := unknownsOf b.c b.nc b.np ((used.getD []).drop 4)
  let cold := List.replicate b.nc (zeros b.c)
  let m : Method := ⟨b.c, q.implicit, q.cgIters, q.pf, if used.isSome then delta.cams else cold⟩
  let k : Damping := ⟨sUpExp ws, sDownExp ws, sMuMin ws, sMuMax ws, q.df⟩
  let mu := match used with
    | some r => min64 (max64 (r.getD 3 0) lo) hi
    | none => q.mu.toNat
  let start := lmStart g (if used.isSome then x0.plus delta else x0) mu
  let r := lmGo g m k q.iters start
  let size := place 48 16 b.nc ||| place 24 24 b.np ||| place 20 4 b.camp
  finishSystem
    { x := r.x.words, cost := r.cost, mu := r.mu, noted := r.noted, accepted := r.accepted, broke := r.broke
      warm := some ([b.sig.toNat, size.toNat, b.no, r.mu] ++ (r.x.minus x0).words)
      badInput := !(start.x.words.all fin64) || !(g.intr.flatten.all fin64) || !fin64 start.cost
      masked := (r.ts.filter fun t : Term => t.masked).length
      warmUsed := used.isSome, warmRejected := warm.isSome && used.isNone }

/-! Registers and events of the cinch. -/

/-- Count what the systems of a descriptor came to (Table 8-16), and log CIN_SUMMARY (R318). -/
def countMarks (s : State) (d : Nat) (step : Word) (slot : Nat) (ms : List Marks) : State :=
  let n := fun (p : Marks → Bool) => (ms.filter p).length
  let fl := n Marks.floored
  let ex := n Marks.excluded
  let wr := n Marks.warmRejected
  let br := n Marks.broke
  let s1 := ((s.countWrap .cinCntFloored d 0 0 64 fl).countWrap .cinCntExcluded d 0 0 64 ex).countWrap .cinCntWarmRej d 0 0 64 wr
  let cap := fun (x : Nat) => min x 65535
  if fl + ex + wr + br = 0 then s1
  else logEvent s1 0x0300 (srcStirrup (300 + d)) (some (step, BitVec.ofNat 24 slot))
    (place 48 16 (cap fl) ||| place 32 16 (cap ex) ||| place 16 16 (cap wr) ||| place 0 16 (cap br)) 0 0

/-- CIN_STAT after a descriptor: the last system and iterations (Table 8-15). -/
def setCinStat (s : State) (d : Nat) (x : Cinch) (systems : Nat) : State :=
  let s1 := s.setFld .cinStat d 0 32 16 (systems - 1)
  let s2 := if x.iters = 0 then s1 else s1.setFld .cinStat d 0 22 10 (x.iters - 1)
  if x.cgIters = 0 then s2 else s2.setFld .cinStat d 0 12 10 (x.cgIters - 1)

/-- Errors of die d's working store (R294): correctable words are corrected and counted, uncorrectable ones counted, both for the
health monitor too (R402); whether
there was an uncorrectable one. None is left for the next operation, which writes the words it works on before it reads them
(R267; DESIGN CHOICE, log entry 54). -/
def cinStore (s : State) (d : Nat) : Bool × State :=
  let mine := s.mem.cinErr.filter fun e : Nat × WordError => decide (e.1 / 8388608 = d)
  let ce := (mine.filter fun e : Nat × WordError => e.2 == .correctable).length
  let ue := (mine.filter fun e : Nat × WordError => e.2 == .uncorrectable).length
  let left := s.mem.cinErr.filter fun e : Nat × WordError => decide (e.1 / 8388608 ≠ d)
  let s1 := ({ s with mem := { s.mem with cinErr := left } }.bump 2 ce).bump 3 ue
  (ue != 0, (s1.countHold .cinStoreEcc d 0 32 32 ce).countHold .cinStoreEcc d 0 0 32 ue)

/-! Running. -/

/-- The checks of R297 on a header; a fault code, and the mismatch logged. -/
def batchCheck (d : Nat) (step : Word) (lm : Bool) (b : Batch) (s : State) : Option Bad × State :=
  if ¬ complOk b.step b.stepInv then (some (0x31, 0), logComplement s (srcDie d) 5 b.step b.stepInv)
  else if b.step ≠ step then (some (0x31, 0), s)
  else if b.reserved ∨ b.kind ≠ (if lm then 1 else 0) then (some (0x32, 0), s)
  else (none, s)

/-- Read an optional area. -/
def areaRead (x : Area) (s : State) : Except Bad Bytes × State := if x.n = 0 then (.ok [], s) else solvRead x.o x.a x.n s

/-- Read areas in order. -/
def areaReads : List Area → State → Except Bad (List Bytes) × State
  | [], s => (.ok [], s)
  | x :: rest, s =>
    match areaRead x s with
    | (.error e, s1) => (.error e, s1)
    | (.ok bs, s1) =>
      match areaReads rest s1 with
      | (.error e, s2) => (.error e, s2)
      | (.ok bss, s2) => (.ok (bs :: bss), s2)

/-- The header as it is stored, whatever its lines hold. -/
def storedBatch (s : State) (x : Cinch) : Batch := batchOf (s.bytesAt x.sys.addr 64)

/-- What both commands begin with: the header, R297, the working store, and the areas read. -/
def cinchBegin (d : Nat) (step : Word) (x : Cinch) (ins : Batch → List Area) (outs : Batch → List Area) (s : State) :
    Except (Option Bad) (Batch × List Bytes) × State :=
  let stop := fun (s : State) (e : Bad) => let z := solvFail s (outs (storedBatch s x)) e; (Except.error z.1, z.2)
  match solvRead x.sys x.sys.addr 64 s with
  | (.error e, s1) => stop s1 e
  | (.ok h, s1) =>
    let b := batchOf h
    match batchCheck d step x.lm b s1 with
    | (some e, s2) => (.error (some e), s2)
    | (none, s2) =>
      match cinStore s2 d with
      | (true, s3) => stop s3 (0x36, 0)
      | (false, s3) =>
        match areaReads (ins b) s3 with
        | (.error e, s4) => stop s4 e
        | (.ok bss, s4) => (.ok (b, bss), s4)

/-- The areas to write that are present, with their bytes. -/
def present (zs : List (Area × Bytes)) : List (Area × Bytes) := zs.filter fun z => decide (z.1.n ≠ 0)

/-- The header of a factor area (R315). -/
def factHeader (x : Cinch) (b : Batch) : List Word :=
  [b.step, b.stepInv, b.sig, place 62 2 x.method ||| place 40 16 b.count ||| place 0 20 b.n]

/-- Write what a solve's systems came to, in order, and count it. -/
def solveEnd (d : Nat) (step : Word) (slot : Nat) (ws : List Word) (b : Batch) (out : List Solved) (s : State) : Option Bad × State :=
  let x := solveOf ws
  let outs := solveOuts ws b
  let warm := ((out.headD ⟨[], [], [], none, {}, 0⟩).warm)
  let area := fun (i : Nat) => outs.getD i ⟨x.sys, 0, 0⟩
  let writes := [(area 0, bytesOf 8 (out.flatMap fun r : Solved => r.x)), (area 1, wordsBytes (out.flatMap fun r : Solved => r.stat)),
    (area 2, wordsBytes (factHeader x b) ++ bytesOf 8 (out.flatMap fun r : Solved => r.fact))]
    ++ (match warm with | some r => [(area 3, bytesOf 8 r)] | none => [])
  match solvWrites outs (present writes) (solvDiscard s (solveIns ws b)) with
  | (some e, s1) => (some e, s1)
  | (none, s1) =>
    let masked := out.foldl (fun a (r : Solved) => a + r.masked) 0
    let s2 := countMarks (s1.countWrap .cinCntMasked d 0 0 64 masked) d step slot (out.map fun r : Solved => r.marks)
    (none, setCinStat s2 d x (b.systems x.lm))

/-- A CINCH_SOLVE of die d in a step, and the fault it ends in. A bundle whose observations name cameras or points it does not
hold leaves the outputs undefined (DESIGN CHOICE, log entry 33). -/
def solveRun (d : Nat) (step : Word) (slot : Nat) (ws : List Word) (s : State) : Option Bad × State :=
  let x := solveOf ws
  match cinchBegin d step x (solveIns ws) (solveOuts ws) s with
  | (.error e, s1) => (e, s1)
  | (.ok (b, bss), s1) =>
    let bs := bss.headD []
    if x.lm then
      let g := bundleOf b bs
      let warm := if (sWarmIn ws).absent then none else some (codesOf 8 (bss.getD 1 []))
      if g.indexed then solveEnd d step slot ws b [solveBundle ws b g warm] s1
      else (none, (solveOuts ws b).foldl solvSpoil s1)
    else
      let body := codesOf 8 (bs.drop 64)
      let out := (List.range b.count).map fun k =>
        let (rows, r) := linearSystem b body k
        solveLinear x (sRidge ws) b.n rows r
      solveEnd d step slot ws b out s1

/-- CINCH_SOLVE: the oldest issued one of die d executes (R305). -/
def execCinchSolve (d : Fin 4) (s : State) : Out :=
  let t := 300 + d.val
  match oldest s t 0x31 .issued with
  | none => disabled "CINCH_SOLVE"
  | some f =>
    let b := storedBatch s (solveOf f.words)
    if ¬ s.m.gateOpen ∨ areasLocked s (solveIns f.words b ++ solveOuts f.words b) then disabled "CINCH_SOLVE"
    else let (bad, s1) := solveRun d.val f.step f.slot f.words s; .next (endFlight s1 t f bad 0)

/-- CIN_STAT now (Table 8-15, R295): an LM descriptor holds the latigo from issue to completion, and both units execute while it
does; the others execute until they end. -/
def viewCin (s : State) (d : Nat) : Word :=
  let fl := (s.stir (300 + d)).flight
  let works := fun (ops : List Nat) => fl.any fun f : InFlight => ops.contains (dOpcode f.words) && f.phase != .ended
  let lm := fl.any fun f : InFlight =>
    (dOpcode f.words == 0x31 && (solveOf f.words).lm) || (dOpcode f.words == 0x32 && (adjointOf f.words).lm)
  s.reg .cinStat d 0 ||| placeBit 3 lm ||| placeBit 2 (works [0x32]) ||| placeBit 1 (works [0x31, 0x32]) ||| placeBit 0 (works [0x30] || lm)

/-! The adjoint (R323 to R326). -/

/-- Rows of R or of L with D, from the words of one system's factor. -/
def packedUpper (n : Nat) (ws : List Nat) : List (List Nat) :=
  (List.range n).map fun i => (ws.drop (i * n - i * (i - 1) / 2)).take (n - i)
def packedLdl (n : Nat) (ws : List Nat) : Ldl :=
  { rows := (List.range n).map fun i => ((ws.drop (i * (i - 1) / 2)).take i, ws.getD (n * (n - 1) / 2 + i) 0) }

/-- Rᵀ y = g: each row of Rᵀ is a column of R. -/
def solveUpperT (rows : List (List Nat)) (g : List Nat) : List Nat :=
  (g.zipIdx).foldl (fun ys z =>
    let col := (rows.zipIdx.take z.2).map fun r => r.1.getD (z.2 - r.2) 0
    ys ++ [div64 (sub64 z.1 (dotTree col ys)) ((rows.getD z.2 []).headD 0)]) []

/-- λ of a LINEAR system from its stored factor (R323). -/
def linearLambda (method n : Nat) (fact g : List Nat) : List Nat :=
  if method = 0 then
    let rows := packedUpper n fact
    backSub (rows.zip (solveUpperT rows g))
  else ldlSolve (packedLdl n fact) g

/-- The words of one system's adjoint output (R326, Table 8-10). -/
def adjointWords (zeroed : Bool) (cbar : Nat) (x lambda r q : List Nat) : List Nat :=
  let z := fun (v : List Nat) => if zeroed then v.map fun _ => 0 else v
  [if zeroed then 2 ^ 63 else 0, cbar] ++ x ++ z lambda ++ z r ++ z q

/-- What a system of an adjoint comes to: its words, whether it was zeroed, and its marks. -/
structure Adjoined where
  words : List Nat
  zeroed : Bool
  marks : Marks
  deriving DecidableEq, Repr

/-- USE of a status record. -/
def statUse (stat : List Nat) : Bool := (stat.getD 0 0).testBit 63

def linearAdjoint (x : Cinch) (n : Nat) (rows : List (List Nat)) (b sol stat fact g : List Nat) (cbar : Nat) : Adjoined :=
  let lambda := linearLambda x.method n fact g
  let q := rows.map fun r => dotTree r lambda
  let zeroed := !statUse stat || !(lambda.all fin64) || !(q.all fin64)
  ⟨adjointWords zeroed cbar sol lambda (residuals rows b sol) q, zeroed, {}⟩

/-- The adjoint of a bundle (R324). -/
def bundleAdjoint (x : Cinch) (b : Batch) (g : Bundle) (sol stat gbar : List Nat) (cbar : Nat) : Adjoined :=
  let at' := unknownsOf b.c b.nc b.np sol
  let ts := latigoPass g at'
  let mu := if x.mu = 0 then stat.getD 2 0 else x.mu.toNat
  let n := normalBlocks g ts mu x.df x.pf
  let rhs := unknownsOf b.c b.nc b.np (vNeg gbar)
  let m : Method := ⟨b.c, x.implicit, x.cgIters, x.pf, List.replicate b.nc (zeros b.c)⟩
  let (l, noted, broke) := reducedSolve m { n with gc := rhs.cams, gp := rhs.pts }
  let q := (g.obs.zip ts).flatMap fun z =>
    let v := l.cams.getD z.1.cam [] ++ l.pts.getD z.1.pt []
    (List.zipWith (fun a b => a ++ b) z.2.a z.2.b).map fun row => dotSeq row v
  let zeroed := !statUse stat || !(l.words.all fin64) || !(q.all fin64)
  ⟨adjointWords zeroed cbar sol l.words (ts.flatMap fun t : Term => t.r) q, zeroed, ⟨noted.floored != 0, false, false, broke⟩⟩

/-- Write the adjoint output and count it. -/
def adjointEnd (d : Nat) (step : Word) (slot : Nat) (ws : List Word) (b : Batch) (out : List Adjoined) (s : State) : Option Bad × State :=
  let x := adjointOf ws
  let o := adjointOut ws b
  match solvWrites [o] (present [(o, bytesOf 8 (out.flatMap fun r : Adjoined => r.words))]) (solvDiscard s (adjointIns ws b)) with
  | (some e, s1) => (some e, s1)
  | (none, s1) =>
    let zeroed := (out.filter fun r : Adjoined => r.zeroed).length
    let s2 := countMarks (s1.countWrap .cinCntAdjZero d 0 0 64 zeroed) d step slot (out.map fun r : Adjoined => r.marks)
    (none, setCinStat s2 d x (b.systems x.lm))

/-- A factor header belongs to the batch and the step (R323). -/
def factFits (x : Cinch) (b : Batch) (step : Word) (bs : Bytes) : Bool :=
  let w := wordAt bs 24
  wordAt bs 0 == b.step && wordAt bs 8 == b.stepInv && wordAt bs 16 == b.sig && wordAt bs 0 == step
    && field w 62 2 == x.method && field w 40 16 == b.count && field w 0 20 == b.n

/-- A CINCH_ADJOINT of die d in a step, and the fault it ends in; without its factor it has solved and written nothing (R323). -/
def adjointRun (d : Nat) (step : Word) (slot : Nat) (ws : List Word) (s : State) : Option Bad × State :=
  let x := adjointOf ws
  match cinchBegin d step x (adjointIns ws) (fun b => [adjointOut ws b]) s with
  | (.error e, s1) => (e, s1)
  | (.ok (b, bss), s1) =>
    let area := fun (i : Nat) => bss.getD i []
    let nx := b.unknowns x.lm
    let sol := fun (k : Nat) => ((widen (sX ws).fmt (area 1)).drop (k * nx)).take nx
    let stat := fun (k : Nat) => ((codesOf 8 (area 2)).drop (4 * k)).take 4
    let g := fun (k : Nat) => ((widen (aGbar ws).fmt (area 4)).drop (k * nx)).take nx
    let cbar := fun (k : Nat) => (widen (aCbar ws).fmt (area 5)).getD k 0
    if x.lm then
      let q := bundleOf b (area 0)
      if q.indexed then adjointEnd d step slot ws b [bundleAdjoint x b q (sol 0) (stat 0) (g 0) (cbar 0)] s1
      else (none, solvSpoil s1 (adjointOut ws b))
    else if !factFits x b step (area 3) then (some (0x35, 0), s1)
    else
      let body := codesOf 8 ((area 0).drop 64)
      let size := b.n * (b.n + 1) / 2
      let fact := codesOf 8 ((area 3).drop 32)
      let out := (List.range b.count).map fun k =>
        let (rows, r) := linearSystem b body k
        linearAdjoint x b.n rows r (sol k) (stat k) ((fact.drop (k * size)).take size) (g k) (cbar k)
      adjointEnd d step slot ws b out s1

/-- CINCH_ADJOINT: the oldest issued one of die d executes (R322). -/
def execCinchAdjoint (d : Fin 4) (s : State) : Out :=
  let t := 300 + d.val
  match oldest s t 0x32 .issued with
  | none => disabled "CINCH_ADJOINT"
  | some f =>
    let b := storedBatch s (adjointOf f.words)
    if ¬ s.m.gateOpen ∨ areasLocked s (adjointOut f.words b :: adjointIns f.words b) then disabled "CINCH_ADJOINT"
    else let (bad, s1) := adjointRun d.val f.step f.slot f.words s; .next (endFlight s1 t f bad 0)

end Sys2Proof.Machine
end

