-- ==== Sys2Proof/Machine/Power.lean ====
section
/-! DEFINITION. Power domains (R476 to R484), the rein (R485 to R493), supply margins (R494, R495), thermal limits and the
trip (R497 to R500) and stack temperature (R275 to R277). -/

namespace Sys2Proof.Machine

/-! Domains. -/

/-- PWR_DOMAIN may switch the domain (Table 13-1). -/
def switchable (k : Nat) : Bool := decide (k < 60 ∨ 64 ≤ k ∧ k ≤ 75) || k == 77 || k == 78

/-- Ramp times (Table 13-4), in ns. -/
def rampDownNs (k : Nat) : Nat := if k < 60 then 50000 else 20000
def rampUpNs (k : Nat) : Nat := if k < 60 then 150000 else 100000

/-- Domains that hold one of the four ramp-up places (R484). -/
def rampingUp (s : State) : Nat := (s.m.domains.filter fun x : Nat × Domain => x.2.st == .rampUp && x.2.active).length

/-- A domain enters RAMP_UP; a fifth waits there for a place. -/
def beginUp (s : State) (k : Nat) (turn : Option DomReq) : State :=
  let go := decide (rampingUp s < 4)
  s.setDomain k { s.domain k with st := .rampUp, active := go, due := if go then s.after (rampUpNs k) else 0, turn := turn }

/-- A place of R484 is free: the lowest waiting domain takes it. -/
def grantRamp (s : State) : State :=
  match s.m.domains.find? fun x : Nat × Domain => x.2.st == .rampUp && !x.2.active with
  | some (k, x) => if rampingUp s < 4 then s.setDomain k { x with active := true, due := s.after (rampUpNs k) } else s
  | none => s

/-- Every place that is free goes to a waiting domain (R484). -/
def grantRamps (s : State) : State := (List.range 4).foldl (fun s _ => grantRamp s) s

/-- A host Ethernet port loses its link. -/
def ethLinkLost (s : State) (a : Fin 2) : State := s.setFld .ethPortStat a.val 0 0 3 0

/-- What leaves with a domain that starts to ramp down: a link port enters OFF, and collectives with frames waiting in it
end (Table 11-16); a host port loses its link and its
session (R463, R482). -/
def leaveDomain (s : State) (k : Nat) : State :=
  if 64 ≤ k ∧ k ≤ 75 then portOff (failWaiting s (k - 64)) (k - 64)
  else if k = 77 then closeSession (ethLinkLost s 0) 0
  else if k = 78 then closeSession (ethLinkLost s 1) 1
  else s

/-- A domain enters RAMP_DOWN. -/
def beginDown (s : State) (k : Nat) (turn : Option DomReq) : State :=
  let s1 := leaveDomain s k
  s1.setDomain k { s1.domain k with st := .rampDown, active := false, due := s.after (rampDownNs k), turn := turn }

/-- The check of an OFF request at its turn (R482): the status that refuses it, if one does. -/
def offRefusal (s : State) (k : Nat) (r : DomReq) : Option Nat :=
  if k < 60 ∧ ¬ groupQuiet s k then some stNotQuiescent
  else if k = 77 + r.port.val then some stSelfPort
  else none

/-- A request takes its turn in a domain that is ON or OFF (R480): whether a ramp now runs, and the state. -/
def runTurn (s : State) (k : Nat) (r : DomReq) : Bool × State :=
  let st := (s.domain k).st
  if r.on = (st == .on) then (false, finishTicket s r.ticket stOk 0)
  else if r.on then (true, beginUp s k (some r))
  else match offRefusal s k r with
    | some code => (false, finishTicket s r.ticket code 0)
    | none => (true, beginDown s k (some r))

/-- Requests that wait take their turns until one starts a ramp (R479); at most two wait. -/
def takeTurns : Nat → State → Nat → State
  | 0, s, _ => s
  | n + 1, s, k =>
    let x := s.domain k
    match x.waiting with
    | [] => s
    | r :: rest =>
      match runTurn (s.setDomain k { x with waiting := rest }) k r with
      | (true, s1) => s1
      | (false, s1) => takeTurns n s1 k

/-- The module's configuration is committed and its outputs are not held off (R503). -/
def outputsOn (s : State) : Bool := s.m.st == .running || s.m.st == .resetting

/-- A domain reaches ON (R483): saddle contents are lost, a link port trains once its outputs are on; an Ethernet port
starts auto-negotiation, which ETH_LINK_UP ends. -/
def enterOn (s : State) (k : Nat) : State :=
  if k < 60 then resetGroup s k
  else if 64 ≤ k ∧ k ≤ 75 ∧ outputsOn s then portStart s (k - 64)
  else s

/-- A PWR_DOMAIN request arrives (R479, R481). -/
def requestDomain (row : String) (c : Instr) (s : State) (q : Req) (k : Fin 80) (on : Bool) : Out :=
  omcp row c s q 0x91 true [] fun s =>
    let x := s.domain k.val
    if ¬ switchable k.val then { st := s, status := stState }
    else if (x.st = .on ∨ x.st = .off) ∧ x.waiting = [] then
      acceptTicket s q 0x91 stAccepted fun n s => (runTurn s k.val ⟨on, n, q.port⟩).2
    else if 2 ≤ x.waiting.length then { st := s, status := stState }
    else acceptTicket s q 0x91 stDeferred fun n s =>
      let y := s.domain k.val
      s.setDomain k.val { y with waiting := y.waiting ++ [⟨on, n, q.port⟩] }

/-- PWR_DOMAIN ON (R479 to R481). -/
def execPwrDomainOn (q : Req) (k : Fin 80) (s : State) : Out := requestDomain "PWR_DOMAIN_ON" (.pwrDomainOn q k) s q k true

/-- PWR_DOMAIN OFF (R479 to R482). -/
def execPwrDomainOff (q : Req) (k : Fin 80) (s : State) : Out := requestDomain "PWR_DOMAIN_OFF" (.pwrDomainOff q k) s q k false

/-- The request whose ramp has ended is told, and the domain's switch is logged (Table 13-3). -/
def endTurn (s : State) (k : Nat) (on : Bool) (turn : Option DomReq) : State :=
  match turn with
  | none => s
  | some r => logModule (finishTicket s r.ticket stOk 0) (if on then 0x0701 else 0x0700) (srcDomain k) (BitVec.setWidth 64 r.ticket) 0 0

/-- A ramp ends (R480, R481, R484): the domain reaches its state, the request is done, and the next one takes its turn. -/
def execDomainRampDone (k : Fin 80) (s : State) : Out :=
  let x := s.domain k.val
  let settle := fun (s : State) (on : Bool) =>
    let y : Domain := { x with st := if on then .on else .off, active := false, turn := none }
    takeTurns 3 (endTurn (s.setDomain k.val y) k.val on x.turn) k.val
  match x.st with
  | .rampUp => if x.active then .next (grantRamps (settle (enterOn (s.atTime x.due) k.val) true)) else disabled "DOMAIN_RAMP_DONE"
  | .rampDown => .next (grantRamps (settle (s.atTime x.due) false))
  | _ => disabled "DOMAIN_RAMP_DONE"

/-! The rein. -/

/-- PWR_CAP_SET (R490): a cap outside 1,000 to 3,600 W is refused (R463). -/
def execPwrCapSet (q : Req) (cap : BitVec 12) (s : State) : Out :=
  omcp "PWR_CAP_SET" (.pwrCapSet q cap) s q 0x90 true [] fun s =>
    if 1000 ≤ cap.toNat ∧ cap.toNat ≤ 3600 then { st := s.setCfg .pwrCap 0 0 (setField (s.reg .pwrCap 0 0) 0 12 cap.toNat), status := stOk }
    else { st := s, status := stCapRange }

/-- The supply of a domain (R476, R485): VCORE in the saddle groups and the clockless logic of the die-common domains, a fixed
rail's set point elsewhere (Table 13-6), in mV. -/
def supplyOf (s : State) (k : Nat) : Nat :=
  if k < 64 then s.fld .pwrStat 0 0 22 10
  else if k < 76 then 780
  else if k = 77 ∨ k = 78 then 780
  else 800

/-- The units of a saddle group whose domain is not ON are absent for the rein (R483). -/
def unitsPresent (s : State) (k : Nat) : Bool := decide (60 ≤ k) || s.domainOn k

/-- The estimate E of R485, in W, from the activity counts of a period: each count with its domain and its counter of that domain; a
saddle group that is not ON counts for nothing (R483)
(DESIGN CHOICE, log entry 20: the coefficients, the leakage, the fixed loads and the rounding are the part's). -/
def estimate (s : State) (counts : List (Nat × Nat × Nat)) : BitVec 16 :=
  let dynamic := ((counts.filter fun x : Nat × Nat × Nat => unitsPresent s x.1).map fun x : Nat × Nat × Nat => Config.coefficient x.1 x.2.1 * x.2.2 * supplyOf s x.1 ^ 2).foldl (· + ·) 0
  let temps := (List.range 7).map fun i => s.fld .thmJunc i 0 0 8
  Config.estimateWatts (dynamic / 750 ^ 2 + Config.leakage (s.fld .pwrStat 0 0 22 10) temps + Config.fixedPower)

/-- The rein runs from order 4 of boot (Table 14-3), with die M's firmware. -/
def reinRuns (s : State) : Bool :=
  s.m.supplied && s.m.st != .fwRecovery && !(s.m.st == .boot && s.m.bootStage != .training)

def vcore (s : State) : Nat := s.fld .pwrStat 0 0 22 10
def gate (s : State) : Nat := s.fld .pwrStat 0 0 15 7
def vmin (s : State) : Nat := s.fld .pwrVlimit 0 0 0 10
def vmax (s : State) : Nat := s.fld .pwrVlimit 0 0 16 10
def capWatts (s : State) : Nat := s.fld .pwrCap 0 0 0 12

def setPoint (s : State) (v g : Nat) : State := (s.setFld .pwrStat 0 0 22 10 v).setFld .pwrStat 0 0 15 7 g
def setFlag (s : State) (i : Nat) (b : Bool) : State := s.setFld .pwrStat 0 0 i 1 (if b then 1 else 0)

/-- A reined condition holds (R493). -/
def reinedNow (s : State) : Bool := decide (vcore s < s.fld .pwrReinCtrl 0 0 0 10 ∨ gate s < 100)

/-- Follow the reined conditions (R493): REINED is set at once, and ends 100 µs after they cease. -/
def followReined (s : State) : State :=
  if reinedNow s then
    let s1 := setFlag s 1 true
    { s1 with m := { s1.m with reinedEnd := none } }
  else if s.reined ∧ s.m.reinedEnd = none then { s with m := { s.m with reinedEnd := some (s.after 100000) } }
  else s

/-- The operating point after a period with estimate e (R489); `raise` is false while R498 acts. -/
def nextPoint (s : State) (e v g : Nat) (raise : Bool) : Nat × Nat :=
  let c := capWatts s
  let hyst := s.fld .pwrReinCtrl 0 0 16 4
  if c < e then
    if vmin s < v then (max (vmin s) (v - min 50 (5 * max 1 (100 * (e - c) / c))), g)
    else (v, max 10 (g - 5))
  else if raise ∧ 100 * e < c * (100 - hyst) then
    if g < 100 then (v, min 100 (g + 2)) else if v < vmax s then (v + 5, g) else (v, g)
  else (v, g)

/-- CAP_UNATTAINABLE is set after 250 periods above the cap at the lowest point, and cleared after 250 within it (R491). -/
def judgeCap (s : State) (e : Nat) (lowest : Bool) : State :=
  let c := capWatts s
  let above := if c < e ∧ lowest then s.m.overPeriods + 1 else 0
  let within := if c < e then 0 else s.m.underPeriods + 1
  let s1 := { s with m := { s.m with overPeriods := min 250 above, underPeriods := min 250 within } }
  let p1 := BitVec.ofNat 64 (s1.fld .pwrStat 0 0 32 16)
  if 250 ≤ above ∧ ¬ bit (s1.reg .pwrStat 0 0) 2 then
    logModule (setFlag s1 2 true) 0x0702 srcModule (BitVec.ofNat 64 c) p1 0
  else if 250 ≤ within ∧ bit (s1.reg .pwrStat 0 0) 2 then
    logModule (setFlag s1 2 false) 0x0703 srcModule (BitVec.ofNat 64 c) p1 0
  else s1

/-- One 4 µs period ends with its activity counts (R485, R489 to R492). -/
def execReinPeriod (counts : List (Nat × Nat × Nat)) (s : State) : Out :=
  if ¬ reinRuns s then disabled "REIN_PERIOD"
  else
    let s0 := s.atTime (s.m.lastPeriod + 4000)
    let e := estimate s0 counts
    let est := (e.toNat :: s0.m.estimates).take 250
    let s1 := { s0 with m := { s0.m with estimates := est, lastPeriod := s0.time } }
    let s2 := (s1.setFld .pwrStat 0 0 48 16 e.toNat).setFld .pwrStat 0 0 32 16 (est.foldl (· + ·) 0 / est.length)
    let v := min (vmax s2) (max (vmin s2) (vcore s2))
    let g := gate s2
    let limiting := bit (s2.reg .pwrStat 0 0) 3
    let (v', g') := nextPoint s2 e.toNat v g (!limiting)
    let s3 := setFlag (setPoint s2 v' g') 0 (decide (v' < v ∨ g' < g))
    .next (followReined (judgeCap s3 e.toNat (v == vmin s2 && g == 10)))

/-- A 1 µs window of module time opens the issue gate at the level in force; it closes after GATE × 10 ns (R488). -/
def execGateWindow (closes : Bool) (s : State) : Out :=
  if ¬ reinRuns s then disabled "GATE_WINDOW"
  else if closes then
    if s.m.gateOpen ∧ s.m.gateLevel < 100 then
      let s1 := s.atTime (BitVec.ofNat 64 (s.time.toNat / 1000 * 1000 + 10 * s.m.gateLevel))
      .next { s1 with m := { s1.m with gateOpen := false } }
    else disabled "GATE_WINDOW"
  else
    let s1 := s.atTime (BitVec.ofNat 64 ((s.time.toNat + 999) / 1000 * 1000))
    .next { s1 with m := { s1.m with gateOpen := true, gateLevel := gate s1 } }

/-- The module stops being reined 100 µs after both conditions have ceased (R493). -/
def execReinedExit (s : State) : Out :=
  match s.m.reinedEnd with
  | some t =>
    let s1 : State := { s.atTime t with m := { (s.atTime t).m with reinedEnd := none } }
    .next (if reinedNow s1 then s1 else setFlag s1 1 false)
  | none => disabled "REINED_EXIT"

/-! Measurements. -/

/-- The 54 V input is measured (R487): volt in 10 mV, amp in 10 mA, watt in W. -/
def execInputSample (volt amp watt : BitVec 16) (s : State) : Out :=
  if ¬ s.m.supplied then disabled "INPUT_SAMPLE"
  else .next (s.setReg .pwrInput 0 0 (place 32 16 watt.toNat ||| place 16 16 volt.toNat ||| place 0 16 amp.toNat))

/-- Minimum of a fixed rail in mV (Table 13-6). -/
def railMin (i : Nat) : Nat := if i = 5 then Config.hbmSupplyMin else [740, 740, 720, 720, 740].getD i 0

/-- One rail is sampled against its set point and minimum (R495). -/
def sampleRail (s : State) (i mv : Nat) : State :=
  let s1 := (s.setFld .pwrRail i 0 0 14 mv).setFld .pwrRail i 0 14 14 (min mv (s.fld .pwrRail i 0 14 14))
  let s2 :=
    if mv < railMin i + 60 then
      let last : Option Word := sget none s1.m.guardLogged i
      let due := match last with
        | some t => decide (t.toNat + 1000000000 ≤ s1.time.toNat)
        | none => true
      let s3 := s1.setFld .pwrRail i 0 28 1 1
      if due then
        logModule { s3 with m := { s3.m with guardLogged := sset none s3.m.guardLogged i (some s3.time) } } 0x0704 (srcRail i) (BitVec.ofNat 64 mv) 0 0
      else s3
    else s1
  if mv < railMin i then logModule (s2.setFld .pwrRail i 0 29 1 1) 0x0705 (srcRail i) (BitVec.ofNat 64 mv) 0 0 else s2

/-- Every fixed rail is sampled (R495). -/
def execRailSample (mv : List (BitVec 14)) (s : State) : Out :=
  if ¬ s.m.supplied then disabled "RAIL_SAMPLE"
  else
    let s1 := mv.zipIdx.foldl (fun s x => sampleRail s x.2 x.1.toNat) s
    .next { s1 with m := { s1.m with railsRead := true } }

/-! Temperatures. -/

/-- The reading of a die or stack in °C; readings are signed bytes. -/
def celsius (n : Nat) : Int := signedOf 8 n

/-- The hottest of the dies' readings, and its die. -/
def hottest (s : State) : Int × Nat :=
  (List.range 7).foldl (fun (a : Int × Nat) i =>
    let t := celsius (s.fld .thmJunc i 0 0 8)
    if i = 0 ∨ a.1 < t then (t, i) else a) (0, 0)

def hotStack (s : State) : Int :=
  (List.range 32).foldl (fun (a : Int) n => max a (celsius (s.fld .hbmRefreshMult n 0 16 8))) (celsius (s.fld .hbmRefreshMult 0 0 16 8))

def byteOfInt (x : Int) : Nat := (BitVec.ofInt 8 (max (-128) (min 127 x))).toNat

/-- THM_STAT follows the last readings (R499). -/
def followMargin (s : State) : State :=
  let (j, d) := hottest s
  let st := hotStack s
  let m := min ((s.fld .thmCtrl 0 0 0 8 : Int) - j) (105 - st)
  s.setReg .thmStat 0 0 (place 24 8 (byteOfInt m) ||| place 16 8 (byteOfInt st) ||| place 8 8 (byteOfInt j) ||| place 0 3 d)

/-- Successive samples at or above 105 °C, and the time since when readings are lost (R500). -/
def countJunction (s : State) (i : Nat) (t : Option (BitVec 8)) : State :=
  match t with
  | none =>
    let since : Option Word := sget none s.m.lostSince i
    { s with m := { s.m with lostSince := sset none s.m.lostSince i (some (since.getD s.time)) } }
  | some v =>
    let hot := decide (105 ≤ celsius v.toNat)
    let n := if hot then sget 0 s.m.hotJunctions i + 1 else 0
    let s1 := { s with m := { s.m with lostSince := sset none s.m.lostSince i none, hotJunctions := sset 0 s.m.hotJunctions i (min 3 n) } }
    let mx := max (celsius (s1.fld .thmJunc i 0 8 8)) (celsius v.toNat)
    s1.setReg .thmJunc i 0 (place 8 8 (byteOfInt mx) ||| place 0 8 v.toNat)

/-- The hottest junction of each die is read (R497 to R499), by die M from order 2 of boot on; the limit acts with the rein. -/
def execJunctionSample (temps : List (Option (BitVec 8))) (s : State) : Out :=
  if ¬ s.m.supplied then disabled "JUNCTION_SAMPLE"
  else
    let s1 := followMargin (temps.zipIdx.foldl (fun s x => countJunction s x.2 x.1) s)
    let (j, d) := hottest s1
    let lim : Int := (s1.fld .thmCtrl 0 0 0 8 : Int)
    let p0 : Word := BitVec.ofInt 64 j
    let on := bit (s1.reg .pwrStat 0 0) 3
    if ¬ reinRuns s then .next s1
    else if lim ≤ j ∧ ¬ on then .next (logModule (setFlag s1 3 true) 0x0800 (srcDie d) p0 0 0)
    else if j ≤ lim - 3 ∧ on then .next (logModule (setFlag s1 3 false) 0x0801 (srcDie d) p0 0 0)
    else .next s1

/-- While limiting, VCORE or GATE is lowered by one step every 1 ms (R498). -/
def execThermalLimitAction (s : State) : Out :=
  if reinRuns s ∧ bit (s.reg .pwrStat 0 0) 3 then
    let v := vcore s
    let g := gate s
    .next (followReined (if vmin s < v then setPoint s (max (vmin s) (v - 5)) g else setPoint s v (max 10 (g - 5))))
  else disabled "THERMAL_LIMIT_ACTION"

/-- What trips (R500): its source, its reading, and whether readings were lost. -/
def tripCause (s : State) : Option (Src × Word × Bool) :=
  match s.m.hotJunctions.find? fun x : Nat × Nat => 3 ≤ x.2 with
  | some x => some (srcDie x.1, BitVec.ofNat 64 (s.fld .thmJunc x.1 0 0 8), false)
  | none =>
    match s.m.hotStacks.find? fun x : Nat × Nat => 3 ≤ x.2 with
    | some x => some (srcStack x.1, BitVec.ofNat 64 (s.fld .hbmRefreshMult x.1 0 16 8), false)
    | none =>
      match s.m.lostSince.find? fun x : Nat × Option Word => match x.2 with
        | some t => decide (t.toNat + 1000000 ≤ s.time.toNat)
        | none => false with
      | some x => some (srcDie x.1, 0, true)
      | none => none

/-- A refused or ended PWR_DOMAIN request (R500). -/
def endRequests (s : State) (k status : Nat) : State :=
  let x := s.domain k
  let reqs := x.turn.toList ++ x.waiting
  reqs.foldl (fun s (r : DomReq) => finishTicket s r.ticket status 0) (s.setDomain k { x with turn := none, waiting := [] })

/-- A domain is switched off at once by the trip or the MODULE rung (R500, R519). -/
def forceDown (s : State) (k : Nat) : State :=
  match (s.domain k).st with
  | .off | .rampDown => s
  | .on | .rampUp => beginDown s k (s.domain k).turn

/-- Set a stack's refresh multiplier and throttle, logging what changes (R275). -/
def setRefresh (s : State) (n temp mult : Nat) (thr lost : Bool) : State :=
  let old := s.reg .hbmRefreshMult n 0
  let s1 := s.setReg .hbmRefreshMult n 0
    (place 16 8 temp ||| place 8 2 (field old 8 2) ||| placeBit 4 lost ||| placeBit 3 thr ||| place 0 3 mult)
  let t := place 8 8 temp
  let s2 := if mult ≠ field old 0 3 then logModule s1 0x0204 (srcStack n) (t ||| place 0 3 mult) 0 0 else s1
  if thr ≠ bit old 3 then logModule s2 0x0205 (srcStack n) (t ||| placeBit 0 thr) 0 0 else s2

/-- The multiplier a reading gives from the present one (Table 7-6), never below the floor. -/
def nextMult (mult floor : Nat) (t : Int) : Nat :=
  let m := if mult = 1 then (if 95 ≤ t then 4 else if 85 ≤ t then 2 else 1)
    else if mult = 2 then (if 95 ≤ t then 4 else if t ≤ 82 then 1 else 2)
    else (if t ≤ 92 then 2 else 4)
  max m floor

/-- One stack's temperature is read, or the read fails (R275, R277). -/
def readStack (s : State) (n : Nat) (t : Option (BitVec 8)) : State :=
  let w := s.reg .hbmRefreshMult n 0
  match t with
  | none =>
    let c := sget 0 s.m.failedReads n + 1
    let s1 := { s with m := { s.m with failedReads := sset 0 s.m.failedReads n (min 3 c) } }
    if c = 3 then
      logModule (setRefresh s1 n (field w 16 8) 4 true true) 0x0206 (srcStack n) 0 0 0
    else s1
  | some v =>
    let x := celsius v.toNat
    let hot := if 105 ≤ x then sget 0 s.m.hotStacks n + 1 else 0
    let s1 := { s with m := { s.m with failedReads := sset 0 s.m.failedReads n 0, hotStacks := sset 0 s.m.hotStacks n (min 3 hot) } }
    let floor := 2 ^ field w 8 2
    let mult := nextMult (if bit w 4 then 1 else field w 0 3) floor x
    let thr := decide (101 ≤ x) || (bit w 3 && !bit w 4 && decide (97 < x) && mult == 4)
    setRefresh s1 n v.toNat mult thr false

/-- Every stack's temperature is read. -/
def readStacks (s : State) (temps : List (Option (BitVec 8))) : State :=
  followMargin (temps.zipIdx.foldl (fun s x => readStack s x.2 x.1) s)

/-- Every stack's temperature is read (R275 to R277, R499); the stacks run from boot order 5. In TRIPPED their sensors go on being
read through the test port, as R500 judges every sensor (DESIGN CHOICE, log entry 72). -/
def execHbmTempRead (temps : List (Option (BitVec 8))) (s : State) : Out :=
  if s.m.st ≠ .tripped ∧ ¬ (s.domainOn 60 && s.domainOn 61 && s.domainOn 62 && s.domainOn 63) then disabled "HBM_TEMP_READ"
  else .next (readStacks s temps)

/-! What a register write starts at once. -/

/-- A new REINED_MV and a new JUNC_LIMIT act at once (R493, R499). -/
def followWrite (s : State) (k : RegKind) : State :=
  if k = .pwrReinCtrl ∧ reinRuns s then followReined s
  else if k = .thmCtrl then followMargin s
  else s

end Sys2Proof.Machine
end

