-- ==== Sys2Proof/Machine/Boot.lean ====
section
/-! DEFINITION. Power-on, boot, the recovery ladder and the thermal trip (R500, R502 to R506, R516 to R519, R531 to R533,
R568 to R570). -/

namespace Sys2Proof.Machine

/-! What outlasts a removal of power. -/

/-- HBM_PPR_AVAIL follows the repair resources spent (R274). -/
def showRepairs (s : State) : State :=
  (s.mem.pprSoft ++ s.mem.pprHard).foldl (fun s x => s.setReg .hbmPprAvail x.1 0 (s.reg .hbmPprAvail x.1 0 &&& ~~~x.2)) s

/-- The fuses and the HSS index are read from their store (Tables 15-10, 15-12). -/
def keepRoot (old s : State) : State :=
  let fuses := old.reg .secStat 0 0 &&& place 40 16 0xFFFF
  ((s.setReg .secStat 0 0 fuses).setReg .secHssIndex 0 0 (old.reg .secHssIndex 0 0)).setReg .secHssIndexInv 0 0 (old.reg .secHssIndexInv 0 0)

/-- The root of trust's store, with no image running. -/
def restSecurity (x : Security) : Security := { x with version := 0, floorSvn := 0, revoke := 0, configExtends := 0 }

/-- The module without power: only non-volatile stores keep anything (R519, R569). -/
def unpowered (s : State) (powerCode : Bool) : State :=
  let s0 : State :=
    { pending := s.pending, freeCount := s.freeCount, sent := s.sent, sec := restSecurity s.sec, mem := { pprHard := s.mem.pprHard }
      m := { powerCode := powerCode, mediaSel := s.m.mediaSel, input := { s.m.input with offFor := 0 } } }
  showRepairs (keepRoot s s0)

/-! Power-on and boot (Table 14-3). -/

def onDomain : Domain := { st := .on }

/-- Domains reach ON with boot. -/
def raise (ks : List Nat) (s : State) : State := ks.foldl (fun s k => s.setDomain k onDomain) s

/-- The conditions of R568: MATED is seated (R561), MOD_EN is high, VIN has stayed within its limits for 10 ms, and 2 s have passed since
the stage last removed power, for whatever cause (R570). -/
def inputQualifies (x : InputStage) : Bool := x.mated && x.modEn && decide (msNs 10 ≤ x.vinHeld) && decide (msNs 2000 ≤ x.offFor)

/-- INPUT_QUALIFIED (R505, R568): domains 76 and 79 have power, and boot begins. The POWER code is read and cleared (R519). -/
def execInputQualified (s : State) : Out :=
  if s.m.supplied ∨ ¬ inputQualifies s.m.input then disabled "INPUT_QUALIFIED"
  else
    let m : Mgmt := { supplied := true, mediaSel := s.m.mediaSel, input := s.m.input, bootStage := .verify,
                      lastRung := if s.m.powerCode then 3 else 0 }
    .next (restartMeasurements (raise [76, 79] { s with m := m }))

/-- INPUT_POWER_REMOVAL (R569): every domain loses power at once, and qualification begins anew. A cause that comes while the stage is
off already makes the 2 s begin again (R570). -/
def execInputPowerRemoval (s : State) : Out :=
  let s1 := if s.m.supplied then unpowered s false else s
  .next { s1 with m := { s1.m with input := { s1.m.input with vinHeld := 0, offFor := 0 } } }

/-- Start the image of a slot (R532, R538). -/
def startImage (s : State) (k : Nat) : State :=
  let x := s.slot k
  let w := setField (setField (setField (s.reg .secStat 0 0) 56 8 (field (slotWord x 8) 0 8)) 38 2 (field (slotWord x 16) 0 2)) 37 1 k
  let sec := { s.sec with version := slotWord x 88, floorSvn := BitVec.ofNat 8 (field (slotWord x 24) 0 8),
                          revoke := BitVec.ofNat 4 (field (slotWord x 16) 8 4) }
  let s1 : State := { s.setReg .secStat 0 0 w with sec := sec }
  extend { s1 with m := { s1.m with bootStage := .training } } 1 (sha384 (imageSigned x))

/-- MEDIA of both host ports is sampled (R451, R563). -/
def setMedia (s : State) (cr : Bool) : State :=
  let v := if cr then 1 else 0
  (s.setFld .ethPortStat 0 0 3 1 v).setFld .ethPortStat 1 0 3 1 v

/-- Neither slot is valid: the ROM's recovery firmware runs (R532, R534). MEDIA_SEL is sampled as the ports ramp (R563). -/
def enterRecovery (s : State) : State :=
  let s1 : State := { s with m := { s.m with st := .fwRecovery, bootStage := .idle } }
  setMedia (raise [77, 78] (extend s1 2 Config.recoveryDigest)) s.m.mediaSel

/-- FW_VERIFY_DONE (R531, R532). -/
def execFwVerifyDone (s : State) : Out :=
  if ¬ s.m.supplied ∨ s.m.st ≠ .boot ∨ s.m.bootStage ≠ .verify then disabled "FW_VERIFY_DONE"
  else
    let k := selectedSlot s
    match failingCheck s (s.slot k) with
    | none => .next (startImage s k)
    | some c =>
      let s1 := logModule s 0x0B00 srcModule (BitVec.ofNat 64 k) (BitVec.ofNat 64 c) 0
      if (failingCheck s1 (s1.slot (1 - k))).isNone then .next (startImage s1 (1 - k)) else .next (enterRecovery s1)

/-- The floor, a thermometer of 64 fuse bits, rises and revoke fuses burn (R533). -/
def burnFuses (s : State) : State :=
  let old := fusedFloor s
  let new := min 64 s.sec.floorSvn.toNat
  let s1 := if old < new then logModule (s.setFld .secStat 0 0 48 8 new) 0x0B01 srcModule (BitVec.ofNat 64 old) (BitVec.ofNat 64 new) 0
    else s
  (List.range 4).foldl (fun s k =>
    if s.sec.revoke.toNat.testBit k ∧ k ≠ s.fld .secStat 0 0 38 2 ∧ ¬ rootRevoked s k then
      logModule (s.setFld .secStat 0 0 (44 + k) 1 1) 0x0B02 srcModule (BitVec.ofNat 64 k) 0 0
    else s) s1

/-- The parts that failed, as sources of BOOT_HW_FAIL: a bridge has no source of its own. -/
def failedParts (stackFail : BitVec 32) (dieFail : BitVec 7) (bridgeFail : BitVec 18) : List Src :=
  ((List.range 32).filter fun n => stackFail.toNat.testBit n).map srcStack
    ++ ((List.range 7).filter fun n => dieFail.toNat.testBit n).map srcDie
    ++ ((List.range 18).filter fun n => bridgeFail.toNat.testBit n).map fun _ => srcModule

/-- The microcode of each die is measured as it is loaded (Table 15-5). -/
def measureDies (s : State) : State :=
  let x := s.slot (runSlot s)
  let payload := slotBytes x 128 (imageLength x)
  (List.range 6).foldl (fun s i => extend s 1 (Config.microcodeDigest payload i)) s

/-- BOOT_HW_TRAINING_DONE (R505, R506, R533): orders 4 to 7. The temperatures of order 5 come with it, and the level of MEDIA_SEL
(R563). -/
def execBootHwTrainingDone (stackFail : BitVec 32) (dieFail : BitVec 7) (bridgeFail : BitVec 18)
    (samples : BootSamples) (s : State) : Out :=
  if ¬ s.m.supplied ∨ s.m.st ≠ .boot ∨ s.m.bootStage ≠ .training then disabled "BOOT_HW_TRAINING_DONE"
  else
    let stat := place 40 18 bridgeFail.toNat ||| place 32 7 dieFail.toNat ||| place 0 32 stackFail.toNat
    let s1 := (measureDies s).setReg .cfgBootStat 0 0 stat
    let s2 := (failedParts stackFail dieFail bridgeFail).foldl (fun s x => logModule s 0x0A00 x stat 0 0) s1
    let s3 := if dieFail = 0 ∧ bridgeFail = 0 then burnFuses s2 else s2
    let s4 := setMedia (raise ([60, 61, 62, 63] ++ (List.range 12).map (64 + ·) ++ [77, 78]) (readStacks s3 samples.temps)) samples.mediaSel
    .next { s4 with m := { s4.m with st := .waitHost, bootStage := .idle, hwFailed := stat != 0, mediaSel := samples.mediaSel } }

/-! Status outputs (R504 Table 14-2). -/

/-- STAT_OK and STAT_ATTN: whether each is asserted; the table gives no levels for COMMITTING. -/
def statusOutputs (s : State) : Option (Bool × Bool) :=
  match s.m.st with
  | .boot => some (false, false)
  | .committing => none
  | .waitHost => some (false, s.m.commitFailed || s.m.hwFailed)
  | .running => some (true, haltedAny s)
  | .resetting => some (true, true)
  | .tripped | .fwRecovery => some (false, true)

/-- AUX_3V3 of J2 (Table 17-3). -/
def auxPower (s : State) : Bool := s.domainOn 76

/-- VCBL of J10 + p (Table 17-5). -/
def cablePower (s : State) (p : Nat) : Bool := s.domainOn (64 + p)

/-- VCBL of the spare connector J30 + l: the port of the link die to which a spare is assigned is ON; the connector has one contact
for its four spares (Table 17-5; DESIGN CHOICE, log entry 74). -/
def sparePower (s : State) (l : Nat) : Bool :=
  (List.range 4).any fun k => s.fld .aflSpareMap l 0 (8 * k + 7) 1 == 1 && s.domainOn (64 + 6 * l + s.fld .aflSpareMap l 0 (8 * k) 3)

/-! The FUNCTION rung (R518). -/

/-- MODULE_RESET with the FUNCTION rung (R517, R518). -/
def execModuleResetFunction (q : Req) (s : State) : Out :=
  omcp "MODULE_RESET_FUNCTION" (.moduleResetFunction q) s q 0x44 true [] fun s =>
    if s.m.st ≠ .running then { st := s, status := stState }
    else acceptTicket s q 0x44 stAccepted fun n s =>
      let s1 : State := { s with m := { s.m with st := .resetting, lastRung := 1, rung := .function n s.time } }
      tryFinishFunction (cancelQueued ((List.range 304).foldl (fun s t => enterHalt s t true) s1))

/-- The ranges of a list of HBM areas become free values. -/
def scrambleAll (s : State) (rs : List (Nat × Nat)) : State :=
  rs.foldl (fun s r => scramble s r.1 (min r.2 (hbmSize - r.1))) s

/-- HBM that a descriptor in flight may have written. -/
def mayWrite (s : State) (t : Nat) (f : InFlight) : List (Nat × Nat) :=
  let ws := f.words
  let areas := fun (xs : List Area) => xs.map fun x : Area => (x.a, x.n)
  let tensors := fun (bs : List Binding) => bs.flatMap fun b => (writeRanges b).map fun r : Nat × Nat × Nat => (r.2.1, r.2.2)
  match dOpcode ws with
  | 0x20 =>
    let c := copyOf ws
    if c.dst.space = 1 then [(c.dstExtent.1.toNat, (c.dstExtent.2 + 1 - c.dstExtent.1).toNat)] else []
  | 0x30 => areas [(assembleOf ws).out]
  | 0x31 => areas (solveOuts ws (storedBatch s (solveOf ws)))
  | 0x32 => areas [adjointOut ws (storedBatch s (adjointOf ws))]
  | 0x38 => tensors ((s.u.queues.flatMap Prod.snd).filterMap fun w : UpdWork =>
      if w.die = t - 300 ∧ w.slot = f.slot ∧ w.step = f.step then some (bindingOf w.bytes) else none)
  | 0x40 =>
    let ret := if (dRet ws).absent then [] else [((dRet ws).addr, 16)]
    let own := s.f.colls.filter fun c : Coll => c.die == t - 300 && c.slot == f.slot && c.step == f.step
    let bufs := own.flatMap fun c : Coll => (c.stages.filter fun g : Stage => g.op != 3).map fun g => (c.buf + stageStart c g, stageBytes g)
    let girths := (s.f.landing.filter fun x : Landing => own.any fun c : Coll => c.id == x.coll).map fun x : Landing =>
      bindingOf (s.bytesAt x.bind 128)
    ret ++ bufs ++ tensors girths
  | _ => []

/-- A descriptor is abandoned (R518): what it writes is undefined, its completion record with it. -/
def abandon (s : State) (t : Nat) (f : InFlight) : State :=
  scrambleAll s (mayWrite s t f ++ [((s.reg .dspCplBase t 0).toNat + 32 * f.slot, 32)])

/-- FUNCTION_RUNG_DRAIN_TIMEOUT (R518): 100 ms have passed with descriptors in flight, and they are abandoned. -/
def execFunctionRungDrainTimeout (s : State) : Out :=
  match s.m.rung with
  | .function n since =>
    if ¬ s.maint.running.isEmpty ∨ noneInFlight s then disabled "FUNCTION_RUNG_DRAIN_TIMEOUT"
    else
      let s1 := s.atTime (since + BitVec.ofNat 64 (msNs 100))
      let s2 := s1.d.stirrups.foldl (fun s z => z.2.flight.foldl (fun s f => abandon s z.1 f) s) s1
      .next (finishFunction s2 n)
  | _ => disabled "FUNCTION_RUNG_DRAIN_TIMEOUT"

/-! The MODULE and POWER rungs (R517, R519). -/

/-- Every sensor, of a junction or of a stack, reads below 85 °C (R500); each as it was read last. -/
def cooled (s : State) : Bool :=
  ((List.range 7).all fun i => decide (celsius (s.fld .thmJunc i 0 0 8) < 85))
    && (List.range 32).all fun n => decide (celsius (s.fld .hbmRefreshMult n 0 16 8) < 85)

/-- The MODULE and POWER rungs are accepted (R517). -/
def rungAllowed (s : State) : Bool :=
  match s.m.st with
  | .waitHost | .running | .fwRecovery => true
  | .tripped => cooled s
  | _ => false

/-- MODULE_RESET with a rung that starts 10 ms later (R519, R525). -/
def moduleReset (row : String) (c : Instr) (r : Rung) (q : Req) (s : State) : Out :=
  omcp row c s q 0x44 true [] fun s =>
    if ¬ rungAllowed s then { st := s, status := stState }
    else acceptTicket s q 0x44 stAccepted fun n s =>
      let s1 : State := { s with m := { s.m with delayed := s.m.delayed ++ [(r, s.after (msNs 10))] } }
      cancelQueued (finishTicket s1 n stOk 0)

/-- MODULE_RESET with the MODULE rung (R519). -/
def execModuleResetModule (q : Req) (s : State) : Out := moduleReset "MODULE_RESET_MODULE" (.moduleResetModule q) .module q s

/-- MODULE_RESET with the POWER rung (R519). -/
def execModuleResetPower (q : Req) (s : State) : Out := moduleReset "MODULE_RESET_POWER" (.moduleResetPower q) .power q s

/-- Running and queued activities end with STATE (R519). -/
def endActivities (s : State) : State :=
  let s1 := s.maint.running.foldl (fun s a => tellEnd s a stState 0) { s with maint := { s.maint with running := [] } }
  cancelQueued { s1 with f := { s1.f with copy := none } }

/-- The MODULE rung (R519, R549, Table 14-11): what it keeps, with boot at order 3. -/
def restartModule (s : State) : State :=
  let domains := (s.m.domains.filter fun x : Nat × Domain => decide (76 ≤ x.1)).map fun x : Nat × Domain =>
    (x.1, { x.2 with turn := none, waiting := [] })
  let s0 : State :=
    { pending := s.pending, freeCount := s.freeCount, sent := s.sent, time := s.time
      regs := s.regs.filter fun x : Nat × Word => keptByModuleRung x.1
      cfgInv := s.cfgInv.filter fun x : Nat × Word => keptByModuleRung x.1
      h := { log := s.h.log, logHead := s.h.logHead }, sec := restSecurity s.sec
      mem := { pprSoft := s.mem.pprSoft, pprHard := s.mem.pprHard }
      m := { supplied := true, mediaSel := s.m.mediaSel, input := s.m.input, bootStage := .verify, lastRung := 2, domains := domains } }
  let s1 := (s0.setReg .omcEventSub 0 0 0).setReg .omcEventSub 1 0 0
  restartMeasurements (showRepairs (keepRoot s (grantRamps s1)))

/-- A HARD row repair is running; the rung waits for it (R519). -/
def hardRepair (s : State) : Bool :=
  s.maint.running.any fun a : Act => match a.what with
    | .rowRepair _ _ h => h
    | _ => false

/-! The thermal trip (R500) and the start of a rung. -/

/-- Work that the trip or a rung's start cuts off is told STATE (DESIGN CHOICE, log entry 39). -/
def cutOff (s : State) : State :=
  let s1 := endActivities s
  let s2 := match s1.c.commit with
    | some n => finishTicket { s1 with c := { s1.c with commit := none } } n stState 0
    | none => s1
  match s2.m.rung with
  | .function n _ => finishTicket { s2 with m := { s2.m with rung := .none } } n stState 0
  | _ => s2

/-- RUNG_START (R519). A rung accepted after one that starts goes on waiting, but for POWER's (DESIGN CHOICE, log entry 39). -/
def execRungStart (s : State) : Out :=
  match s.m.delayed with
  | (r, due) :: rest =>
    if hardRepair s then disabled "RUNG_START"
    else
      let s1 := cutOff (s.atTime due)
      match r with
      | .module =>
        let s2 := restartModule s1
        .next { s2 with m := { s2.m with delayed := rest } }
      | .power => .next (unpowered s1 true)
  | [] => disabled "RUNG_START"

/-- THERMAL_TRIP (R500, R502). -/
def execThermalTrip (s : State) : Out :=
  match (if s.m.st = .tripped ∨ ¬ s.m.supplied then none else tripCause s) with
  | none => disabled "THERMAL_TRIP"
  | some (src, reading, lost) =>
    let s1 := grantRamps (burnishersIdle ((List.range 12).foldl closeGirth ((List.range 76).foldl forceDown s)))
    let s2 := (List.range 80).foldl (fun s k => endRequests s k stState) s1
    let s3 := setFlag (logModule s2 0x0802 src reading (placeBit 0 lost) 0) 4 true
    let s4 := cutOff s3
    let s5 : State := { s4 with m := { s4.m with st := .tripped, bootStage := .idle }, u := {}, a := {} }
    .next (dropDatapath s5)

end Sys2Proof.Machine
end

