-- ==== Sys2Proof/Machine/Breech.lean ====
section
/-! DEFINITION. Data ingress (R366 to R369, R467, R468): DATA_PUT and DATA_PUT_MULTI, and when a step's inputs are
complete (R31). -/

namespace Sys2Proof.Machine

/-- Fragments of a record (R467). -/
def fragCount (s : State) : Nat := ceilDiv (recBytes s) 8192

/-- Bytes of fragment f of a record; none where the record has no such fragment (R467). -/
def recordFragBytes (s : State) (f : Nat) : Option Nat :=
  if 8192 * f < recBytes s then some (min (8192 * (f + 1)) (recBytes s) - 8192 * f) else none

/-- Where fragment f of position k of a step is stored (R366). -/
def recordAddr (s : State) (step : Word) (k f : Nat) : Nat :=
  (s.reg .brcSlotBase (k % 4) 0).toNat + stepSlot s step * (ceilDiv (nPos s) 4 * recBytes s) + k / 4 * recBytes s + 8192 * f

/-- The fragments received for a step. -/
def gotOf (s : State) (step : Word) : List (Nat × Bool) := sget [] s.a.got (stepSlot s step)

def markGot (s : State) (step : Word) (k f : Nat) : State :=
  { s with a := { s.a with got := sset [] s.a.got (stepSlot s step) (sset false (gotOf s step) (2048 * k + f) true) } }

/-- Every fragment of every position of a step has been received (R31, R367). -/
def inputsComplete (s : State) (step : Word) : Bool := (gotOf s step).length == nPos s * fragCount s

/-- The index of a position in its step. -/
def posIndex (s : State) (step pos : Word) : Nat := (pos - stepPos s step).toNat

/-- The member's values by which a record is judged. -/
def recordValues : List RegKind := [.cfgRole, .brcPos0, .brcLastReleased]

/-- Rows 1 to 5 of Table 10-1: the status that refuses a record, if one does. A role, BRC_POS0 or BRC_LAST_RELEASED that differs from
its complement is not used (R29; DESIGN CHOICE, log entry 65). -/
def recordRefusal (s : State) (step stepInv pos posInv : Word) : Option Nat :=
  if !complOk step stepInv || !complOk pos posInv || (firstUnheld s recordValues).isSome then some stBrcComplement
  else if s.role = 0xFFF then some stBrcNoRole
  else if nPos s ≤ posIndex s step pos then some stBrcPosInvalid
  else if stepDiff step (lastReleased s) > depth s then some stBrcFull
  else if stepDiff step (lastReleased s) ≤ 0 ∨ inputsComplete s step then some stBrcSealed
  else none

/-- A write that covers only part of its first or last line meets a line it cannot read (R265, R367). -/
def edgeError (s : State) (a n : Nat) : Option MemErr :=
  let ends := (if a % 64 = 0 then [] else [a / 64]) ++ (if (a + n) % 64 = 0 then [] else [(a + n) / 64])
  ends.findSome? fun l =>
    match decodeLine ((reveal s l).line l) ((reveal s l).lineMeta l) with
    | (.uncorrectable, _, _) => some (.uncorrectable (64 * l))
    | (.badTag, _, _) => some (.badTag (64 * l))
    | _ => none

/-- Store a fragment (R367 rows 6 and 7): its status, and the state. -/
def storeFragment (s : State) (step : Word) (k f : Nat) (bs : Bytes) : Nat × State :=
  let a := recordAddr s step k f
  let bad := edgeError s a bs.length
  match memWrite s .ingress {} a bs with
  | (some e, s1) => (memStatus e, noteErr s1 .ingress e)
  | (none, s1) =>
    match bad with
    | some e => (memStatus e, s1)
    | none =>
      let s2 := if sget false (gotOf s1 step) (2048 * k + f) then s1.countWrap .brcDupCnt 0 0 0 64 1 else s1
      (stOk, markGot s2 step k f)

/-- COMPLEMENT_ERROR of a packet's step or position (Table 1-5). -/
def noteComplement (s : State) (a : Fin 2) (kind : Nat) (v inv : Word) : State :=
  if complOk v inv then s else logComplement s (srcHost a.val) kind v inv

/-- One record or fragment, by Table 10-1. -/
def putFragment (s : State) (step stepInv pos posInv : Word) (f : Nat) (bs : Bytes) : Nat × State :=
  match recordRefusal s step stepInv pos posInv with
  | some st => (st, noteHeld s recordValues)
  | none => storeFragment s step (posIndex s step pos) f bs

/-- A record that would be stored lies on a stack whose row is being repaired (R273). -/
def putWaits (s : State) (step stepInv pos posInv : Word) (f n : Nat) : Bool :=
  (recordRefusal s step stepInv pos posInv).isNone && hbmLocked s (recordAddr s step (posIndex s step pos) f) n

/-- DATA_PUT (R467, R468). -/
def execDataPut (q : Req) (step stepInv pos posInv : Word) (frag : BitVec 11) (data : Bytes) (s : State) : Out :=
  let echo := wordsBytes [step, stepInv, pos, posInv, place 0 11 frag.toNat]
  omcpWait "DATA_PUT" (.dataPut q step stepInv pos posInv frag data) s q 0x30 (recordFragBytes s frag.toNat == some data.length) echo
    (fun s => putWaits s step stepInv pos posInv frag.toNat data.length) fun s =>
    let s1 := noteComplement (noteComplement s q.port 5 step stepInv) q.port 6 pos posInv
    let (st, s2) := putFragment s1 step stepInv pos posInv frag.toNat data
    { st := s2, status := st, payload := echo, quiet := !q.replyReq && st == stOk }

/-- The entries of a DATA_PUT_MULTI, one after another: their statuses. -/
def putEntries (a : Fin 2) (step stepInv : Word) : Nat → Bytes → State → List Nat × State
  | 0, _, s => ([], s)
  | n + 1, bs, s =>
    let pos := wordAt bs 0
    let inv := wordAt bs 8
    let (st, s1) := putFragment (noteComplement s a 6 pos inv) step stepInv pos inv 0 ((bs.drop 16).take (recBytes s))
    let (rest, s2) := putEntries a step stepInv n (bs.drop (16 + recBytes s)) s1
    (st :: rest, s2)

/-- A DATA_PUT_MULTI fits (R468): small records, and 1 to 32 whole entries. -/
def multiFits (s : State) (len : Nat) : Bool :=
  decide (recBytes s ≤ 4096 ∧ 16 + len ≤ 8256) && len % (16 + recBytes s) == 0
    && decide (1 ≤ len / (16 + recBytes s) ∧ len / (16 + recBytes s) ≤ 32)

/-- Some entry of a DATA_PUT_MULTI waits for a row repair. -/
def multiWaits (step stepInv : Word) (entries : Bytes) (s : State) : Bool :=
  (List.range (entries.length / (16 + recBytes s))).any fun i =>
    let e := entries.drop (i * (16 + recBytes s))
    putWaits s step stepInv (wordAt e 0) (wordAt e 8) 0 (recBytes s)

/-- DATA_PUT_MULTI (R468). -/
def execDataPutMulti (q : Req) (step stepInv : Word) (entries : Bytes) (s : State) : Out :=
  omcpWait "DATA_PUT_MULTI" (.dataPutMulti q step stepInv entries) s q 0x31 (multiFits s entries.length) []
    (multiWaits step stepInv entries) fun s =>
    let n := entries.length / (16 + recBytes s)
    let (sts, s1) := putEntries q.port step stepInv n entries (noteComplement s q.port 5 step stepInv)
    { st := s1, status := stOk, payload := sts.flatMap (leBytes 2), quiet := !q.replyReq && sts.all (· == stOk) }

end Sys2Proof.Machine
end

