-- ==== Sys2Proof/Machine/Check.lean ====
section
/-! DEFINITION. The step check and its verdict (R372 to R379), mirror digests (R385 to R387), checkpoints (R395 to R397) and
the health monitor (R402, R403). -/

namespace Sys2Proof.Machine

/-! STEP_CHECK. -/

/-- The offset of the first offending field of a STEP_CHECK argument block (Table 10-3, R405). -/
def checkArgsBad (head lists : Bytes) : Option Nat :=
  let n := field (wordAt head 8) 0 9
  if field (wordAt head 0) 48 16 ≠ 0 then some 0
  else if field (wordAt head 8) 9 55 ≠ 0 ∨ n = 0 ∨ 256 < n then some 8
  else ((List.range (2 * n)).find? fun k =>
    let w := wordAt lists (8 * k)
    if k % 2 = 0 then field w 48 16 != 0 else field w 40 24 != 0 || field w 0 40 == 0).map fun k => 16 + 8 * k

/-- Read the partials of every list, in list order. -/
def readPartials : List (Nat × Nat) → State → Except MemErr (List Nat) × State
  | [], s => (.ok [], s)
  | (a, n) :: rest, s =>
    match memRead s .ddma {} a (8 * n) with
    | (.error e, s1) => (.error e, s1)
    | (.ok bs, s1) =>
      match readPartials rest s1 with
      | (.error e, s2) => (.error e, s2)
      | (.ok more, s2) => (.ok (codesOf 8 bs ++ more), s2)

/-- Is an FP64 code finite. -/
def finite64 (w : Word) : Bool := field w 52 11 != 0x7FF

/-- The requests that the health monitor makes at the latch of a step (R374, R403). -/
def latchRequests (s : State) (step : Word) : BitVec 2 :=
  let risk := s.fld .hltRisk 0 0 0 8
  let hold := s.fld .hltCtrl 0 0 48 16
  let free := fun (last : Option Word) => match last with
    | some v => decide (hold < (stepDiff step v).natAbs)
    | none => true
  let dig := decide (s.fld .hltCtrl 0 0 0 8 ≤ risk) && free s.a.lastDigest
  let ck := decide (s.fld .hltCtrl 0 0 8 8 ≤ risk) && free s.a.lastCkpt
  (if dig then 1 else 0) ||| (if ck then 2 else 0)

/-- A step checksum of the link ports for a step (R435). -/
def stepSum (s : State) (k : RegKind) (step : Word) : Word :=
  let b := step.toNat % 2
  if s.reg .aflStepTag b 0 = step then s.reg k b 0 else 0

/-- The loss as the member uses it (R373): the FAIL bits it sets, and the loss that enters the collective. -/
def judgeLoss (s : State) (r : TackRun) (v inv : Word) : BitVec 8 × Word × State :=
  if ¬ complOk v inv then (4, nan64, logComplement s (srcStirrup (300 + r.die)) 4 v inv)
  else (if finite64 v then 0 else 2, v, s)

/-- Restore verification of this step finds another loss (R401). -/
def lossDiffers (s : State) (step loss : Word) : Bool :=
  match s.a.verify with
  | some v => v.step == step && v.loss != .of loss
  | none => false

/-- The member's local conditions and its part of the verdict record (R373 to R375). -/
def localCheck (s : State) (r : TackRun) (lossBytes : Bytes) (partials : List Nat) : Bytes × State :=
  let (f, loss, s1) := judgeLoss s r (wordAt lossBytes 0) (wordAt lossBytes 8)
  let fail : BitVec 8 := f ||| if lossDiffers s1 r.step loss then 0x40 else 0
  let req := latchRequests s1 r.step
  let w0 := place 8 2 req.toNat ||| BitVec.setWidth 64 fail
  let rec_ := wordsBytes [w0, loss, BitVec.ofNat 64 (treeSum64 partials), stepSum s1 .aflStepSent r.step, stepSum s1 .aflStepRecv r.step, 0, 0, 0]
  (rec_, { s1 with a := { s1.a with loss := .of loss, fail := fail, req := req } })

/-- Open the collective of a step check or a digest comparison (R588) on schedule 0 or 1; without a schedule to run it the
routine ends with COLL_ARGS_INVALID. -/
def openOwn (s : State) (r : TackRun) (id sched : Nat) (use : CollUse) (record : List Host.Cell) : State :=
  match schedule s sched with
  | none => endBad s r 0x45 (assureStatus 0x45 0)
  | some sc =>
    if ¬ schedFits s sc 2 3 0 then endBad (noteHeld s [.cfgRole]) r 0x45 (assureStatus 0x45 0)
    else drain (openColl (setRun s r (.collective id)) { newColl s r id sched sc use with record := record })

/-- STEP_CHECK (R372 to R375). -/
def execStepCheck (d : Fin 4) (s : State) : Out :=
  match startedRun s d.val rtStepCheck with
  | none => disabled "STEP_CHECK"
  | some r =>
    if (s.coll 0xFF).isSome ∨ argsLocked s r 16 ∨ stepRecordLocked s r.step then disabled "STEP_CHECK"
    else match inlineBad (runWords s r) 0 with
      | some o => .next (endArgs s r (0x80000000 + o))
      | none =>
        match readArgs s r 16 with
        | none => .next (endArgs s r 0xFFFFFFFF)
        | some (.error e, s1) => .next (endMem s1 r e)
        | some (.ok head, s1) =>
          let n := min 256 (field (wordAt head 8) 0 9)
          if argsLocked s1 r (16 + 16 * n) then disabled "STEP_CHECK"
          else match readArgs s1 r (16 + 16 * n) with
          | some (.ok all, s2) =>
            let lists := all.drop 16
            match checkArgsBad head lists with
            | some o => .next (endArgs s2 r o)
            | none =>
              let parts := (List.range n).map fun i => (field (wordAt lists (16 * i)) 0 48, field (wordAt lists (16 * i + 8)) 0 40)
              if rangesLocked s2 ((field (wordAt head 0) 0 48, 16) :: parts.map fun z => (z.1, 8 * z.2)) then disabled "STEP_CHECK"
              else match memRead s2 .ddma {} (field (wordAt head 0) 0 48) 16 with
              | (.error e, s3) => .next (endMem s3 r e)
              | (.ok loss, s3) =>
                match readPartials parts s3 with
                | (.error e, s4) => .next (endMem s4 r e)
                | (.ok ps, s4) =>
                  let (bs, s5) := localCheck s4 r loss ps
                  .next (openOwn s5 r 0xFF 0 .check (putBytes [] 0 bs))
          | some (.error e, s2) => .next (endMem s2 r e)
          | none => .next (endArgs s1 r 0xFFFFFFFF)

/-! Checkpoints. -/

/-- A run that waits for the verdict of step c + 1. -/
def waitingCheckpoint (s : State) (step : Word) : Option (TackRun × BitVec 32 × Word) :=
  s.d.tack.findSome? fun r : TackRun =>
    match r.phase with
    | .checkpoint n digest => if r.step + 1 = step then some (r, n, digest) else none
    | _ => none

/-- CKPT_ABORTED (R397). -/
def abortCheckpoint (s : State) (r : TackRun) (n : BitVec 32) : State :=
  endGood (logModule s 0x0402 srcModule r.step (BitVec.setWidth 64 n) 0) r 2

/-- The losses of a verdict agree with their complements; a checkpoint that would carry one that does not is aborted (R28, R29;
DESIGN CHOICE, log entry 65). -/
def Verdict.held (v : Verdict) : Bool := v.loss.ok && v.lossSum.ok

/-- COMPLEMENT_ERROR of a verdict's losses. -/
def noteLosses (s : State) (v : Verdict) : State := noteValue (noteValue s 4 v.loss) 4 v.lossSum

/-- The trailer of a checkpoint, after the verdict of the next step (R397, Table 10-9). -/
def sendTrailer (s : State) (v : Verdict) : State :=
  match waitingCheckpoint s v.step with
  | none => s
  | some (r, n, digest) =>
    match (if v.held then s.stream n else none) with
    | none => abortCheckpoint (noteLosses s v) r n
    | some e =>
      let bs := wordsBytes [v.step, ~~~v.step, v.loss.v, v.loss.inv, v.lossSum.v, v.lossSum.inv, digest, placeBit 1 v.pass ||| 1]
      endGood (s.setStream n { e with data := e.data ++ bs, more := false }) r 0

/-- The checkpoint header of step c (Table 10-8). -/
def checkpointHeader (s : State) (v : Verdict) (segments : Nat) : Bytes :=
  let c := v.step
  let pos := stepPos s (c + 1)
  let pair := fun (w : Word) => [w, ~~~w]
  let w0 := place 48 16 1 ||| place 36 12 s.role ||| place 23 13 s.roles ||| place 11 12 s.memberId
  let ctr := fun (i : Nat) => streamCounter (seedPair s (seedKind i false)).1 i (c + 1)
  wordsBytes ([w0] ++ pair c ++ pair pos ++ pair (s.reg .aflStamp 0 0) ++ pair (s.reg .updSeedShared 0 0)
    ++ pair (s.reg .updSeedRole 0 0) ++ [v.loss.v, v.loss.inv, v.lossSum.v, v.lossSum.inv] ++ [BitVec.ofNat 64 segments] ++ (List.range 256).map ctr)
    ++ List.replicate 1920 0

/-- The segments of a checkpoint with their headers (R396). -/
def segmentBytes (bs : List Binding) (parts : List Bytes) : Bytes :=
  let heads := bs.zipIdx.flatMap fun b => (writeRanges b.1).map fun r => place 48 16 b.2 ||| place 45 3 r.1 ||| place 0 40 r.2.2
  (heads.zip parts).flatMap fun x => wordsBytes [x.1, 0] ++ x.2

/-- Start the stream of a checkpoint (R395 to R397). A role, position, seed or loss of the header that differs from its complement is
not used: the checkpoint is aborted (R29; DESIGN CHOICE, log entry 65). -/
def startCheckpoint (s : State) (r : TackRun) (v : Verdict) : State :=
  match heldBad s with
  | some (k, v, inv) => abortCheckpoint (logComplement s srcModule k v inv) r 0
  | none =>
  if ¬ v.held then abortCheckpoint (noteLosses s v) r 0
  else match listBindings s .ddma false with
  | (.error e, s1) => endMem s1 r e
  | (.ok none, s1) => endArgs s1 r 0
  | (.ok (some bs), s1) =>
    if (destinations s1).isEmpty then abortCheckpoint s1 r 0
    else match readShard s1 .egress bs with
      | (.error e, s2) => endTack (noteErr s2 .egress e) r (some (errFault e, errDetail e)) none
      | (.ok parts, s2) =>
        let data := checkpointHeader s2 v parts.length ++ segmentBytes bs parts
        match startStream s2 data true (fun _ => .checkpoint v.step) with
        | none => abortCheckpoint s2 r 0
        | some (n, s3) => setRun s3 r (.checkpoint n (digestOf s3 parts.flatten))

/-- CHECKPOINT_OUT (R395): once the verdict of its step is known, whatever steps have been checked since. Where the verdict of the
next step is known too, the trailer follows at once (R397). A failed step, and a dry replay, have none (DESIGN CHOICE, log entry
24). -/
def execCheckpointOut (d : Fin 4) (s : State) : Out :=
  match startedRun s d.val rtCheckpointOut with
  | none => disabled "CHECKPOINT_OUT"
  | some r =>
    let ws := runWords s r
    match inlineBad ws 1 with
    | some o => .next (endArgs s r (0x80000000 + o))
    | none =>
      match verdictOf s r.step with
      | none => disabled "CHECKPOINT_OUT"
      | some v =>
        if mirrorLocked s then disabled "CHECKPOINT_OUT"
        else if ¬ v.pass ∨ s.a.dry.isSome ∨ ¬ checkpointDue s (dInline ws 0) v then .next (endGood s r 0)
        else if shardLocked s false then disabled "CHECKPOINT_OUT"
        else
          let s1 := startCheckpoint s r v
          match verdictOf s1 (r.step + 1) with
          | none => .next s1
          | some w => .next (sendTrailer s1 w)

/-! The verdict. -/

/-- The conditions that the combined record adds (R376, R401). A bound, a loss or a LOSS_NEXT that differs from its complement is not
used: the norm check, the loss check or the verification fails (R29; DESIGN CHOICE, log entry 65). -/
def verdictFail (s : State) (step : Word) (bs : Bytes) : BitVec 8 :=
  let norm := wordAt bs 16
  let bound := (s.reg .brcNormBound 0 0).toNat
  let high := FV.lt (fdecode .fp64 (fmulc .fp64 bound bound)) (fdecode .fp64 norm.toNat)
  let sums := match s.a.verify with
    | some (v : VerifyArm) => v.step == step && (v.lossSum != Held.of (wordAt bs 8) || !v.loss.ok)
    | none => false
  (BitVec.setWidth 8 (wordAt bs 0) &&& 0xFE) ||| (if ¬ finite64 norm ∨ ¬ regHeld s .brcNormBound ∨ high then 8 else 0) ||| (if s.a.loss.ok then 0 else 4)
    ||| (if wordAt bs 24 ≠ wordAt bs 32 then 0x10 else 0) ||| (if sums then 0x40 else 0)

/-- COMPLEMENT_ERROR of what a verdict of a step compares with (R29). -/
def noteVerdict (s : State) (step : Word) : State :=
  let s1 := noteValue (noteHeld s [.brcNormBound]) 4 s.a.loss
  match s.a.verify with
  | some v => if v.step = step then noteValue (noteValue s1 4 v.loss) 4 v.lossSum else s1
  | none => s1

/-- The verdict of a combined record (R371, R376, R378, R379). -/
def giveVerdict (s : State) (c : Coll) (r : TackRun) : State :=
  let bs := (List.range 64).map fun i => sget (0 : Byte) c.record i
  let fail := verdictFail s r.step bs
  let req : BitVec 2 := BitVec.ofNat 2 (field (wordAt bs 0) 8 2)
  let pass := fail == 0
  let v : Verdict := ⟨r.step, pass, req, s.a.loss, .of (wordAt bs 8)⟩
  let s1 := writeStepRecord (dropColl (noteVerdict (wake s) r.step) c.id) r.step (usedLoss s.a.loss) (wordAt bs 8) (wordAt bs 16) req fail pass
  let s2 := disarm (keepVerdict s1 v) r.step
  let s3 := if pass then endGood (releaseStep s2 r.step) r 0
    else endBad (failStep s2 r fail) r 0x48 (assureStatus 0x48 fail.toNat)
  sendTrailer s3 v

/-- A refused verdict collective has given its verdict already (R377); what is left is the trailer that waits for it. -/
def trailerOnly (d : Fin 4) (s : State) : Out :=
  match s.a.verdict with
  | none => disabled "VERDICT"
  | some v =>
    match waitingCheckpoint s v.step with
    | none => disabled "VERDICT"
    | some (r, _, _) => if r.die = d.val then .next (sendTrailer (wake s) v) else disabled "VERDICT"

/-- VERDICT (R376): the combined record has arrived. -/
def execVerdict (d : Fin 4) (s : State) : Out :=
  match s.coll 0xFF with
  | none => trailerOnly d s
  | some c =>
    if c.die ≠ d.val ∨ c.agree ≠ some true ∨ ¬ c.prog.all (fun p => p.done) ∨ stepRecordLocked s c.step then disabled "VERDICT"
    else match collRun s c with
      | none => disabled "VERDICT"
      | some r => .next (giveVerdict s c r)

/-! Mirror digests. -/

/-- Digest of the member's owner or mirror bindings. -/
def shardDigest (s : State) (mirror : Bool) : Except MemErr (Option Word) × State := copyDigest s mirror

/-- Start a comparison (R385): the member's two digests stand at its own role and at the role it mirrors. -/
def startDigest (s : State) (r : TackRun) : State :=
  match shardDigest s false with
  | (.error e, s1) => endMem s1 r e
  | (.ok none, s1) => endArgs s1 r 0
  | (.ok (some own), s1) =>
    match shardDigest s1 true with
    | (.error e, s2) => endMem s2 r e
    | (.ok none, s2) => endArgs s2 r 0
    | (.ok (some mir), s2) =>
      let partner := if s.roles = 0 then 0 else (s.role + s.partnerOffset) % s.roles
      let rec_ := putBytes (putBytes [] (16 * s.role) (wordBytes own)) (16 * partner + 8) (wordBytes mir)
      openOwn s2 r 0xFE 1 .digest rec_

/-- MIRROR_DIGEST (R385); where no mirrors are kept there is nothing to compare. -/
def execMirrorDigest (d : Fin 4) (s : State) : Out :=
  match startedRun s d.val rtMirrorDigest with
  | none => disabled "MIRROR_DIGEST"
  | some r =>
    let ws := runWords s r
    match inlineBad ws 1 with
    | some o => .next (endArgs s r (0x80000000 + o))
    | none =>
      if ¬ digestDue s (dInline ws 0) r.step ∨ s.partnerOffset = 0 then .next (endGood s r 0)
      else if (s.coll 0xFE).isSome ∨ mirrorLocked s ∨ shardLocked s false ∨ shardLocked s true then disabled "MIRROR_DIGEST"
      else .next (startDigest s r)

/-! The health monitor. -/

/-- The level of inputs 10 to 12 (Table 10-11, R495, R499). -/
def healthLevel (s : State) (i : Nat) : Nat :=
  if i = 10 then
    ((List.range 32).filter fun n =>
      let w := s.reg .hbmRefreshMult n 0
      field w 0 3 == 4 || bit w 3).length
  else if i = 11 then (10 - celsius (s.fld .thmStat 0 0 24 8)).toNat
  else
    (List.range 6).foldl (fun m k =>
      let w := s.reg .pwrRail k 0
      let short := if s.m.railsRead then railMin k + 60 - field w 0 14 else 0
      max m short) 0

/-- One input is updated and scored (R402). -/
def healthInput (s : State) (i : Nat) : State :=
  let cfg := s.reg .hltInputCfg i 0
  let a := s.fld .hltInputStat i 0 8 56
  let v := if i < 10 then min (2 ^ 56 - 1) (a - a / 2 ^ field cfg 28 4 + sget 0 s.m.hlt i) else healthLevel s i
  let score := min (field cfg 0 8) (v * field cfg 8 16 / 256)
  s.setReg .hltInputStat i 0 (place 8 56 v ||| place 0 8 score)

/-- ALERT goes to every session that has subscribed to its class (R403, R472). -/
def sendAlert (s : State) (risk limit : Nat) : State :=
  ([0, 1] : List (Fin 2)).foldl (fun s a =>
    if bit (s.reg .omcEventSub a.val 0) 9 then notify s a 3 0 (wordBytes (place 8 8 limit ||| place 0 8 risk)) else s) s

/-- HEALTH_EVALUATION (R402, R403). -/
def execHealthEvaluation (s : State) : Out :=
  if ¬ reinRuns s then disabled "HEALTH_EVALUATION"
  else
    let s0 := s.atTime (s.m.hltLast + BitVec.ofNat 64 (s.fld .hltCtrl 0 0 40 8 * 1000000))
    let s1 := (List.range 13).foldl healthInput s0
    let scores := (List.range 13).map fun i => s1.fld .hltInputStat i 0 0 8
    let risk := min 255 (scores.foldl (· + ·) 0)
    let limit := s1.fld .hltCtrl 0 0 16 8
    let old := s1.fld .hltRisk 0 0 0 8
    let s2 := s1.setReg .hltRisk 0 0 (BitVec.ofNat 64 risk)
    let s3 : State := { s2 with m := { s2.m with hlt := [], hltLast := s2.time } }
    if old < limit ∧ limit ≤ risk then
      let bits := scores.zipIdx.foldl (fun (w : Word) x => w ||| placeBit x.2 (x.1 != 0)) 0
      .next (sendAlert (logModule s3 0x0900 srcModule (BitVec.ofNat 64 risk) bits 0) risk limit)
    else .next s3

end Sys2Proof.Machine
end

