-- ==== Sys2Proof/Machine/RegWrite.lean ====
section
/-! DEFINITION. Writing a register field by field (R546, R548, Table 0-4). -/

namespace Sys2Proof.Machine

/-- A field takes a value: its table does not say that a write of it is ignored, and it is no reserved encoding. -/
def fieldTakes (f : RegField) (v : Nat) : Bool :=
  match f.takes with
  | .any => true
  | .within lo hi => decide (lo ≤ v ∧ v ≤ hi)
  | .zeroBits m => (v &&& m) == 0

/-- One field of a written value: the word so far, and whether a locked field was to change. -/
def writeField (k : RegKind) (locked : Bool) (old new : Word) (acc : Word × Bool) (f : RegField) : Word × Bool :=
  let n := f.hi + 1 - f.lo
  let v := field new f.lo n
  match f.acc with
  | .w1c => (setField acc.1 f.lo n (field acc.1 f.lo n &&& (2 ^ n - 1 - v)), acc.2)
  | .wo => acc
  | .rw => (if fieldTakes f v then setField acc.1 f.lo n v else acc.1, acc.2)
  | .rwl =>
    if locked then (acc.1, acc.2 || v != field old f.lo n)
    else if k = .aflCtrl ∧ f.lo = 0 then
      (if 1 ≤ v ∧ v ≤ field acc.1 4 4 then setField acc.1 0 4 v else acc.1, acc.2)
    else (if fieldTakes f v then setField acc.1 f.lo n v else acc.1, acc.2)

/-- PWR_VLIMIT takes only limits from 600 to 850 mV, multiples of 5, VMIN at most VMAX (Table 13-8). -/
def limitsGood (w : Word) : Bool :=
  let lo := field w 0 10
  let hi := field w 16 10
  decide (600 ≤ lo ∧ lo ≤ hi ∧ hi ≤ 850) && lo % 5 == 0 && hi % 5 == 0

/-- The word a register holds after a write, and whether a locked field was to change. A GUARD bit that is cleared lets
MIN_SEEN start again (Table 13-13). -/
def writeWord (k : RegKind) (locked : Bool) (old new : Word) : Word × Bool :=
  let r := (regFields k).foldl (writeField k locked old new) (old, false)
  if k = .pwrVlimit ∧ ¬ limitsGood r.1 then (old, false)
  else if k = .pwrRail ∧ bit new 28 then (setField r.1 14 14 0x3FFF, r.2)
  else r

/-- Bits of a register that no write can act on. -/
def readOnlyBits (k : RegKind) : Word :=
  (regFields k).foldl (fun m f => m &&& ~~~(place f.lo (f.hi + 1 - f.lo) (2 ^ 64 - 1))) (~~~0)

/-- Bits of W1C and WO fields. -/
def actionBits (k : RegKind) : Word :=
  (regFields k).foldl (fun m f => if f.acc = .w1c ∨ f.acc = .wo then m ||| place f.lo (f.hi + 1 - f.lo) (2 ^ 64 - 1) else m) 0

/-- A configuration field entry may write the value: its RO bits are zero (R508) and a register write before commit would
take all of it (R548, Table 14-8 order 8). -/
def entryTaken (k : RegKind) (old v : Word) : Bool :=
  v &&& readOnlyBits k == 0 && v &&& actionBits k == 0 && (writeWord k false old v).1 &&& keepMask k == v &&& keepMask k

end Sys2Proof.Machine
end

