-- ==== Sys2Proof/Machine/Commit.lean ====
section
/-! DEFINITION. Loading and committing a configuration image (R507 to R516). -/

namespace Sys2Proof.Machine

/-! The staged image. -/

def stagedBytes (s : State) (o n : Nat) : Bytes := (List.range n).map fun i => sget 0 s.c.staged (o + i)
def stagedWord (s : State) (o : Nat) : Word := leWord (stagedBytes s o 8)
/-- LENGTH of the staged header (Table 14-5). -/
def stagedLength (s : State) : Nat := field (stagedWord s 8) 0 33

/-- First byte at or after one that has not been received. -/
def firstGap : List (Nat × Bool) → Nat → Nat
  | [], b => b
  | (j, _) :: m, b => if j = b then firstGap m (b + 1) else b

/-- CFG_LOAD (R511): as many bytes as a packet's payload holds beside w0 (Table 12-2). -/
def execCfgLoad (q : Req) (offset : BitVec 32) (data : Bytes) (s : State) : Out :=
  let o := offset.toNat
  let fits := decide (1 ≤ data.length ∧ data.length ≤ 8248 ∧ o + data.length ≤ 2 ^ 32)
  omcp "CFG_LOAD" (.cfgLoad q offset data) s q 0x40 fits [] fun s =>
    if s.m.st ≠ .waitHost ∨ s.m.hwFailed then { st := s, status := stState }
    else
      let c := if o = 0 then { s.c with staged := [], received := [] } else s.c
      let staged := data.zipIdx.foldl (fun m x => sset 0 m (o + x.2) x.1) c.staged
      let got := (List.range data.length).foldl (fun m i => sset false m (o + i) true) c.received
      { st := { s with c := { c with staged := staged, received := got } }, status := stOk }

/-- A field entry (R508): its address word, value and complement. -/
structure FieldEntry where
  addr : Word
  value : Word
  inv : Word
  deriving DecidableEq, Repr

def fieldEntries (s : State) : List FieldEntry :=
  (List.range (field (stagedWord s 16) 0 16)).map fun i =>
    let o := 256 + 24 * i
    ⟨stagedWord s o, stagedWord s (o + 8), stagedWord s (o + 16)⟩

/-- The register an entry names, if R508 allows it. -/
def entryReg (e : FieldEntry) : Option (RegKind × Nat × Nat) :=
  match regFind (field e.addr 0 32) with
  | some (k, i, j) =>
    if field e.addr 32 32 = 0 ∧ keepMask k ≠ 0 ∧ ¬ isInvCompanion k then some (k, i, j) else none
  | none => none

/-- A section entry (Table 14-6). -/
structure SectionEntry where
  w0 : Word
  w1 : Word
  w2 : Word
  w3 : Word
  deriving DecidableEq, Repr

def SectionEntry.kind (x : SectionEntry) : Nat := field x.w0 56 8
def SectionEntry.die (x : SectionEntry) : Nat := field x.w0 48 2
def SectionEntry.gen (x : SectionEntry) : Nat := field x.w0 32 16
def SectionEntry.off (x : SectionEntry) : Nat := field x.w1 0 32
def SectionEntry.len (x : SectionEntry) : Nat := field x.w2 0 32
def SectionEntry.dest (x : SectionEntry) : Nat := field x.w3 0 40

def sections (s : State) : List SectionEntry :=
  let base := 256 + 24 * field (stagedWord s 16) 0 16
  (List.range (field (stagedWord s 24) 0 16)).map fun i =>
    let o := base + 32 * i
    ⟨stagedWord s o, stagedWord s (o + 8), stagedWord s (o + 16), stagedWord s (o + 24)⟩

def sectionBytes (s : State) (x : SectionEntry) : Bytes := stagedBytes s x.off x.len

/-- Write a configuration field entry: the register with its complement in the store (R28, R514), and its companion (R508). -/
def applyEntry (s : State) (e : FieldEntry) : State :=
  match entryReg e with
  | none => s
  | some (k, i, j) =>
    let s1 := (s.setReg k i j (writeWord k false (s.reg k i j) e.value).1).setInv k i j e.inv
    match invCompanion k with
    | some ki => s1.setReg ki i j (e.inv &&& keepMask ki)
    | none => s1

/-- The state with every staged field applied, and PLANNER_BUILD with them (R514). -/
def applyFields (s : State) : State :=
  let s1 := (fieldEntries s).foldl applyEntry s
  (List.range 4).foldl (fun t w => t.setReg .cfgPlannerBuild w 0 (stagedWord s (96 + 8 * w))) s1

/-! The checks of Table 14-8, in order: REASON and INDEX of the first that fails. -/

/-- Index of the first element that fails a test. -/
def firstFailing {α : Type} (xs : List α) (good : α → Bool) : Option Nat :=
  (xs.zipIdx.find? fun x => !good x.1).map Prod.snd

def sectionsOf (s : State) (kind : Nat) : List SectionEntry := (sections s).filter fun x => x.kind == kind

/-- The offset of the first header word that breaks Table 14-8 order 3: MAGIC, FORMAT, a reserved field, STAMP. A LENGTH or a
SECTIONS above its range in Table 14-5, and tables that reach past LENGTH, are HEADER too (DESIGN CHOICE, log entry 71). -/
def badHeader (s : State) : Option Nat :=
  let w := fun i => stagedWord s (8 * i)
  let len := stagedLength s
  let nf := field (w 2) 0 16
  let ns := field (w 3) 0 16
  let good := fun (i : Nat) =>
    if i = 0 then field (w 0) 32 32 == 0x43464736 && field (w 0) 16 16 == 1 && field (w 0) 0 16 == 0
    else if i = 1 then field (w 1) 33 31 == 0 && decide (256 ≤ len ∧ len ≤ 2 ^ 32 ∧ 256 + 24 * nf + 32 * ns ≤ len)
    else if i = 2 then field (w 2) 16 48 == 0
    else if i = 3 then field (w 3) 16 48 == 0 && decide (ns ≤ 4096)
    else if i = 10 then complOk (w 10) (w 11)
    else decide (i < 16) || w i == 0
  ((List.range 32).find? fun i => !good i).map fun i => 8 * i

/-- Orders 1 to 4. -/
def checkHeader (s : State) : Option (Nat × Nat) :=
  let len := stagedLength s
  let gap := firstGap s.c.received 0
  if s.m.hwFailed then some (1, 0)
  else if gap < max 256 len then some (2, gap)
  else match badHeader s with
  | some o => some (3, o)
  | none =>
  if sha384 (stagedBytes s 0 32 ++ List.replicate 48 0 ++ stagedBytes s 80 (len - 80)) ≠ stagedBytes s 32 48 then some (4, 0)
  else none

/-- Orders 5 to 8. -/
def checkFields (s : State) : Option (Nat × Nat) :=
  let es := fieldEntries s
  match firstFailing es fun e => complOk e.value e.inv with
  | some i => some (5, i)
  | none =>
    match firstFailing es fun e => (entryReg e).isSome with
    | some i => some (6, i)
    | none =>
      match firstFailing es.zipIdx fun x => !(es.take x.2).any fun e => e.addr == x.1.addr with
      | some i => some (7, i)
      | none =>
        match firstFailing es fun e => match entryReg e with
          | some (k, i, j) => entryTaken k (s.reg k i j) e.value
          | none => false with
        | some i => some (8, i)
        | none => none

/-- Some field entry names the register. -/
def hasEntry (s : State) (k : RegKind) : Bool := (fieldEntries s).any fun e => decide ((entryReg e).map Prod.fst = some k)

/-- Two byte ranges share a byte. -/
def overlap (a n b m : Nat) : Bool := decide (a < b + m ∧ b < a + n)

/-- A section entry keeps the layout of R509; `others` are the entries before it. -/
def sectionFits (s : State) (x : SectionEntry) (others : List SectionEntry) : Bool :=
  let tables := 256 + 24 * field (stagedWord s 16) 0 16 + 32 * field (stagedWord s 24) 0 16
  let plain := field x.w0 50 6 == 0 && field x.w0 0 32 == 0 && field x.w1 32 32 == 0 && field x.w2 32 32 == 0 && field x.w3 40 24 == 0
  let own := match x.kind with
    | 1 => x.gen != 0 && x.dest == 0
    | 2 => x.die == 0 && x.gen == 0 && x.dest == 0
    | 3 => x.die == 0 && x.gen == 0 && x.len % 64 == 0 && x.dest % 64 == 0
    | _ => false
  plain && own && x.off % 64 == 0 && decide (tables ≤ x.off ∧ x.off + x.len ≤ stagedLength s)
    && others.all fun y => !overlap x.off x.len y.off y.len

/-- A byte of the range lies in the staging area under a state's HBM_MAP (R512). -/
def touchesStaging (t : State) (a n : Nat) : Bool :=
  if t.fld .hbmMap 3 0 0 1 = 0 then overlap a n 0xFF00000000 (2 ^ 32)
  else (linesOf a n).any fun l => l / 2 ^ 29 == 31 && l / 4 % 8 == 7

/-- Orders 9 to 13; `t` has the staged fields. -/
def checkSections (s t : State) : Option (Nat × Nat) :=
  let xs := sections s
  let named := [RegKind.cfgMemberId, .cfgMemberCount, .cfgStartStep, .cfgRole].all (hasEntry s)
  let present := ((List.range 4).all fun d => xs.any fun x => x.kind == 1 && x.die == d) && xs.any fun x => x.kind == 2
  let again := firstFailing xs.zipIdx fun x => (x.1.kind != 1 && x.1.kind != 2)
    || !(xs.take x.2).any fun y => y.kind == x.1.kind && (y.kind == 2 || y.die == x.1.die)
  let pre := xs.zipIdx.filter fun x => x.1.kind == 3
  if ¬ (named && present) then some (9, 0)
  else match again with
  | some i => some (9, i)
  | none =>
  match firstFailing xs.zipIdx fun x => sectionFits s x.1 (xs.take x.2) with
  | some i => some (10, i)
  | none =>
    match pre.find? fun x => decide (2 ^ 40 < x.1.dest + x.1.len) || touchesStaging t x.1.dest x.1.len
        || pre.any fun y => decide (y.2 < x.2) && overlap x.1.dest x.1.len y.1.dest y.1.len with
    | some x => some (11, x.2)
    | none =>
      match firstFailing xs fun x => x.kind != 1 || kernelGood (sectionBytes s x) with
      | some i => some (12, i)
      | none =>
        match firstFailing xs fun x => x.kind != 2 || (routeRefusal t (sectionBytes s x)).isNone with
        | some i => some (13, i)
        | none => none

/-- PWR_DOMAIN_EN of a domain. -/
def domainEnabled (t : State) (k : Nat) : Bool :=
  if k < 64 then bit (t.reg .pwrDomainEnLo 0 0) k else bit (t.reg .pwrDomainEnHi 0 0) (k - 64)

/-- The stamp that the staged fields and sections give, with bank 1 EMPTY (Table 14-8 order 15). -/
def stagedStamp (s t : State) : Word :=
  let gens := (List.range 4).flatMap fun d =>
    match (sectionsOf s 1).find? fun x => x.die == d with
    | some x => leBytes 2 x.gen ++ [0, 0]
    | none => [0, 0, 0, 0]
  let route := (sectionsOf s 2).flatMap (sectionBytes s)
  stampWith t gens (installDigest route)

/-- Orders 14 and 15; `a` is the port on which CFG_COMMIT arrived. A stamp with a value that differs from its complement cannot be computed
(R29; DESIGN CHOICE, log entry 65). -/
def checkWhole (s t : State) (a : Fin 2) : Option (Nat × Nat) :=
  let count := t.fld .cfgMemberCount 0 0 0 13
  let girthLow := bit (t.reg .updCtrl 0 0) 0 && decide (t.fld .aflCtrl 0 0 0 4 < 3)
  let emptyRing := (List.range 300).any fun n => domainEnabled t (n / 5) && t.fld .dspRingSlots n 0 0 21 == 0
  let bad := decide (count ≤ t.memberId) || decide (count < t.roles) || (t.role != 0xFFF && decide (t.roles ≤ t.role))
    || girthLow || emptyRing || !domainEnabled t (77 + a.val)
  if bad then some (14, 0)
  else if (firstUnheld t stampValues).isSome ∨ stagedStamp s t ≠ stagedWord s 80 then some (15, 0)
  else none

/-- The first failing check of Table 14-8. -/
def commitFailure (s : State) (a : Fin 2) : Option (Nat × Nat) :=
  (checkHeader s).orElse fun _ => (checkFields s).orElse fun _ =>
    let t := applyFields s
    (checkSections s t).orElse fun _ => checkWhole s t a

/-- A commit ends in failure (R513, R515). -/
def failCommit (s : State) (n : BitVec 32) (reason index : Nat) : State :=
  let w := place 56 8 reason ||| place 0 32 index
  let s1 := s.setReg .cfgCommitLast 0 0 w
  let s2 : State := { s1 with m := { s1.m with st := .waitHost, commitFailed := true }, c := { s1.c with commit := none } }
  logModule (finishTicket s2 n stCfgInvalid w) 0x0A01 srcModule (BitVec.ofNat 64 reason) (BitVec.ofNat 64 index) 0

/-- The complement error of a field entry, of the header's stamp or of a value in it (Table 14-8 orders 3, 5 and 15, R29). -/
def logField (s : State) (reason index : Nat) : State :=
  if reason = 5 then
    match (fieldEntries s)[index]? with
    | some e => logComplement s srcModule 2 e.value e.inv
    | none => s
  else if reason = 3 ∧ ¬ complOk (stagedWord s 80) (stagedWord s 88) then
    logComplement s srcModule 8 (stagedWord s 80) (stagedWord s 88)
  else if reason = 15 then
    match firstUnheld (applyFields s) stampValues with
    | some (k, v, inv) => logComplement s srcModule k v inv
    | none => s
  else s

/-- CFG_COMMIT (R513): the module enters COMMITTING and checks the staged image. -/
def execCfgCommit (q : Req) (s : State) : Out :=
  omcp "CFG_COMMIT" (.cfgCommit q) s q 0x41 true [] fun s =>
    if s.m.st ≠ .waitHost then { st := s, status := stState }
    else acceptTicket s q 0x41 stAccepted fun n s =>
      let s1 : State := { s with m := { s.m with st := .committing }, c := { s.c with commit := some n } }
      match commitFailure s1 q.port with
      | some (r, i) => failCommit (logField s1 r i) n r i
      | none => s1

/-! Application (Table 14-9). -/

/-- Order 2: every line is initialised. -/
def initHbm (s : State) : State :=
  { s with mem := { s.mem with hbm := [], lines := [], sbg := [], tracker := [], under := [] }, d := { s.d with banks := [] } }

/-- The order in which sections are written: kernels, routing tables and preloads, each with its entry's index. -/
def sectionOrder (s : State) : List (SectionEntry × Nat) :=
  let xs := (sections s).zipIdx
  ([1, 2, 3] : List Nat).flatMap fun k => xs.filter fun x : SectionEntry × Nat => x.1.kind == k

/-- Write one section of the staged image. -/
def writeSection (s t : State) (x : SectionEntry) : State :=
  let bs := sectionBytes s x
  match x.kind with
  | 1 => t.setBank x.die 0 { st := .sealed, gen := BitVec.ofNat 16 x.gen, image := bs }
  | 2 => setRoute t bs
  | 3 => { t with mem := { t.mem with hbm := putBytes t.mem.hbm x.dest bs } }
  | _ => t

/-- Orders 2 and 3: HBM is initialised; kernels, routing tables and preloads are written. -/
def applySections (s : State) : State := (sectionOrder s).foldl (fun t x => writeSection s t x.1) (initHbm s)

/-- An application that fails at section entry i (R515): the sections before it are written. A preload that failed leaves free values over
its range, and a bank that failed is EMPTY (DESIGN CHOICE, log entry 71). -/
def failSections (s : State) (i : Nat) : State :=
  let s1 := ((sectionOrder s).takeWhile fun x : SectionEntry × Nat => x.2 != i).foldl (fun t x => writeSection s t x.1) (initHbm s)
  match (sections s)[i]? with
  | some x => if x.kind = 3 then scramble s1 x.dest x.len else s1
  | none => s1

/-- Order 6, R477: domains follow PWR_DOMAIN_EN. -/
def followEnables (s : State) : State :=
  (List.range 80).foldl (fun s k =>
    if ¬ switchable k then s
    else if k < 60 then s.setDomain k { s.domain k with st := if domainEnabled s k then .on else .off }
    else if domainEnabled s k ∨ (s.domain k).st = .off then s
    else (leaveDomain s k).setDomain k { s.domain k with st := .off, active := false, turn := none, waiting := [] }) s

/-- Order 6: every stirrup gets the start step; those whose domain is ON run (R158, R184). -/
def startStirrup (s : State) (t : Nat) : State :=
  let s1 := clearPhases (s.setPair .dspStep .dspStepInv t (s.reg .cfgStartStep 0 0)) t
  s1.setStir t { st := if s.domainOn (stirrupDomain t) then .run else .off }

/-- The application of a checked image (R514). -/
def applyCommit (s : State) : State :=
  let route := (sectionsOf s 2).flatMap (sectionBytes s)
  let s1 := followWrite (followWrite (applySections (applyFields s)) .pwrReinCtrl) .thmCtrl
  let tack := kernTackVer (s1.bank 0 0).image
  let s2 := extendConfig (s1.setReg .feaTackVer 0 0 (BitVec.ofNat 64 tack)) (stagedBytes s 32 48)
  let s3 : State := { setRoute s2 route with m := { s2.m with locked := true } }
  let s4 := followEnables (s3.setPair .aflStamp .aflStampInv 0 (stampNow s3))
  let s5 := (List.range 4096).foldl (fun s c => setCtr s c 0) s4
  let before := s5.reg .cfgStartStep 0 0 - 1
  let s6 := (s5.setPair .brcLastReleased .brcLastReleasedInv 0 before).setPair .updFront .updFrontInv 0 before
  let s7 := (List.range 304).foldl startStirrup s6
  let s8 : State := { s7 with m := { s7.m with st := .running, commitFailed := false }, c := { s7.c with staged := [], received := [] } }
  (List.range 12).foldl portStart s8

/-- Commit application ends (R514), or meets an uncorrectable error or a failed write at a section entry (R515). -/
def execCommitComplete (failed : Option (BitVec 32)) (s : State) : Out :=
  match s.m.st, s.c.commit with
  | .committing, some n =>
    match failed with
    | some i => .next (failCommit (failSections (applyFields s) i.toNat) n 0x10 i.toNat)
    | none =>
      let s1 := applyCommit s
      .next (finishTicket { s1 with c := { s1.c with commit := none } } n stOk 0)
  | _, _ => disabled "COMMIT_COMPLETE"

end Sys2Proof.Machine
end

