-- ==== Sys2Proof/Machine/VecCmd.lean ====
section
/-! DEFINITION. The commands of the vector units (06): VEC_KERNEL with its checks (R218, R219), VEC_RESTART, and each vector
instruction given by itself. -/

namespace Sys2Proof.Machine

/-! VEC_KERNEL. -/

/-- A declared range of a VEC_KERNEL (Table 6-2): base, length, writable. -/
def dRange (ws : List Word) (i : Nat) : Option (Nat × Nat × Bool) :=
  let w := dWord ws (56 + 8 * i)
  if bit w 63 then some (field w 22 22, field w 0 22, bit w 62) else none

def dRanges (ws : List Word) : List (Nat × Nat × Bool) := (List.range 6).filterMap (dRange ws)

def dKver (ws : List Word) : Nat := dField ws 40 32 16
def dTrips (ws : List Word) : Nat := dField ws 40 0 17

/-- INC0 to INC5. -/
def dIncs (ws : List Word) : List Int :=
  [signedOf 21 (dField ws 104 42 21), signedOf 21 (dField ws 104 21 21), signedOf 21 (dField ws 104 0 21),
    signedOf 21 (dField ws 112 42 21), signedOf 21 (dField ws 112 21 21), signedOf 21 (dField ws 112 0 21)]

/-- A VEC_KERNEL that R166 and R218 take. WR, BASE and LEN of a range with PRESENT = 0 are read by nothing and may hold any value
(DESIGN CHOICE, log entry 49: R166 and Table 6-2 do not say whether they are unused fields). -/
def vecGood (ws : List Word) : Bool :=
  let o := dRef ws 120
  dField ws 40 17 15 == 0 && ((List.range 6).all fun i => dField ws (56 + 8 * i) 44 18 == 0)
    && !bit (dWord ws 104) 63 && !bit (dWord ws 112) 63 && dHist ws == 0 && decide (dStoreMode ws ≤ 1) && dField ws 32 56 4 == 0
    && o.fine && o.fmt == 0

/-- The bench ranges of a VEC_KERNEL (R168). -/
def vecRanges (ws : List Word) : List Range :=
  (dRanges ws).map (fun r => (r.1, r.2.1)) ++ (if (dRef ws 120).space = 2 then [((dRef ws 120).addr, 128)] else [])

/-- Its own issue checks (R219, R216), the lowest code first (DESIGN CHOICE, log entry 25). -/
def vecIssue (s : State) (n b : Nat) (ws : List Word) : Option (Nat × Word) :=
  let o := dRef ws 120
  let r := dRanges ws
  if dTrips ws = 0 ∨ 65536 < dTrips ws ∨ (r.any fun z => z.2.1 == 0 || decide (benchSize < z.1 + z.2.1))
      ∨ ¬ (o.space = 0 ∨ o.space = 2 ∨ o.space = 4) then some (0x02, 0)
  else if ¬ (vecRanges ws).all rangeFits ∨ (o.space = 4 ∧ 4096 < o.addr + 128) then some (0x20, 0)
  else match findKernel (kernelImage s n b) (dKernel ws) with
    | none => some (0x28, 0)
    | some e =>
      if e.kver ≠ dKver ws then some (0x28, 1)
      else if e.overlay ∧ ¬ bit (s.reg .sdlCtrl n 0) 8 then some (0x2A, 0) else none

/-- The context of a VEC_KERNEL. -/
def vecCtxOf (f : InFlight) : VecCtx :=
  { slot := f.slot, step := f.step, kernel := dKernel f.words, trips := dTrips f.words, ranges := dRanges f.words
    incs := dIncs f.words, elemBase := dWord f.words 48, mode := dStoreMode f.words, stream := dStream f.words
    layer := dLayer f.words }

/-- The unit at the start of a kernel (R217). -/
def startVec (c : VecCtx) (args : List Word) (bases : List Nat) : Vec :=
  { ctx := c, running := true, sr := sparse 0 0 args, ar := sparse 0 0 (bases.map fun b => BitVec.ofNat 64 b) }

/-- The ARGS operand: sixteen words, or why there are none (Table 6-6). -/
def readVecArgs (s : State) (n : Nat) (ws : List Word) : Except VecFault (List Word) × State :=
  let o := dRef ws 120
  if o.space = 0 then (.ok [], s)
  else if o.space = 4 then (.ok (bytesWords 16 (paramBytes s o.addr 128)), s)
  else match benchRead s n o.addr 128 with
    | (.error (.void _), s1) => (.error ⟨0x0B, 0, 0⟩, s1)
    | (.error (.uncorrectable _), s1) => (.error ⟨0x2D, 1, 0⟩, s1)
    | (.ok bs, s1) => (.ok (bytesWords 16 bs), s1)

/-- Keep what a kernel has come to; one that has stopped for good ends its descriptor (R236, R240). -/
def keepKernel (n : Fin 300) (f : InFlight) (r : VRun) : State :=
  if r.x.wait.isSome then r.s.setVec (.saddle n) r.x
  else
    let s1 := r.s.setVec (.saddle n) { r.x with running := false }
    endFlight s1 n.val f (r.x.fault.map fun z => (z.code, vecDetail r.x z)) r.x.stf

/-- Run, or go on running, the kernel of a VEC_KERNEL. -/
def runVec (n : Fin 300) (f : InFlight) (x : Vec) (s : State) : State :=
  match findKernel (kernelImage s n.val f.bank) x.ctx.kernel with
  | none => keepKernel n f ⟨{ x with fault := some ⟨0x28, 0, 0⟩ }, s, 0, true⟩
  | some e => keepKernel n f (runKernel (.saddle n) (codeOf (kernelImage s n.val f.bank) e) x s)

/-- The VEC_KERNEL in execution on a saddle. -/
def vecFlight (s : State) (n : Nat) : Option InFlight := oldest s n 0x18 .executing

/-- A VEC_KERNEL may begin: the issue gate is open (R488), no matrix descriptor executes (R182), no earlier descriptor still
has to read or write a tile its kernel names (R115, R171), and no instruction given by itself waits on the unit. -/
def vecMayStart (s : State) (n : Fin 300) (f : InFlight) : Bool :=
  let x := s.vecOf (.saddle n)
  s.m.gateOpen && (s.saddle n.val).runs.isEmpty && tilesClear s n.val f && !x.running && x.wait.isNone && x.need == 0

/-- VEC_KERNEL (R214, R217, R221): the issued one runs until it ends or is held by a resolvable exception. -/
def execVecKernel (n : Fin 300) (s : State) : Out :=
  match oldest s n.val 0x18 .issued with
  | none => disabled "VEC_KERNEL"
  | some f =>
    if ¬ vecMayStart s n f then disabled "VEC_KERNEL"
    else
      let g := { f with phase := Phase.executing }
      let s1 := putFlight s n.val f g
      let bases := (List.range 6).map fun i =>
        match dRange f.words i with
        | some r => r.1
        | none => 0
      match readVecArgs s1 n.val f.words with
      | (.error e, s2) => .next (keepKernel n g ⟨{ startVec (vecCtxOf f) [] bases with fault := some e, sect := 0 }, s2, 0, true⟩)
      | (.ok args, s2) => .next (runVec n g (startVec (vecCtxOf f) args bases) s2)

/-! Instructions given by themselves (DESIGN CHOICE, log entry 28). -/

/-- Run the gathered instructions of a unit. -/
def runBlock (u : VecUnit) (x : Vec) (s : State) : State :=
  let r := runSection u x.block 0 ⟨{ x with wrote := [] }, s, x.done, false⟩
  r.s.setVec u (if r.x.wait.isSome then r.x else { r.x with block := [] })

/-- The word of an instruction given by itself. -/
def commandWord (op : Nat) (vs : Bool) (f : BitVec 56) : Word := place 56 8 (if vs then op + 0x80 else op) ||| BitVec.setWidth 64 f

/-- The tiles that legal instructions of a saddle's unit load or store are free (R115). -/
def blockFree (s : State) (u : VecUnit) (x : Vec) (ws : List Word) : Bool :=
  unitUpdate u || ((ws.filter fun w => (illegal s u x (vinstrOf w)).isNone).filterMap tileOfInstr).all fun t => tileFree s (unitSaddle u) t

/-- A vector instruction given to a unit by itself. It executes at once, while the issue gate is open
(R488) and a tile it loads or stores is free (R115), as a body instruction in the unit's present context; a legal REP gathers the instructions that it repeats, which then run with it. -/
def vecCommand (row : String) (op : Nat) (u : VecUnit) (vs : Bool) (f : BitVec 56) (s : State) : Out :=
  let x := s.vecOf u
  let w := commandWord op vs f
  let x1 := { x with sect := 1 }
  let ws := if x.need = 0 then [w] else x.block ++ [w]
  if x.running ∨ x.wait.isSome ∨ ¬ s.m.gateOpen ∨ ¬ blockFree s u x1 ws then disabled row
  else
    let opens := isRep w && (illegal s u x1 (vinstrOf w)).isNone
    let y := if x.need = 0 then { x1 with block := ws, need := if opens then repLen w else 0, done := 0, restarts := 0, fault := none }
      else { x1 with block := ws, need := x.need - 1 }
    .next (if y.need = 0 then runBlock u y s else s.setVec u y)

/-- VEC_RESTART (R238, R239): the pending exceptions of an instruction have resolved, and it executes again from element 0, while
the issue gate is open (R488) and, for instructions given by themselves, the tiles they name are free (R115). -/
def execVecRestart (u : VecUnit) (s : State) : Out :=
  let x := s.vecOf u
  match (if s.m.gateOpen then x.wait else none) with
  | none => disabled "VEC_RESTART"
  | some w =>
    let s1 := (resolveWords s u x w).countWrap .sdlVecRestart (unitSaddle u) 0 0 64 1
    let y := { x with wait := none, restarts := x.restarts + 1 }
    if x.running then
      match u, vecFlight s (unitSaddle u) with
      | .saddle n, some f => .next (runVec n f y s1)
      | _, _ => disabled "VEC_RESTART"
    else if ¬ blockFree s u x x.block then disabled "VEC_RESTART"
    else .next (runBlock u y s1)

/-- VLD (R230, R231). -/
def execVld (u : VecUnit) (vs : Bool) (f : BitVec 56) (s : State) : Out := vecCommand "VLD" 0x01 u vs f s
/-- VST (R230, R231). -/
def execVst (u : VecUnit) (vs : Bool) (f : BitVec 56) (s : State) : Out := vecCommand "VST" 0x02 u vs f s
/-- SLD (R230). -/
def execSld (u : VecUnit) (vs : Bool) (f : BitVec 56) (s : State) : Out := vecCommand "SLD" 0x03 u vs f s
/-- VLANE. -/
def execVlane (u : VecUnit) (vs : Bool) (f : BitVec 56) (s : State) : Out := vecCommand "VLANE" 0x04 u vs f s
/-- VBC. -/
def execVbc (u : VecUnit) (vs : Bool) (f : BitVec 56) (s : State) : Out := vecCommand "VBC" 0x05 u vs f s
/-- VEXT. -/
def execVext (u : VecUnit) (vs : Bool) (f : BitVec 56) (s : State) : Out := vecCommand "VEXT" 0x06 u vs f s
/-- SADD (R228). -/
def execSadd (u : VecUnit) (vs : Bool) (f : BitVec 56) (s : State) : Out := vecCommand "SADD" 0x07 u vs f s
/-- SMUL (R228). -/
def execSmul (u : VecUnit) (vs : Bool) (f : BitVec 56) (s : State) : Out := vecCommand "SMUL" 0x08 u vs f s
/-- AADD. -/
def execAadd (u : VecUnit) (vs : Bool) (f : BitVec 56) (s : State) : Out := vecCommand "AADD" 0x09 u vs f s
/-- STRIP. -/
def execStrip (u : VecUnit) (vs : Bool) (f : BitVec 56) (s : State) : Out := vecCommand "STRIP" 0x0A u vs f s
/-- VADD (R226, R228). -/
def execVadd (u : VecUnit) (vs : Bool) (f : BitVec 56) (s : State) : Out := vecCommand "VADD" 0x10 u vs f s
/-- VSUB (R226, R228). -/
def execVsub (u : VecUnit) (vs : Bool) (f : BitVec 56) (s : State) : Out := vecCommand "VSUB" 0x11 u vs f s
/-- VMUL (R226, R228). -/
def execVmul (u : VecUnit) (vs : Bool) (f : BitVec 56) (s : State) : Out := vecCommand "VMUL" 0x12 u vs f s
/-- VFMA (R226). -/
def execVfma (u : VecUnit) (vs : Bool) (f : BitVec 56) (s : State) : Out := vecCommand "VFMA" 0x13 u vs f s
/-- VDIV (R227). -/
def execVdiv (u : VecUnit) (vs : Bool) (f : BitVec 56) (s : State) : Out := vecCommand "VDIV" 0x14 u vs f s
/-- VSQRT (R227). -/
def execVsqrt (u : VecUnit) (vs : Bool) (f : BitVec 56) (s : State) : Out := vecCommand "VSQRT" 0x15 u vs f s
/-- VRSQRT (R227). -/
def execVrsqrt (u : VecUnit) (vs : Bool) (f : BitVec 56) (s : State) : Out := vecCommand "VRSQRT" 0x16 u vs f s
/-- VEXP2 (R227). -/
def execVexp2 (u : VecUnit) (vs : Bool) (f : BitVec 56) (s : State) : Out := vecCommand "VEXP2" 0x17 u vs f s
/-- VLOG2 (R227). -/
def execVlog2 (u : VecUnit) (vs : Bool) (f : BitVec 56) (s : State) : Out := vecCommand "VLOG2" 0x18 u vs f s
/-- VMIN (R228). -/
def execVmin (u : VecUnit) (vs : Bool) (f : BitVec 56) (s : State) : Out := vecCommand "VMIN" 0x19 u vs f s
/-- VMAX (R228). -/
def execVmax (u : VecUnit) (vs : Bool) (f : BitVec 56) (s : State) : Out := vecCommand "VMAX" 0x1A u vs f s
/-- VABS. -/
def execVabs (u : VecUnit) (vs : Bool) (f : BitVec 56) (s : State) : Out := vecCommand "VABS" 0x1B u vs f s
/-- VNEG. -/
def execVneg (u : VecUnit) (vs : Bool) (f : BitVec 56) (s : State) : Out := vecCommand "VNEG" 0x1C u vs f s
/-- VCVT (R228). -/
def execVcvt (u : VecUnit) (vs : Bool) (f : BitVec 56) (s : State) : Out := vecCommand "VCVT" 0x1D u vs f s
/-- VRINT. -/
def execVrint (u : VecUnit) (vs : Bool) (f : BitVec 56) (s : State) : Out := vecCommand "VRINT" 0x1E u vs f s
/-- VAND. -/
def execVand (u : VecUnit) (vs : Bool) (f : BitVec 56) (s : State) : Out := vecCommand "VAND" 0x20 u vs f s
/-- VOR. -/
def execVor (u : VecUnit) (vs : Bool) (f : BitVec 56) (s : State) : Out := vecCommand "VOR" 0x21 u vs f s
/-- VXOR. -/
def execVxor (u : VecUnit) (vs : Bool) (f : BitVec 56) (s : State) : Out := vecCommand "VXOR" 0x22 u vs f s
/-- VSHL. -/
def execVshl (u : VecUnit) (vs : Bool) (f : BitVec 56) (s : State) : Out := vecCommand "VSHL" 0x23 u vs f s
/-- VSHR. -/
def execVshr (u : VecUnit) (vs : Bool) (f : BitVec 56) (s : State) : Out := vecCommand "VSHR" 0x24 u vs f s
/-- VSRA. -/
def execVsra (u : VecUnit) (vs : Bool) (f : BitVec 56) (s : State) : Out := vecCommand "VSRA" 0x25 u vs f s
/-- VADDSAT (R228). -/
def execVaddsat (u : VecUnit) (vs : Bool) (f : BitVec 56) (s : State) : Out := vecCommand "VADDSAT" 0x26 u vs f s
/-- VSUBSAT (R228). -/
def execVsubsat (u : VecUnit) (vs : Bool) (f : BitVec 56) (s : State) : Out := vecCommand "VSUBSAT" 0x27 u vs f s
/-- VCMP. -/
def execVcmp (u : VecUnit) (vs : Bool) (f : BitVec 56) (s : State) : Out := vecCommand "VCMP" 0x30 u vs f s
/-- VSEL. -/
def execVsel (u : VecUnit) (vs : Bool) (f : BitVec 56) (s : State) : Out := vecCommand "VSEL" 0x31 u vs f s
/-- PAND. -/
def execPand (u : VecUnit) (vs : Bool) (f : BitVec 56) (s : State) : Out := vecCommand "PAND" 0x32 u vs f s
/-- POR. -/
def execPor (u : VecUnit) (vs : Bool) (f : BitVec 56) (s : State) : Out := vecCommand "POR" 0x33 u vs f s
/-- PNOT. -/
def execPnot (u : VecUnit) (vs : Bool) (f : BitVec 56) (s : State) : Out := vecCommand "PNOT" 0x34 u vs f s
/-- VRSUM (R233). -/
def execVrsum (u : VecUnit) (vs : Bool) (f : BitVec 56) (s : State) : Out := vecCommand "VRSUM" 0x38 u vs f s
/-- VRMAX (R233). -/
def execVrmax (u : VecUnit) (vs : Bool) (f : BitVec 56) (s : State) : Out := vecCommand "VRMAX" 0x39 u vs f s
/-- VRMIN (R233). -/
def execVrmin (u : VecUnit) (vs : Bool) (f : BitVec 56) (s : State) : Out := vecCommand "VRMIN" 0x3A u vs f s
/-- VSAD (R234). -/
def execVsad (u : VecUnit) (vs : Bool) (f : BitVec 56) (s : State) : Out := vecCommand "VSAD" 0x3B u vs f s
/-- VRNG (R235). -/
def execVrng (u : VecUnit) (vs : Bool) (f : BitVec 56) (s : State) : Out := vecCommand "VRNG" 0x3C u vs f s
/-- REP (R222). -/
def execRep (u : VecUnit) (vs : Bool) (f : BitVec 56) (s : State) : Out := vecCommand "REP" 0x3E u vs f s

end Sys2Proof.Machine
end

