-- ==== Sys2Proof/Machine/Header.lean ====
section
/-! DEFINITION. The checks of a descriptor by its words: checks 2 and 3 of Table 5-10 (R161 to R167, R587), and check 9, the
opcode's own. -/

namespace Sys2Proof.Machine

/-- Opcodes of Table 5-7 that only saddle stirrups take, that only die stirrups take, and that any takes. -/
def saddleOpcodes : List Nat := [0x10, 0x11, 0x18]
def dieOpcodes : List Nat := [0x01, 0x30, 0x31, 0x32, 0x38, 0x40]
def anyOpcodes : List Nat := [0x00, 0x20, 0x21]

def opcodeKnown (op : Nat) : Bool := (saddleOpcodes ++ dieOpcodes ++ anyOpcodes).contains op

/-- The stirrup is of a kind that takes the opcode. -/
def opcodePlaced (t op : Nat) : Bool := anyOpcodes.contains op || (if t < 300 then saddleOpcodes else dieOpcodes).contains op

/-- Reserved bits of a wait and of SIGNAL are zero; all of it is where EN = 0 (R162). -/
def waitFine (w : Word) : Bool := if waitOn w then field w 60 3 == 0 else w == 0
def signalFine (ws : List Word) : Bool := if dField ws 32 31 1 = 1 then dField ws 32 12 19 == 0 else dField ws 32 0 32 == 0

/-- The fields every descriptor has are well formed (R161 to R163, R166). -/
def commonFine (ws : List Word) : Bool :=
  dField ws 0 0 4 == 0 && dField ws 0 32 6 == 0 && dKgen ws != 0 && waitFine (dWait ws 0) && waitFine (dWait ws 1) && signalFine ws

/-- An area that is all zero, with EXEC zero: NOP and STEP_BEGIN (R173). -/
def emptyGood (ws : List Word) : Bool := dExec ws == 0 && (List.range 11).all fun i => dWord ws (40 + 8 * i) == 0

/-- A TACK_CALL that R166 and R199 take. -/
def tackGood (ws : List Word) : Bool :=
  dExec ws == 0 && dField ws 40 0 32 == 0 && decide (dRoutine ws < 0x8000)
    && [dArgs ws, dRet ws].all fun o => o.fine && orAbsent rawIn o

/-- The operand area is well formed for its opcode (R166). -/
def areaGood (t : Nat) (ws : List Word) : Bool :=
  match dOpcode ws with
  | 0x10 => matGood ws
  | 0x11 => scaleGood ws
  | 0x18 => vecGood ws
  | 0x20 => dmaCopyGood t ws
  | 0x21 => gatherGood ws
  | 0x30 => assembleGood ws
  | 0x31 => solveGood ws
  | 0x32 => adjointGood ws
  | 0x38 => updateGood ws
  | 0x40 => tackGood ws
  | _ => emptyGood ws

/-- Check 3 (R166, R167) for a descriptor fetched from slot p, if from one, in the order of R587. -/
def checkThree (t : Nat) (p : Option Nat) (ws : List Word) : Option Nat :=
  if dField ws 0 4 4 ≠ 1 then some 0x03
  else if (match p with | some n => decide (dSlot ws ≠ n) | none => false) then some 0x04
  else if ¬ opcodeKnown (dOpcode ws) then some 0x05
  else if ¬ opcodePlaced t (dOpcode ws) then some 0x06
  else if ¬ commonFine ws ∨ ¬ areaGood t ws then some 0x02
  else none

/-- TACK_CALL's own issue checks (R200, R252). -/
def tackIssue (s : State) (t b : Nat) (ws : List Word) : Option Nat :=
  let past := fun (o : Operand) (n : Nat) => decide (o.space = 1 ∧ hbmSize < o.addr + n)
  if past (dArgs ws) 1 ∨ past (dRet ws) 16 then some 0x20
  else if dRoutine ws = rtReplayStep then some 0x4A
  else match findRoutine (s.bank (dieOf t) b).image (dRoutine ws) with
    | none => some 0x40
    | some r => if r.rver = dRver ws then none else some 0x41

/-- The opcode's own issue checks (check 9), for a stirrup that runs under bank b: the fault with its DETAIL. -/
def ownIssue (t b : Nat) (ws : List Word) (s : State) : Option Bad × State :=
  let plain := fun (e : Option Nat) => (e.map fun c => (c, (0 : Word)), s)
  match dOpcode ws with
  | 0x10 => plain (matIssue s t ws)
  | 0x11 => plain (scaleIssue ws)
  | 0x18 => (vecIssue s t b ws, s)
  | 0x20 => plain (copyIssue ws)
  | 0x21 => plain (gatherIssue t ws)
  | 0x30 => plain (assembleIssue ws)
  | 0x31 => solveIssue ws s
  | 0x32 => adjointIssue ws s
  | 0x38 => plain (updateIssue s ws)
  | 0x40 => plain (tackIssue s t b ws)
  | _ => (none, s)

/-- The words of n descriptors in some bytes. -/
def wordsOfDesc (bs : Bytes) : List Word := bytesWords 16 bs

end Sys2Proof.Machine
end

