-- ==== Sys2Proof/Machine/Issue.lean ====
section
/-! DEFINITION. Dispatch by the stirrups (05): ring fetch, the issue checks of Table 5-10, completion, signals, kernel store
bank switches, run-ahead and quiescence. -/

namespace Sys2Proof.Machine

/-! The ring (R157 to R159). -/

def ringSlots (s : State) (t : Nat) : Nat := s.fld .dspRingSlots t 0 0 21

/-- Slot i places after the head, and the step its descriptor belongs to. -/
def slotAfter (s : State) (t i : Nat) : Nat := ((s.stir t).head + i) % ringSlots s t
def stepAfter (s : State) (t i : Nat) : Word := s.stepOf t + BitVec.ofNat 64 (((s.stir t).head + i) / ringSlots s t)

/-- What a fetch of a slot at an address meets; a line it cannot use is reported only at the head (R159), and so is a slot at or above
2^40, as an address out of range (DESIGN CHOICE, log entry 75: RING_BASE has 48 bits and R252 speaks of operands). -/
def fetchErr (s : State) (a : Nat) : Option MemErr :=
  if hbmSize < a + 128 then some (.range (max a hbmSize))
  else match denied s .fetch false a 128 with
    | some (x, r) => some (.protect x r false)
    | none => badLine s a 128

/-- Fetch one slot under class FETCH. -/
def fetchSlot (t p : Nat) (s : State) : Fetched × State :=
  let a := (s.reg .dspRingBase t 0).toNat + 128 * p
  match fetchErr s a with
  | some e => (⟨p, [], some e⟩, s)
  | none =>
    match memRead s .fetch {} a 128 with
    | (.error e, s1) => (⟨p, [], some e⟩, s1)
    | (.ok bs, s1) => (⟨p, wordsOfDesc bs, none⟩, s1)

def fetchSlots (t : Nat) : List Nat → State → List Fetched × State
  | [], s => ([], s)
  | p :: ps, s =>
    let (f, s1) := fetchSlot t p s
    let (fs, s2) := fetchSlots t ps s1
    (f :: fs, s2)

/-- RING_FETCH_DONE: the next 8 descriptors are fetched (R159). -/
def execRingFetchDone (t : Fin 304) (s : State) : Out :=
  let x := s.stir t.val
  let n := x.fetched.length
  if x.st ≠ .run ∨ ringSlots s t.val = 0 ∨ 24 < n then disabled "RING_FETCH_DONE"
  else
    let ps := (List.range 8).map fun i => slotAfter s t.val (n + i)
    if ps.any fun p => hbmLocked s ((s.reg .dspRingBase t.val 0).toNat + 128 * p) 128 then disabled "RING_FETCH_DONE"
    else
      let (fs, s1) := fetchSlots t.val ps s
      .next (s1.setStir t.val { s1.stir t.val with fetched := (s1.stir t.val).fetched ++ fs })

/-! The head (Table 5-10). -/

/-- What a check that faults leaves beside the fault. -/
inductive Mark where
  | plain
  | denied (e : MemErr)
  | complement (kind : Nat) (v inv : Word) (desc : Bool)
  deriving DecidableEq, Repr

/-- What checks 1 to 8 make of the head: nothing fetched, the stop point, a hold with its check, a fault, or passed. -/
inductive Head where
  | empty
  | stop
  | hold (check : Nat)
  | fault (x : Culprit) (code : Nat) (detail : Word) (m : Mark)
  | pass (f : Fetched)
  deriving DecidableEq, Repr

/-- A slot of a step is the stirrup's stop point (R206). -/
def stopsAt (s : State) (t p : Nat) (step : Word) : Bool :=
  let w := s.reg .dspStopSlot t 0
  bit w 31 && field w 0 24 == p && s.reg .dspStopStep t 0 == step

/-- Opcodes that share places in flight, and how many there are (Table 5-11). -/
def flightGroup (t op : Nat) : List Nat × Nat :=
  match op with
  | 0x10 => ([0x10], 2)
  | 0x18 => ([0x18], 1)
  | 0x11 => ([0x11], 1)
  | 0x20 | 0x21 => ([0x20, 0x21], if t < 300 then 4 else 8)
  | 0x30 => ([0x30], 1)
  | 0x31 | 0x32 => ([0x31, 0x32], 1)
  | 0x38 => ([0x38], 2)
  | 0x40 => ([0x40], 8)
  | _ => ([0x01], 1)

/-- A solver descriptor that occupies the latigo beside its own unit (R295). -/
def usesLatigo (ws : List Word) : Bool :=
  dOpcode ws == 0x30 || (dOpcode ws == 0x31 && (solveOf ws).lm) || (dOpcode ws == 0x32 && (adjointOf ws).lm)

/-- An execution slot of the opcode is free (R182, R295). -/
def slotFree (s : State) (t : Nat) (ws : List Word) : Bool :=
  let fl := (s.stir t).flight
  let g := flightGroup t (dOpcode ws)
  dOpcode ws == 0 || (decide ((fl.filter fun f : InFlight => g.1.contains (dOpcode f.words)).length < g.2)
    && !(usesLatigo ws && fl.any fun f : InFlight => usesLatigo f.words))

/-- Whether a bank is SEALED, with users or without, under a generation. -/
def bankHolds (s : State) (d b gen : Nat) : Bool := (s.bank d b).st == .sealed && (s.bank d b).gen.toNat == gen

/-- A TERM that disagrees with its complement (R176). -/
def badTerm (ws : List Word) : Option Word :=
  ([dWait ws 0, dWait ws 1]).find? fun w => waitOn w && waitTermInv w != 2 ^ 24 - 1 - waitTerm w

/-- A counter that a wait names and whose value disagrees with its complement (R175). -/
def badCounter (s : State) (ws : List Word) : Option Nat :=
  (([dWait ws 0, dWait ws 1]).find? fun w => waitOn w && !ctrGood s (waitCtr w)).map waitCtr

/-- Checks 5 to 8. -/
def lateChecks (s : State) (t : Nat) (f : Fetched) (x : Culprit) : Head :=
  if ¬ stepGood s t then .fault x 0x09 0 (.complement 5 (s.reg .dspStep t 0) (s.reg .dspStepInv t 0) false)
  else match badTerm f.words with
    | some w => .fault x 0x08 0 (.complement 3 (BitVec.ofNat 64 (waitTerm w)) (BitVec.ofNat 64 (waitTermInv w)) false)
    | none =>
      match badCounter s f.words with
      | some c => .fault x 0x0A 0 (.complement 3 (BitVec.ofNat 64 (ctrValue s c)) (BitVec.ofNat 64 (ctrInv s c)) true)
      | none =>
        if ¬ waitsMet s f.words (s.stepOf t) then .hold 6
        else if ¬ slotFree s t f.words then .hold 7
        else if ¬ s.m.gateOpen then .hold 8
        else .pass f

/-- Checks 1 to 8 on the head of stirrup t. A fault of check 3 or later names the header's OPCODE and KGEN, and so does a
DESC_VERSION fault, of which R183 does not speak (DESIGN CHOICE, log entry 68). -/
def headCheck (s : State) (t : Nat) : Head :=
  let y := s.stir t
  if ringSlots s t ≠ 0 ∧ stopsAt s t y.head (s.stepOf t) then .stop
  else match y.fetched with
  | [] => .empty
  | f :: _ =>
    let bare : Culprit := ⟨f.slot, 0, 0, s.stepOf t, 0⟩
    match f.err with
      | some e => .fault bare (errFault e) (errDetail e) (.denied e)
      | none =>
        let h := dWord f.words 0
        let inv := dWord f.words 8
        if ¬ complOk h inv then .fault bare 0x01 0 (.complement 1 h inv false)
        else
          let x : Culprit := ⟨f.slot, dOpcode f.words, dKgen f.words, s.stepOf t, 0⟩
          match checkThree t (some f.slot) f.words with
          | some e => .fault x e 0 .plain
          | none =>
            if bankHolds s (dieOf t) y.bank (dKgen f.words) then lateChecks s t f x
            else if bankHolds s (dieOf t) (1 - y.bank) (dKgen f.words) then .hold 4
            else .fault x 0x07 0 .plain

/-- Log what a check that faults leaves. -/
def applyMark (s : State) (t : Nat) (x : Culprit) (m : Mark) : State :=
  match m with
  | .plain => s
  | .denied e => accountErr s .fetch e
  | .complement k v inv true => logEvent (s.bump 5 1) 0x0C00 (srcStirrup t) (some (x.step, BitVec.ofNat 24 x.slot)) (BitVec.ofNat 64 k) v inv
  | .complement k v inv false => logComplement s (srcStirrup t) k v inv

/-! Phase records (R361 to R364). -/

/-- Phase map entries that a slot lies in. -/
def phasesOf (s : State) (t p : Nat) : List Nat :=
  (List.range 16).filter fun j =>
    let w := s.reg .dspPhaseMap t j
    bit w 63 && decide (field w 32 24 ≤ p ∧ p ≤ field w 8 24)

/-- A slot of the step held issues. -/
def phaseIssue (s : State) (t p : Nat) : State :=
  let y := s.stir t
  let began := match y.began with
    | some w => some w
    | none => some s.time
  let start := fun (m : List (Nat × Option (Word × Word))) (j : Nat) => if (sget none m j).isSome then m else sset none m j (some (s.time, 0))
  s.setStir t { y with began := began, marks := (phasesOf s t p).foldl start y.marks }

/-- Where the phase record of a step stands. -/
def phaseBase (s : State) (t : Nat) (step : Word) : Nat := (s.reg .dspPhaseBase t 0).toNat + 384 * (step.toNat % 4)

/-- The phase record of a step lies on a stack whose lock is held (R273). -/
def phaseLocked (s : State) (t : Nat) (step : Word) : Bool := hbmLocked s (phaseBase s t step) 384

/-- Write a phase record (Table 9-9). -/
def writePhase (s : State) (t : Nat) (r : PhaseRec) : State :=
  let phases := (List.range 16).flatMap fun j =>
    match sget none r.marks j with
    | some (a, b) => [a, b]
    | none => [0, 0]
  let ws := [r.step, ~~~r.step, r.began, r.lastDone] ++ r.cats ++ phases ++ [0, 0, 0, 0]
  match memWrite s .fetch {} (phaseBase s t r.step) (wordsBytes ws) with
  | (some e, s1) => noteErr s1 .fetch e
  | (none, s1) => s1

/-- The phase map entries that a slot lies in end now. -/
def endMarks (s : State) (t p : Nat) (m : List (Nat × Option (Word × Word))) : List (Nat × Option (Word × Word)) :=
  (phasesOf s t p).foldl (fun m j =>
    match sget none m j with
    | some (a, _) => sset none m j (some (a, s.time))
    | none => m) m

/-- A slot of a step completes (R363, R364). Where the stirrup has left the step, the step's record is written again with the
completion (DESIGN CHOICE, log entry 35). -/
def phaseDone (s : State) (t p : Nat) (step : Word) : State :=
  let y := s.stir t
  if step = s.stepOf t then s.setStir t { y with lastDone := s.time, marks := endMarks s t p y.marks }
  else
    match y.past.find? fun r : PhaseRec => r.step == step with
    | none => s
    | some r =>
      let r1 := { r with lastDone := s.time, marks := endMarks s t p r.marks }
      let rest := y.past.filter fun q : PhaseRec => q.step != step
      let more := y.flight.any fun f : InFlight => f.step == step
      writePhase (s.setStir t { y with past := if more then rest ++ [r1] else rest }) t r1

/-- The end of a descriptor writes the record of a step that its stirrup has left, on a stack whose lock is held (R273). -/
def pastLocked (s : State) (t : Nat) (step : Word) : Bool :=
  step != s.stepOf t && ((s.stir t).past.any fun r : PhaseRec => r.step == step) && phaseLocked s t step

/-- The record of the step that a stirrup leaves. -/
def phaseRec (s : State) (t : Nat) : PhaseRec :=
  let y := s.stir t
  ⟨s.stepOf t, y.began.getD 0, y.lastDone, (List.range 8).map fun k => s.phaseTime t k, y.marks⟩

/-- The step number increases by 1, its complement with it (R158): the record of the step that ends is written, and the totals of
the next begin at zero (R361, R363). -/
def advanceStep (s : State) (t : Nat) : State :=
  let r := phaseRec s t
  let s1 := clearPhases (writePhase s t r) t
  let s2 := (s1.setReg .dspStep t 0 (s1.reg .dspStep t 0 + 1)).setReg .dspStepInv t 0 (s1.reg .dspStepInv t 0 - 1)
  let y := s2.stir t
  let more := y.flight.any fun f : InFlight => f.step == r.step
  s2.setStir t { y with began := none, lastDone := 0, marks := [], past := if more then y.past ++ [r] else y.past }

/-! Issue. -/

/-- Speculative sectors of a COPY that issues become ordinary (R190). -/
def settlePrefetch (s : State) (t slot : Nat) : State :=
  let sectors := s.mem.sectors.filterMap fun x : Nat × Option SectorState =>
    if x.1 / 98304 = t ∧ x.2 = some (.speculative slot) then (if s.benchRest t = .ordinary then none else some (x.1, some .ordinary))
    else some x
  dropPrefetch { s with mem := { s.mem with sectors := sectors } } t slot

/-- The head lies in the ring's last slot: with its issue the stirrup leaves its step. -/
def lastSlot (s : State) (t : Nat) : Bool := decide (ringSlots s t ≤ (s.stir t).head + 1)

/-- The head issues (R181). -/
def issueHead (s : State) (t : Nat) (f : Fetched) : State :=
  let s0 := phaseIssue (settlePrefetch s t f.slot) t f.slot
  let y := s0.stir t
  let g : InFlight :=
    { slot := f.slot, step := s0.stepOf t, words := f.words, bank := y.bank, gen := (s0.bank (dieOf t) y.bank).gen, issued := s0.time }
  let last := lastSlot s0 t
  let s1 := s0.setStir t { y with
    flight := y.flight ++ [g], fetched := y.fetched.tail, head := if last then 0 else y.head + 1, hold := 0, switching := false }
  let s2 := { s1 with d := { s1.d with quiescent := false } }
  if last then advanceStep s2 t else s2

/-- The head faults at issue (R181, R185); it stays at the head (DESIGN CHOICE, log entry 36). -/
def faultHead (s : State) (t : Nat) (x : Culprit) (code : Nat) (detail : Word) (m : Mark) : State :=
  faultDesc (applyMark s t x m) t x code detail

/-- The completion record of a slot lies on a stack whose lock is held (R273). -/
def recordLocked (s : State) (t p : Nat) : Bool := hbmLocked s ((s.reg .dspCplBase t 0).toNat + 32 * p) 32

/-- DESCRIPTOR_ISSUE (R181): the head is judged; it holds, stops, faults or issues. -/
def execDescriptorIssue (t : Fin 304) (s : State) : Out :=
  let y := s.stir t.val
  if y.st ≠ .run then disabled "DESCRIPTOR_ISSUE"
  else match headCheck s t.val with
    | .empty => disabled "DESCRIPTOR_ISSUE"
    | .stop => .next (enterHalt s t.val false)
    | .hold n => .next (s.setStir t.val { y with hold := n, switching := n == 4 })
    | .fault x code detail m =>
      if recordLocked s t.val x.slot then disabled "DESCRIPTOR_ISSUE" else .next (faultHead s t.val x code detail m)
    | .pass f =>
      match ownIssue t.val y.bank f.words s with
      | (some (code, detail), s1) =>
        .next (faultHead s1 t.val ⟨f.slot, dOpcode f.words, dKgen f.words, s1.stepOf t.val, 0⟩ code detail .plain)
      | (none, s1) =>
        if lastSlot s1 t.val ∧ phaseLocked s1 t.val (s1.stepOf t.val) then disabled "DESCRIPTOR_ISSUE" else .next (issueHead s1 t.val f)

/-- Kernel work issued from the current bank is in flight (R195). -/
def bankBusy (s : State) (t : Nat) : Bool := (s.stir t).flight.any fun f : InFlight => fetches (s.stir t).bank f

/-- The head waits for the other bank, and nothing of the current one is left (R195). -/
def bankReady (s : State) (t : Nat) : Bool := (s.stir t).st == .run && headCheck s t == .hold 4 && !bankBusy s t

/-- BANK_SWITCH (R195). -/
def execBankSwitch (t : Fin 304) (s : State) : Out :=
  let y := s.stir t.val
  if y.switching ∧ bankReady s t.val then .next (s.setStir t.val { y with bank := 1 - y.bank, switching := false, hold := 0 })
  else disabled "BANK_SWITCH"

/-! Completion (R183, R185). -/

/-- Accumulator tiles that a descriptor has written, which become invalid when it faults after all (R97, R586). -/
def spoilTiles (t : Nat) (f : InFlight) (s : State) : State :=
  match dOpcode f.words with
  | 0x10 => invalidate s t ((matOf f.words).spoilt (if (matOf f.words).drain then 1 else 0))
  | 0x18 => invalidate s t (sget {} s.vec t).wrote
  | 0x20 => if (dRef f.words 48).space = 3 then invalidate s t [(dRef f.words 48).addr] else s
  | _ => s

/-- A descriptor that has ended without a fault completes. A MATMUL that counted writes its histogram record first and
publishes once its completion record stands (R74): where one of the two records cannot be written it faults, its tiles become
invalid (R97) and its counts are discarded (R71). -/
def closeGood (s : State) (t : Nat) (x : Culprit) (f : InFlight) : State :=
  match writeHist s t f with
  | (some e, s1) => faultDesc (spoilTiles t f (noteErr s1 .sdma e)) t x (errFault e) (errDetail e)
  | (none, s1) =>
    completeDesc s1 t x f.words (spoilTiles t f) fun s =>
      match f.counts with
      | some (c, counts) => publishHist t c counts s
      | none => s

/-- The descriptor's end: its record, then its signal and DESC_DONE, or its fault. -/
def closeFlight (s : State) (t : Nat) (f : InFlight) : State :=
  let x := culpritOf f
  let s1 := if f.ret.isSome then scrambleEnded s (dieOf t) f.slot f.step else s
  match writeReturn s1 f with
  | (some e, s2) => faultDesc (noteErr s2 .ddma e) t x (errFault e) (errDetail e)
  | (none, s2) =>
    match f.fault with
    | some (code, detail) => faultDesc s2 t x code detail
    | none => closeGood s2 t x f

/-- DESCRIPTOR_COMPLETE (R183): the oldest descriptor of a slot that has ended completes, or faults. -/
def execDescriptorComplete (t : Fin 304) (slot : BitVec 24) (s : State) : Out :=
  match (s.stir t.val).flight.find? fun f : InFlight => f.slot == slot.toNat && f.phase == .ended with
  | none => disabled "DESCRIPTOR_COMPLETE"
  | some f =>
    if recordLocked s t.val f.slot ∨ histLocked s t.val f ∨ returnLocked s f ∨ pastLocked s t.val f.step then disabled "DESCRIPTOR_COMPLETE"
    else
      let s1 := phaseDone (dropFlight s t.val f) t.val f.slot f.step
      .next (tryFinishFunction (closeFlight s1 t.val f))

/-- NOP (R173): it completes at issue. -/
def execNop (t : Fin 304) (s : State) : Out :=
  match oldest s t.val 0x00 .issued with
  | none => disabled "NOP"
  | some f =>
    if recordLocked s t.val f.slot ∨ pastLocked s t.val f.step then disabled "NOP"
    else
      let s1 := phaseDone (dropFlight s t.val f) t.val f.slot f.step
      .next (tryFinishFunction (completeDesc s1 t.val (culpritOf f) f.words))

/-- The inputs of a step are complete: the member holds a role, the step lies in the retention window, and every fragment has
arrived (R30, R31, R391). A role or last released step that differs from its complement is not used, and the step waits (R29;
DESIGN CHOICE, log entry 65). -/
def stepInputs (s : State) (step : Word) : Bool :=
  let n := stepDiff step (lastReleased s)
  regHeld s .cfgRole && regHeld s .brcLastReleased && s.role != 0xFFF && decide (1 ≤ n ∧ n ≤ depth s) && inputsComplete s step

/-- STEP_BEGIN (R173): it ends once the inputs of its step are complete. -/
def execStepBegin (t : Fin 304) (s : State) : Out :=
  match oldest s t.val 0x01 .issued with
  | none => disabled "STEP_BEGIN"
  | some f => if stepInputs s f.step then .next (endFlight s t.val f none 0) else disabled "STEP_BEGIN"

/-- COUNTER_SIGNAL (R178): a signal on its way to counter c arrives. -/
def execCounterSignal (c : Fin 4096) (s : State) : Out :=
  if s.d.signals.contains c.val then
    let w := place 24 24 (ctrInv s c.val + (2 ^ 24 - 1)) ||| place 0 24 (ctrValue s c.val + 1)
    let s1 : State := { s with d := { s.d with signals := s.d.signals.erase c.val } }
    .next (s1.setReg .dspCtr c.val 0 w)
  else disabled "COUNTER_SIGNAL"

/-! Quiescence (R207). -/

/-- Stirrup t can still issue, fault or stop of itself. -/
def canIssue (s : State) (t : Nat) : Bool :=
  (s.stir t).st == .run &&
    match headCheck s t with
    | .empty => ringSlots s t != 0
    | .hold 4 => !bankBusy s t
    | .hold 8 => true
    | .hold _ => false
    | _ => true

/-- The module is quiescent (R207). -/
def isQuiescent (s : State) : Bool :=
  s.d.signals.isEmpty
    && s.d.stirrups.all fun z : Nat × Stirrup => !canIssue s z.1 && z.2.flight.all fun f : InFlight => waitsFabric s z.1 f

/-- The routines that wait, as QUIESCENT names them: index, stirrup and slot. -/
def waitingRoutines (s : State) : List Word :=
  s.d.stirrups.flatMap fun z : Nat × Stirrup =>
    (z.2.flight.filter fun f : InFlight => waitsFabric s z.1 f).map fun f => place 48 5 (dRoutine f.words) ||| place 32 9 z.1 ||| place 0 24 f.slot

/-- QUIESCENT (R207): the module has become quiescent. -/
def execQuiescent (s : State) : Out :=
  if s.d.quiescent ∨ ¬ isQuiescent s then disabled "QUIESCENT"
  else
    let ws := waitingRoutines s
    let s1 : State := { s with d := { s.d with quiescent := true } }
    .next (logModule s1 0x0003 srcModule (BitVec.ofNat 64 ws.length) (ws.getD 0 0) (ws.getD 1 0))

/-! Run-ahead (R188 to R192). -/

/-- The bench ranges that a descriptor declares (R168). -/
def benchRanges (ws : List Word) : List Range :=
  match dOpcode ws with
  | 0x10 => matRanges ws
  | 0x11 => scaleRanges ws
  | 0x18 => vecRanges ws
  | 0x20 => dmaCopyRanges ws
  | 0x21 => gatherRanges ws
  | _ => []

/-- Two bench ranges share a 32-byte sector. -/
def sectorsMeet (a b : Range) : Bool := (sectorsOf a.1 a.2).any fun x => (sectorsOf b.1 b.2).contains x

/-- The destination of a COPY into the bench. -/
def copyDst (ws : List Word) : Range :=
  let e := (copyOf ws).dstExtent
  (e.1.toNat, (e.2 + 1 - e.1).toNat)

/-- Bytes of speculative sectors of a stirrup. -/
def speculativeBytes (s : State) (t : Nat) : Nat :=
  32 * (s.mem.sectors.filter fun x : Nat × Option SectorState =>
    x.1 / 98304 == t && (match x.2 with | some (.speculative _) => true | _ => false)).length

/-- The descriptor i places after the head may be prefetched (R188). -/
def eligible (s : State) (t i : Nat) (f : Fetched) : Bool :=
  let y := s.stir t
  let c := copyOf f.words
  let before := y.fetched.take i
  let others := (before.map fun g => g.words) ++ y.flight.map fun g => g.words
  decide (1 ≤ i ∧ i ≤ s.fld .dspCtrl t 0 12 4) && f.err.isNone && complOk (dWord f.words 0) (dWord f.words 8)
    && (checkThree t (some f.slot) f.words).isNone && dOpcode f.words == 0x20 && c.src.space == 1 && c.dst.space == 2
    && (copyIssue f.words).isNone && bankHolds s (dieOf t) y.bank (dKgen f.words) && stepGood s t && (badTerm f.words).isNone
    && (badCounter s f.words).isNone && waitsMet s f.words (stepAfter s t i)
    && !(before ++ [f]).any (fun g => dNoRunahead g.words)
    && !((List.range (i + 1)).any fun k => stopsAt s t (slotAfter s t k) (stepAfter s t k))
    && !(others.any fun ws => (benchRanges ws).any fun r => sectorsMeet r (copyDst f.words))
    && !y.prefetched.contains f.slot
    && decide (speculativeBytes s t + 32 * (sectorsOf (copyDst f.words).1 (copyDst f.words).2).length ≤ 4096 * s.fld .dspCtrl t 0 0 9)

/-- A line that run-ahead cannot read, for an error or a denial, which it keeps to itself (R192). -/
def silentBad (s : State) (t a n : Nat) : Bool := (badLine s a n).isSome || (denied s (dmaClass t) false a n).isSome

/-- The parts of a byte range that lie in one HBM line each: first byte, counted in the range, and bytes. -/
def linePieces (a n : Nat) : List Range :=
  (linesOf a n).map fun l => (max a (64 * l) - a, min (a + n) (64 * l + 64) - max a (64 * l))

/-- The rows, or the row pieces of a skewed stream, that a COPY reads: address and bytes. -/
def prefetchReads (c : Cp) : List (Nat × Nat) :=
  if c.skew = 0 then (List.range c.rows).map fun (i : Nat) => (((c.src.addr : Int) + i * c.ss).toNat, c.srcRow)
  else
    ((List.range c.pm).filter fun u => decide (u % c.mp < c.rows)).map fun u =>
      let p := rowPiece c (c.depth * (u / c.mp % c.kc))
      (((c.src.addr : Int) + (u % c.mp : Nat) * c.ss + p.1).toNat, p.2)

/-- A stretch of n source bytes at a goes to d: the parts of it that lie in one line each, with the bench bytes that come of them. -/
def pieceTargets (c : Cp) (a n d : Nat) : List (Nat × Nat × Range) :=
  let bits := fun (o : Operand) => if c.skew = 3 then 8 else elemBits o.fmt
  (linePieces a n).map fun p =>
    let e0 := 8 * p.1 / bits c.src * bits c.dst / 8
    let e1 := ceilDiv (ceilDiv (8 * (p.1 + p.2)) (bits c.src) * bits c.dst) 8
    (a + p.1, p.2, (d + e0, e1 - e0))

/-- First byte and bytes, in a row piece with first depth k0, of what group j takes of it. -/
def groupPiece (c : Cp) (k0 j : Nat) : Nat × Nat :=
  let p := rowPiece c k0
  let b := if c.skew = 3 then (k0 + c.n * j * c.g) / 32 - k0 / 32 else j * (c.g * c.n * elemBits c.src.fmt / 8)
  let n := if c.skew = 3 then c.part else c.g * c.n * elemBits c.src.fmt / 8
  (p.1 + b, min n (p.2 - b))

/-- What a COPY reads of each HBM line, and the bench bytes that come of it: no more of the bench is void where that line cannot be
read (R192). -/
def prefetchPieces (c : Cp) : List (Nat × Nat × Range) :=
  if c.skew = 0 then
    (List.range c.rows).flatMap fun (i : Nat) =>
      pieceTargets c ((c.src.addr : Int) + i * c.ss).toNat c.srcRow ((c.dst.addr : Int) + i * c.ds).toNat
  else
    ((List.range c.pm).filter fun u => decide (u % c.mp < c.rows)).flatMap fun u =>
      (List.range c.q).flatMap fun j =>
        let p := groupPiece c (c.depth * (u / c.mp % c.kc)) j
        pieceTargets c ((c.src.addr : Int) + (u % c.mp : Nat) * c.ss + p.1).toNat p.2 (c.dst.addr + (u + j) * c.lineBytes + j * c.part)

/-- The module as run-ahead's reads see it, which report nothing: no line in error, no page denied. -/
def opened (s : State) : State :=
  let s1 := (List.range 16).foldl (fun s r => s.setReg .hbmProtPerm r 0 0) s
  { s1 with mem := { s1.mem with lines := s1.mem.lines.filter fun z : Nat × LineMeta => (badLine s (64 * z.1) 64).isNone } }

/-- The slices see the lines of a prefetched read. -/
def touchLines (s : State) (t : Nat) (o : Operand) (a n : Nat) : State :=
  (linesOf a n).foldl (fun s l => if (denied s (dmaClass t) false (64 * l) 64).isSome then s else sbgRead s (hintOf o.hint).policy l) s

/-- Prefetch a COPY (R188, R189): its bench lines are speculative, or void where their source could not be read (R192). Beside
them only the slices change. -/
def prefetch (s : State) (t : Nat) (f : Fetched) (mode : StoreMode) : State :=
  let c := copyOf f.words
  let moved := (moveAll t c mode (opened s)).s
  let s1 := (prefetchReads c).foldl (fun s p => touchLines s t c.src p.1 p.2) s
  let s2 : State := { s1 with freeCount := moved.freeCount, mem := { s1.mem with bench := moved.mem.bench, benchErr := moved.mem.benchErr } }
  let rows := if c.skew = 0 then (List.range c.rows).map fun (i : Nat) => (((c.dst.addr : Int) + i * c.ds).toNat, c.dstRow)
    else [copyDst f.words]
  let s3 := rows.foldl (fun s r => markSectors s t r.1 r.2 (.speculative f.slot)) s2
  let s4 := ((prefetchPieces c).filter fun p => silentBad s t p.1 p.2.1).foldl (fun s p => markSectors s t p.2.2.1 p.2.2.2 .void) s3
  s4.setStir t { s4.stir t with prefetched := (s4.stir t).prefetched ++ [f.slot] }

/-- RUN_AHEAD_PREFETCH: the first later COPY that may be prefetched is. -/
def execRunAheadPrefetch (t : Fin 304) (s : State) : Out :=
  let y := s.stir t.val
  let found := y.fetched.zipIdx.find? fun z : Fetched × Nat => eligible s t.val z.2 z.1
  match (if y.st = .run then found else none) with
  | none => disabled "RUN_AHEAD_PREFETCH"
  | some (f, i) =>
    let c := copyOf f.words
    if rangeLocked s c.src c.srcExtent.1.toNat (c.srcExtent.2 + 1 - c.srcExtent.1).toNat then disabled "RUN_AHEAD_PREFETCH"
    else match storeModeOf s f.words (stepAfter s t.val i) with
      | .error _ => disabled "RUN_AHEAD_PREFETCH"
      | .ok mode => .next (prefetch s t.val f mode)

end Sys2Proof.Machine
end

