-- ==== Sys2Proof/Machine/Debug.lean ====
section
/-! DEFINITION. Stops, resumption and snapshots (R206, R209 to R212, R581). -/

namespace Sys2Proof.Machine

/-- DSP_HALT (R184, R581): a halt request sets out for every stirrup. -/
def execDspHalt (q : Req) (s : State) : Out :=
  omcp "DSP_HALT" (.dspHalt q) s q 0x50 true [] fun s => { st := requestHalts s false none, status := stOk }

/-- HALT_REQUEST_ARRIVAL (R581): the stirrup reaches its boundary and enters STOPPED or HALTED. -/
def execHaltRequestArrival (t : Fin 304) (s : State) : Out :=
  match (s.stir t.val).request with
  | none => disabled "HALT_REQUEST_ARRIVAL"
  | some halted => .next (enterHalt (s.setStir t.val { s.stir t.val with request := none }) t.val halted)

/-- Write a stirrup's stop point (R206). -/
def setStop (s : State) (t : Nat) (en : Bool) (step : Word) (slot : Nat) : State :=
  (s.setCfg .dspStopStep t 0 step).setCfg .dspStopSlot t 0 (placeBit 31 en ||| place 0 24 slot)

/-- A stop point within a dry replay of step q is cleared: the one at the replay's end is in force again (R390). -/
def dryStop (s : State) (t : Nat) : State :=
  match s.a.dry with
  | some q => if s.reg .dspStopStep t 0 = q then setStop s t true (q + 1) 0 else s
  | none => s

/-- A STOPPED stirrup returns to RUN with its stop point cleared, and fetches again (R159, R212). -/
def resume (s : State) (t : Nat) : State :=
  let y := s.stir t
  if y.st = .stopped then
    let s1 := (s.setStir t { y with st := .run, fetched := [], hold := 0, switching := false }).setCfg .dspStopSlot t 0
      (setField (s.reg .dspStopSlot t 0) 31 1 0)
    let s2 := dryStop s1 t
    { s2 with d := { s2.d with quiescent := false } }
  else s

/-- DSP_RESUME (R212, R483): refused, with nothing changed, where a stirrup it names is HALTED, or HALTED or STOPPED in a group
that is not ON. -/
def execDspResume (q : Req) (stirrup : BitVec 9) (s : State) : Out :=
  omcp "DSP_RESUME" (.dspResume q stirrup) s q 0x51 (decide (stirrup.toNat < 304 ∨ stirrup = 0x1FF)) [] fun s =>
    let ts := if stirrup = 0x1FF then List.range 304 else [stirrup.toNat]
    if ts.any fun t => groupAway s t then { st := s, status := stState }
    else if ts.any fun t => (s.stir t).st == .halted then { st := s, status := stNotResumable }
    else { st := ts.foldl resume s, status := stOk }

/-- DSP_STOP_AT (R206). -/
def execDspStopAt (q : Req) (stirrup : BitVec 9) (step : Word) (slot : BitVec 24) (en : Bool) (s : State) : Out :=
  omcp "DSP_STOP_AT" (.dspStopAt q stirrup step slot en) s q 0x52 (decide (stirrup.toNat < 304)) [] fun s =>
    { st := setStop s stirrup.toNat en step slot.toNat, status := stOk }

/-! Reports of a stirrup (Tables 5-22 and 5-24). -/

def stirrupCode : StirrupState → Nat
  | .off => 0 | .run => 1 | .stopped => 2 | .halted => 3

/-- DSP_STAT. -/
def dspStat (s : State) (t : Nat) : Word :=
  let y := s.stir t
  let held := if y.st = .off then 0 else if y.st = .run then y.hold else 1
  let inFlight := (y.flight.filter fun f : InFlight => dOpcode f.words != 0).length
  place 40 24 y.head ||| place 35 5 inFlight ||| place 33 2 (stirrupCode y.st) ||| place 32 1 y.bank ||| placeBit 31 (held != 0)
    ||| place 27 4 held

/-- DSP_KGEN; before the commit no stirrup has a current bank (R197). -/
def dspKgen (s : State) (t : Nat) : Word :=
  let y := s.stir t
  let b := s.bank (dieOf t) y.bank
  placeBit 16 y.switching ||| (if ¬ s.m.locked ∨ b.st ≠ .sealed then 0 else BitVec.setWidth 64 b.gen)

/-! Snapshots. -/

/-- A range entry (Table 5-18a). -/
structure SnapRange where
  kind : Nat
  saddle : Nat
  addr : Nat
  len : Nat
  rsv : Bool
  deriving DecidableEq, Repr

def snapRanges : Nat → List Word → List SnapRange
  | 0, _ => []
  | n + 1, a :: b :: rest =>
    ⟨field a 60 4, field a 40 9, field a 0 40, field b 0 40, field a 49 11 != 0 || field b 40 24 != 0⟩ :: snapRanges n rest
  | _ + 1, _ => []

/-- Classes that a kind of range serves, and the kind a class needs. -/
def kindClasses (kind : Nat) : List Nat := if kind = 1 then [3, 4, 5] else if kind = 2 then [6] else [7]
def classKind (c : Nat) : Nat := if c < 6 then 1 else if c = 6 then 2 else 3

/-- A range entry is well formed by itself (R210). -/
def SnapRange.fine (r : SnapRange) : Bool :=
  !r.rsv && decide (1 ≤ r.kind ∧ r.kind ≤ 3)
    && (if r.kind = 1 then decide (r.saddle ≤ 299) && r.addr == 0 && r.len == 0
        else r.addr % 64 == 0 && r.len % 64 == 0 && r.len != 0 && (if r.kind = 2 then decide (r.saddle ≤ 299) else r.saddle == 0))

/-- The payload is one that R210 takes; `ws` is the words from w1 on. -/
def snapFits (classes : Word) (ws : List Word) (rs : List SnapRange) : Bool :=
  let w1 := ws.headD 0
  let n := field w1 0 7
  ws != [] && field classes 8 56 == 0 && field w1 7 57 == 0 && decide (n ≤ 64) && ws.length == 2 * n + 1
    && rs.all (fun r : SnapRange => r.fine && (kindClasses r.kind).any fun c => bit classes c)
    && [3, 4, 5, 6, 7].all fun c => !bit classes c || rs.any fun r : SnapRange => r.kind == classKind c

/-- A map of bits as bytes, padded to 8. -/
def bitMap (bs : List Bool) : Bytes :=
  (List.range (8 * ceilDiv (ceilDiv bs.length 8) 8)).map fun k =>
    BitVec.ofNat 8 ((List.range 8).foldl (fun a i => a + if bs.getD (8 * k + i) false then 2 ^ i else 0) 0)

/-- A line as a read of it gives it (R263), without touching it. -/
def lineAsRead (s : State) (l : Nat) : Bytes := (decodeLine ((reveal s l).line l) ((reveal s l).lineMeta l)).2.1

/-- Bytes of HBM that the module reports without touching them; a line that cannot be read is open. -/
def looseBytes : List Nat → State → Bytes × State
  | [], s => ([], s)
  | l :: ls, s =>
    let (bs, s1) := if (badLine s (64 * l) 64).isSome then freeBytes 64 s else (lineAsRead s l, s)
    let (rest, s2) := looseBytes ls s1
    (bs ++ rest, s2)

/-- A section: its header and its contents (Table 5-18c). -/
def section_ (cls index addr : Nat) (bs : Bytes) : Bytes :=
  wordsBytes [place 56 8 cls ||| place 47 9 index ||| place 0 40 bs.length, BitVec.ofNat 64 addr, 0, 0] ++ bs

/-- The accumulator tiles of a saddle with their flags and tags. A saddle whose group is not ON is sent as it is stored, where a
register read gives zero (R549); so for the scale register file, the histogram and the bench (DESIGN CHOICE, log entry 67). -/
def accBytes (s : State) (n : Nat) : Bytes :=
  ((List.range 8192).flatMap fun i => wordBytes (sget 0 (s.saddle n).tiles i)) ++ wordBytes (s.reg .sdlAccFlags n 0)
    ++ wordBytes (s.reg .sdlStat n 0)

/-- A bench range: the map of its void sectors, and its bytes. -/
def benchSection (s : State) (n a len : Nat) : Bytes :=
  let void := (sectorsOf a len).map fun x => s.sector n x == .void
  bitMap void ++ (List.range len).map fun i => if s.sector n ((a + i) / 32 * 32) = .void then 0 else s.benchByte n (a + i)

/-- An HBM range: the map of its unreadable lines, and its bytes. -/
def hbmSection (s : State) (a len : Nat) : Bytes :=
  let bad := (linesOf a len).map fun l => (badLine s (64 * l) 64).isSome
  bitMap bad ++ (linesOf a len).flatMap fun l => if (badLine s (64 * l) 64).isSome then List.replicate 64 0 else lineAsRead s l

/-- The completion records of a stirrup. -/
def recordSection (s : State) (t : Nat) : Bytes × State :=
  let a := (s.reg .dspCplBase t 0).toNat
  let n := 32 * ringSlots s t
  let (bs, s1) := looseBytes (linesOf a n) s
  ((bs.drop (a % 64)).take n, s1)

/-- The sections of classes 0 to 2. -/
def plainSections (classes : Word) (s : State) : List Bytes × State :=
  let ctrs := if bit classes 0 then [section_ 0 0 0 ((List.range 4096).flatMap fun c => wordBytes (s.reg .dspCtr c 0))] else []
  let stirs := if bit classes 1 then
    [section_ 1 0 0 ((List.range 304).flatMap fun t => wordsBytes [dspStat s t, s.reg .dspStep t 0, s.reg .dspStepInv t 0, dspKgen s t])]
    else []
  let ts := if bit classes 2 then (List.range 304).filter fun t => ringSlots s t != 0 else []
  ts.foldl (fun (z : List Bytes × State) t => let (bs, s1) := recordSection z.2 t; (z.1 ++ [section_ 2 t 0 bs], s1)) (ctrs ++ stirs, s)

/-- The sections of classes 3 to 7, by class and then by entry. -/
def rangeSections (classes : Word) (rs : List SnapRange) (s : State) : List Bytes :=
  [3, 4, 5, 6, 7].flatMap fun c =>
    if bit classes c then
      (rs.filter fun r : SnapRange => r.kind == classKind c).map fun r =>
        match c with
        | 3 => section_ 3 r.saddle 0 (accBytes s r.saddle)
        | 4 => section_ 4 r.saddle 0 ((List.range 1024).flatMap fun i => wordBytes (s.reg .sdlSrf r.saddle i))
        | 5 => section_ 5 r.saddle 0 (histRecord s r.saddle)
        | 6 => section_ 6 r.saddle r.addr (benchSection s r.saddle r.addr r.len)
        | _ => section_ 7 0 r.addr (hbmSection s r.addr r.len)
    else []

/-- The whole stream (R211). -/
def snapshotBytes (classes : Word) (rs : List SnapRange) (s : State) : Bytes × State :=
  let (plain, s1) := plainSections classes s
  let secs := plain ++ rangeSections classes rs s
  let n := BitVec.ofNat 64 secs.length
  let head := wordsBytes [place 48 16 1 ||| place 36 12 (s.fld .cfgMemberId 0 0 0 12) ||| place 0 8 (field classes 0 8),
    s.reg .dspStep 300 0, ~~~(s.reg .dspStep 300 0), s.time, n, 0, 0, 0]
  let body := head ++ secs.flatten
  (body ++ wordBytes n ++ sha384 body ++ wordBytes 1, s1)

/-- A range past the end of its space; one that a protection region denies. -/
def snapPast (r : SnapRange) : Bool := if r.kind = 2 then decide (benchSize < r.addr + r.len) else r.kind == 3 && decide (hbmSize < r.addr + r.len)
def snapDenied (s : State) (r : SnapRange) : Option (Nat × Nat) := if r.kind = 3 then denied s .egress false r.addr r.len else none

/-- DSP_SNAPSHOT (R209 to R211). -/
def execDspSnapshot (q : Req) (classes : Word) (ranges : List Word) (s : State) : Out :=
  omcp "DSP_SNAPSHOT" (.dspSnapshot q classes ranges) s q 0x53 true [] fun s =>
    let rs := snapRanges (field (ranges.headD 0) 0 7) ranges.tail
    if ¬ snapFits classes ranges rs then { st := s, status := stMalformed }
    else if ¬ isQuiescent s then { st := s, status := stNotQuiescent }
    else if rs.any snapPast then { st := s, status := stAddrRange }
    else match rs.findSome? (snapDenied s) with
      | some (a, r) => { st := logDenied s .egress a r false, status := stProtect }
      | none =>
        acceptTicket s q 0x53 stAccepted fun n s =>
          let (bs, s1) := snapshotBytes classes rs s
          match startStream s1 bs false (fun _ => .snapshot n) with
          | some (_, s2) => s2
          | none => finishTicket s1 n stEgressFailed 0

end Sys2Proof.Machine
end

