-- ==== Sys2Proof/Machine/Drive.lean ====
section
/-! DEFINITION. CINCH_DRIVE (R328): a list of assemble and solve images run from one slot. -/

namespace Sys2Proof.Machine

/-- Checks 2, 3 and 4 of an image, and its waits and signal (R328): its fault. SLOT is not judged, and the opcode is the one
its place asks for (DESIGN CHOICE, log entry 34). -/
def imageFault (t gen : Nat) (ops : List Nat) (ws : List Word) : Option Nat :=
  if ¬ complOk (dWord ws 0) (dWord ws 8) then some 0x01
  else match checkThree t none ws with
    | some e => some e
    | none =>
      if ¬ ops.contains (dOpcode ws) ∨ dWait ws 0 ≠ 0 ∨ dWait ws 1 ≠ 0 ∨ dField ws 32 0 32 ≠ 0 then some 0x02
      else if dKgen ws ≠ gen then some 0x07
      else none

/-- Execute an image after check 9. -/
def imageRun (t b : Nat) (step : Word) (slot : Nat) (ws : List Word) (s : State) : Option Bad × State :=
  match ownIssue t b ws s with
  | (some e, s1) => (some e, s1)
  | (none, s1) =>
    match dOpcode ws with
    | 0x30 => assembleRun (t - 300) step ws s1
    | 0x31 => solveRun (t - 300) step slot ws s1
    | _ => adjointRun (t - 300) step slot ws s1

/-- A mismatch of an image's header is logged (R165). -/
def imageComplement (s : State) (t : Nat) (ws : List Word) : State :=
  if complOk (dWord ws 0) (dWord ws 8) then s else logComplement s (srcStirrup t) 1 (dWord ws 0) (dWord ws 8)

/-- The areas that an image names, as they are known before it runs. -/
def imageAreas (s : State) (ws : List Word) : List Area :=
  match dOpcode ws with
  | 0x30 => (assembleOf ws).out :: (assembleOf ws).ins
  | 0x31 => let b := storedBatch s (solveOf ws); solveIns ws b ++ solveOuts ws b
  | 0x32 => let b := storedBatch s (adjointOf ws); adjointOut ws b :: adjointIns ws b
  | _ => []

/-- Entry e: its images in order; the fault of one that fails. -/
def driveEntry (t b : Nat) (step : Word) (slot : Nat) (one two : List Word) (s : State) : Option Nat × State :=
  let gen := (s.bank (dieOf t) b).gen.toNat
  match imageFault t gen [0x30] one with
  | some e => (some e, imageComplement s t one)
  | none =>
    match imageFault t gen [0x31, 0x32] two with
    | some e => (some e, imageComplement s t two)
    | none =>
      match imageRun t b step slot one s with
      | (some e, s1) => (some e.1, s1)
      | (none, s1) =>
        match imageRun t b step slot two s1 with
        | (some e, s2) => (some e.1, s2)
        | (none, s2) => (none, s2)

/-- Entries in order, each followed by its signal; the first that fails, with its fault. -/
def driveEntries (t b : Nat) (step : Word) (slot : Nat) (ctr : Option Nat) : List (Nat × List Word × List Word) → State →
    Option (Nat × Nat) × State
  | [], s => (none, s)
  | (e, one, two) :: rest, s =>
    match driveEntry t b step slot one two s with
    | (some c, s1) => (some (c, e), s1)
    | (none, s1) => driveEntries t b step slot ctr rest (sendSignal s1 ctr)

/-- The header of the argument block is well formed (R328). -/
def driveHeader (w0 w1 : Word) : Bool :=
  decide (1 ≤ w0.toNat ∧ w0.toNat ≤ 64) && field w1 13 51 == 0 && (bit w1 12 || field w1 0 12 == 0)

/-- TACK_FAILED. -/
def endFailed (s : State) (r : TackRun) : State := endBad s r 0x42 0x42

/-- The entries of an argument block. -/
def driveList (n : Nat) (bs : Bytes) : List (Nat × List Word × List Word) :=
  (List.range n).map fun e =>
    let x := bs.drop (16 + 256 * e)
    (e, wordsOfDesc (x.take 128), wordsOfDesc ((x.drop 128).take 128))

/-- A descriptor of the die stirrup occupies the latigo or the cinch (R295). -/
def solverBusy (s : State) (t : Nat) : Bool :=
  (s.stir t).flight.any fun f : InFlight => [0x30, 0x31, 0x32].contains (dOpcode f.words)

/-- CINCH_DRIVE (R328): the whole list runs, once no ring descriptor occupies the units (R295). -/
def execCinchDrive (d : Fin 4) (s : State) : Out :=
  let t := 300 + d.val
  match startedRun s d.val rtCinchDrive with
  | none => disabled "CINCH_DRIVE"
  | some r =>
    let b := match runFlight s r with
      | some f => f.bank
      | none => 0
    if ¬ s.m.gateOpen ∨ solverBusy s t ∨ argsLocked s r 16 then disabled "CINCH_DRIVE"
    else if (inlineBad (runWords s r) 0).isSome then .next (endFailed s r)
    else match readArgs s r 16 with
      | none => .next (endFailed s r)
      | some (.error e, s1) => .next (endMem s1 r e)
      | some (.ok h, s1) =>
        let w0 := wordAt h 0
        let w1 := wordAt h 8
        if ¬ driveHeader w0 w1 then .next (endFailed s1 r)
        else if argsLocked s1 r (16 + 256 * w0.toNat) then disabled "CINCH_DRIVE"
        else match readArgs s1 r (16 + 256 * w0.toNat) with
          | none => .next (endFailed s1 r)
          | some (.error e, s2) => .next (endMem s2 r e)
          | some (.ok bs, s2) =>
            let xs := driveList w0.toNat bs
            if xs.any fun x => areasLocked s2 (imageAreas s2 x.2.1 ++ imageAreas s2 x.2.2) then disabled "CINCH_DRIVE"
            else match driveEntries t b r.step r.slot (if bit w1 12 then some (field w1 0 12) else none) xs s2 with
              | (some (c, e), s3) => .next (endBad s3 r c (place 8 8 e ||| place 0 8 c))
              | (none, s3) => .next (endGood s3 r 0)

end Sys2Proof.Machine
end

