-- ==== Sys2Proof/Machine/Egress.lean ====
section
/-! DEFINITION. Egress sub-streams: destinations, credit, packets, and a stream's end or failure (R470, R471). -/

namespace Sys2Proof.Machine

/-- LIMIT − ACKED stays within 16 MiB (R470). -/
def creditMax : Nat := 16777216

/-- Make the session of a port an egress destination with an initial LIMIT, or no destination. -/
def setDestination (s : State) (a : Fin 2) (limit : Option (BitVec 25)) : State :=
  match s.session a with
  | some x => s.setSession a (some { x with egress := limit })
  | none => s

/-- EGRESS_OPEN (R470). -/
def execEgressOpen (q : Req) (limit : BitVec 25) (s : State) : Out :=
  omcp "EGRESS_OPEN" (.egressOpen q limit) s q 0x32 (decide (limit.toNat ≤ creditMax)) [] fun s => { st := setDestination s q.port (some limit), status := stOk }

/-- EGRESS_CLOSE (R470). -/
def execEgressClose (q : Req) (s : State) : Out :=
  omcp "EGRESS_CLOSE" (.egressClose q) s q 0x34 true [] fun s => { st := setDestination s q.port none, status := stOk }

/-- A stream has ended: its producer's command is done (R539, R209); a checkpoint's routine ended with its trailer. -/
def finishStream (s : State) (e : Egress) : State :=
  match e.producer with
  | .attest n | .snapshot n => finishTicket (dropStream s e.num) n stOk (BitVec.setWidth 64 e.num)
  | .checkpoint _ => dropStream s e.num

/-- What a credit does to a sub-stream of n bytes: ACKED never moves back (DESIGN CHOICE, log entry 38), and RESEND sends again from it. -/
def creditSub (x : SubStream) (n : Nat) (acked limit : Word) (resend : Bool) : SubStream :=
  let a := if x.acked ≤ acked.toNat ∧ acked.toNat ≤ n then acked.toNat else x.acked
  { x with acked := a, limit := limit.toNat, sent := if resend then a else max x.sent a, last := x.last && !(resend && a != n) }

/-- The effect of a credit on a stream. -/
def creditStream (s : State) (e : Egress) (i : Nat) (x : SubStream) (acked limit : Word) (resend : Bool) : State :=
  let y := creditSub x (subTotal e i) acked limit resend
  let e1 := { e with subs := e.subs.set i y, advanced := if x.acked < y.acked then s.time else e.advanced }
  if streamDone e1 then finishStream (s.setStream e.num e1) e1 else s.setStream e.num e1

/-- EGRESS_CREDIT (R470). One that names no sub-stream of its port is MALFORMED (DESIGN CHOICE, log entry 38). -/
def execEgressCredit (q : Req) (stream : BitVec 32) (sub : Fin 2) (acked limit : Word) (resend : Bool) (s : State) : Out :=
  omcp "EGRESS_CREDIT" (.egressCredit q stream sub acked limit resend) s q 0x33 (decide ((limit - acked).toNat ≤ creditMax)) [] fun s =>
    match s.stream stream with
    | none => { st := s, status := stMalformed }
    | some e =>
      match e.subs[sub.val]? with
      | none => { st := s, status := stMalformed }
      | some x =>
        if x.port ≠ q.port then { st := s, status := stMalformed }
        else { st := s, status := stOk, after := fun s => creditStream s e sub.val x acked limit resend }

/-- EGRESS_SEND (R471): the next packet of a sub-stream, within its credit. -/
def execEgressSend (stream : BitVec 32) (sub : Fin 2) (s : State) : Out :=
  match s.stream stream with
  | none => disabled "EGRESS_SEND"
  | some e =>
    match e.subs[sub.val]? with
    | none => disabled "EGRESS_SEND"
    | some x =>
      match s.session x.port with
      | none => disabled "EGRESS_SEND"
      | some z =>
        let n := nextLen e sub.val x
        let last := isLast e sub.val (x.sent + n)
        if z.egress.isNone ∨ x.last ∨ (n = 0 ∧ ¬ last) ∨ ¬ linkUp s x.port then disabled "EGRESS_SEND"
        else
          let off := subOffset e sub.val x.sent
          let pkt := egressPacket s z e off ((e.data.drop off).take n) last
          let e1 := { e with subs := e.subs.set sub.val { x with sent := x.sent + n, last := last } }
          let s1 := (s.setStream e.num e1).sendOmcp x.port z.peer pkt
          .next (if streamDone e1 then finishStream s1 e1 else s1)

/-- The producer of a stream that has failed responds (R397, R471, R539). -/
def failStream (s : State) (e : Egress) : State :=
  let s1 := dropStream s e.num
  match e.producer with
  | .attest n | .snapshot n => finishTicket s1 n stEgressFailed 0
  | .checkpoint step =>
    match s1.d.tack.find? fun r : TackRun => r.step == step && (match r.phase with | .checkpoint n _ => n == e.num | _ => false) with
    | some r => abortCheckpoint s1 r e.num
    | none => s1

/-- The sub-stream that stalled: the first with bytes not acknowledged. -/
def stalledSub (e : Egress) : Nat × SubStream :=
  ((e.subs.zipIdx.find? fun x : SubStream × Nat => x.1.acked != subTotal e x.2).map fun x => (x.2, x.1)).getD (0, e.subs.headD ⟨0, 0, 0, 0, false⟩)

/-- EGRESS_FAILED (R471): EGRESS_TIMEOUT passes without ACKED advancing. -/
def execEgressFailed (stream : BitVec 32) (s : State) : Out :=
  match s.stream stream with
  | none => disabled "EGRESS_FAILED"
  | some e =>
    let s1 := s.atTime (e.advanced + BitVec.ofNat 64 (msNs (s.fld .omcCtrl 0 0 16 16)))
    let x := (stalledSub e).2
    .next (failStream (logModule s1 0x0601 (srcHost x.port.val) (BitVec.setWidth 64 e.num) (BitVec.ofNat 64 x.acked) 0) e)

end Sys2Proof.Machine
end

