-- ==== Sys2Proof/Machine/Ethernet.lean ====
section
/-! DEFINITION. The host Ethernet ports: link changes (R451), discarded frames (R452) and the neighbour protocols
(R453). -/

namespace Sys2Proof.Machine

/-! What a sent datagram carries beside its packet. -/

/-- Bytes of a value, most significant first: the order of the Internet protocols. -/
def netBytes (n v : Nat) : Bytes := (leBytes n v).reverse

/-- The one's complement sum of 16-bit words. -/
def onesSum (bs : Bytes) : Nat :=
  let sum := (List.range ((bs.length + 1) / 2)).foldl (fun a i => a + 256 * (bs.getD (2 * i) 0).toNat + (bs.getD (2 * i + 1) 0).toNat) 0
  sum % 65536 + sum / 65536

/-- The pseudo-header that a UDP checksum covers (RFC 768, RFC 8200). -/
def pseudoHeader (d : NetAddr) (len : Nat) : Bytes :=
  match d.form with
  | .udp4 => netBytes 4 d.own.toNat ++ netBytes 4 d.ip.toNat ++ [0, 17] ++ netBytes 2 len
  | _ => netBytes 16 d.own.toNat ++ netBytes 16 d.ip.toNat ++ netBytes 4 len ++ [0, 0, 0, 17]

/-- The UDP datagram of an OMCP packet that the module sends, with its checksum (R454). -/
def datagram (d : NetAddr) (k : OmcpPacket) : Bytes :=
  let body := packetBytes k
  let len := 8 + body.length
  let ports := netBytes 2 d.service.toNat ++ netBytes 2 d.udp.toNat ++ netBytes 2 len
  let sum := onesSum (pseudoHeader d len ++ ports ++ [0, 0] ++ body)
  let c := 65535 - (sum % 65536 + sum / 65536)
  ports ++ netBytes 2 (if c = 0 then 65535 else c) ++ body

/-- Auto-negotiation completes: SPEED and LINK of ETH_PORT_STAT, and duplicate address detection of the link-local
address once (R451, R453). -/
def execEthLinkUp (a : Fin 2) (fast : Bool) (s : State) : Out :=
  if s.domainOn (77 + a.val) ∧ ¬ linkUp s a then
    let s1 := s.setFld .ethPortStat a.val 0 0 3 (if fast then 0b101 else 0b011)
    .next (s1.send (.addressProbe a (linkLocal (s.reg .ethMac a.val 0).toNat)))
  else disabled "ETH_LINK_UP"

/-- The link goes down: session, buckle lease and egress streams stay (R451). -/
def execEthLinkDown (a : Fin 2) (s : State) : Out :=
  if linkUp s a then .next (s.setFld .ethPortStat a.val 0 0 3 0) else disabled "ETH_LINK_DOWN"

/-- A frame that R452 discards is counted in RX_OTHER. A datagram whose UDP checksum fails (R454) is discarded; R452 does not list
it, so it is not counted (DESIGN CHOICE, log entry 70). -/
def execEthFrameDiscard (a : Fin 2) (tags : List (BitVec 12)) (odd : FrameOddity) (s : State) : Out :=
  if linkUp s a ∧ (¬ tagsAccepted s a tags ∨ odd ≠ .plain) then
    let s1 := packetIn s a
    .next (if tagsAccepted s a tags ∧ odd = .badChecksum then s1 else s1.countHold .ethCnt a.val 0 0 32 1)
  else disabled "ETH_FRAME_DISCARD"

/-- The port answers an ARP request for its IPv4 address; one for another address gets no answer (R453). -/
def execArpRequest (a : Fin 2) (target : BitVec 32) (peer : NetAddr) (s : State) : Out :=
  if portTakes s a peer then
    let s1 := packetIn s a
    .next (if ip4Addr s1 a = some target then s1.send (.arpReply a peer target) else s1)
  else disabled "ARP_REQUEST"

/-- The port answers a Neighbor Solicitation for one of its IPv6 addresses (R453). -/
def execNeighborSolicitation (a : Fin 2) (target : BitVec 128) (peer : NetAddr) (s : State) : Out :=
  if portTakes s a peer then
    let s1 := packetIn s a
    .next (if target ∈ ip6Addrs s1 a then s1.send (.neighborAdvert a peer target) else s1)
  else disabled "NEIGHBOR_SOLICITATION"

/-- The port answers an echo request, at most 100 in each second of module time (R453); a frame above the MAC's limit is not
received (R450). -/
def execEchoRequest (a : Fin 2) (target : BitVec 128) (data : Bytes) (peer : NetAddr) (s : State) : Out :=
  if portTakes s a peer then
    if ¬ frameFits peer (8 + data.length) then .next s
    else
      let s1 := packetIn s a
      let sec := BitVec.ofNat 64 (s1.time.toNat / 1000000000)
      let x := s1.h.port a
      let n := if x.echoSecond = sec then x.echoes else 0
      if ownAddress s1 a peer target ∧ n < 100 then
        .next ({ s1 with h := s1.h.setPort a { x with echoes := n + 1, echoSecond := sec } }.send
          (.echoReply a peer (ipv4Fragment peer) data))
      else .next s1
  else disabled "ECHO_REQUEST"

end Sys2Proof.Machine
end

