-- ==== Sys2Proof/Machine/Port.lean ====
section
/-! DEFINITION. The link ports' rows (R410 to R418): lanes and sparing, training, IDENT and STAMP_UPDATE, blocks and
credits. -/

namespace Sys2Proof.Machine

/-! Going down. -/

/-- A frame that port p was receiving when it went DOWN (R411): discarded and counted; one that was already leaving on another link
is completed there with zero bytes. Only a port in UP, or in a fast retrain from it, forwards (Table 11-2); a frame before it that waits
for the same link and VC holds it (R423, R424). -/
def cutFrame (s : State) (p : Nat) (f : Frame) : State :=
  let s1 := countDropped s 1
  let x := s.port p
  let passing := x.st = .up ∨ (x.st = .train ∧ x.fast)
  let whole := { f with payload := f.payload ++ List.replicate (64 * f.len - f.payload.length) 0 }
  match passOf s p f with
  | .go o vc =>
    if passing ∧ f.type ≠ 4 ∧ f.type ≠ 0 ∧ ¬ wayTaken s p x.transit f then frameStep (putOnLine s1 o ⟨vc, whole, none⟩) o f else s1
  | _ => s1

/-- A port enters DOWN with a reason while it receives some frames, each with the bytes it has of it (R411): what waits in it has no
way out. -/
def portLost (s : State) (p reason : Nat) (rx : List Frame) : State :=
  failWaiting (portDown (rx.foldl (fun s f => cutFrame s p f) s) p reason) p

/-! Sparing. -/

/-- Spares of the port usable at both ends (R409, R410): (slot, spare of the die). -/
def usableSpares (s : State) (p : Nat) : List (Nat × Nat) :=
  let peer := match (s.port p).ident with
    | some (w, _) => field w 22 2
    | none => 0
  ((assignedSpares s p).take peer).zipIdx.map fun x : Nat × Nat => (x.2, x.1)

/-- Those that are free: not in use, not out of use, and not the object of the switch under way (R418). -/
def freeSpares (s : State) (p : Nat) : List (Nat × Nat) :=
  let x := s.port p
  (usableSpares s p).filter fun y : Nat × Nat =>
    !x.lanes.contains (8 + y.2) && !x.dead.contains (8 + y.2) && x.sparing.map Sparing.slot != some y.1

/-- The first of them that no lane waiting for its switch needs. -/
def freeSpare (s : State) (p : Nat) : Option (Nat × Nat) := (freeSpares s p)[(s.port p).again.length]?

/-- Logical lane i moves onto a spare of the die (R410, R418); the old lane stays out of use, and a spare among them is no longer IN_USE
(Table 11-23). -/
def spareLane (s : State) (p lane spare : Nat) : State :=
  let x := s.port p
  let old := x.lanes.getD lane lane
  let s1 := s.setPort p { x with lanes := x.lanes.set lane (8 + spare), dead := old :: x.dead }
  let s0 := if 8 ≤ old then s1.setFld .aflSpareMap (p / 6) 0 (8 * (old - 8) + 6) 1 0 else s1
  let s2 := ((s0.bump 6 1).countHold .aflPortErr p 0 40 8 1).setFld .aflSpareMap (p / 6) 0 (8 * spare + 6) 1 1
  logModule s2 0x0503 (srcLink p) (place 8 4 spare ||| place 4 4 old ||| place 0 3 lane) 0 0

/-- A lane fails for which there is no spare (R410): a fast retrain, or DOWN when the same lane failed less than 1 s ago. -/
def laneLost (s : State) (p lane : Nat) (rx : List Frame) : State :=
  let x := s.port p
  let again := match sget none x.failed lane with
    | some t => decide (s.time.toNat < (t : Word).toNat + 1000000000)
    | none => false
  if again then portLost s p 3 rx else fastRetrain (s.setPort p { x with failed := sset none x.failed lane (some s.time) }) p

/-- A lane's failure is already being dealt with: it is the object of the switch under way, or waits for its own. -/
def laneWaits (x : LinkPort) (lane : Nat) : Bool := x.sparing.map Sparing.lane == some lane || x.again.contains lane

/-- LANE_FAILURE (R410), with the frames that the port is receiving (R411). -/
def execLaneFailure (p : Fin 12) (l : LostLane) (s : State) : Out :=
  let x := s.port p.val
  if x.st ≠ .up then disabled "LANE_FAILURE"
  else if laneWaits x l.lane.val then .next s
  else match freeSpare s p.val with
    | some (slot, spare) =>
      if x.version.toNat < 2 then .next (fastRetrain (spareLane s p.val l.lane.val spare) p.val)
      else match x.sparing with
        | none => .next (s.setPort p.val { x with sparing := some ⟨l.lane.val, slot, true, false⟩ })
        | some _ => .next (s.setPort p.val { x with again := x.again ++ [l.lane.val] })
    | none => .next (laneLost s p.val l.lane.val l.rx)

/-- With a switch done, the first lane that waits asks for the first free spare; with none left, the lanes are without one (R410). Where the
port goes DOWN with that, it cuts the frames `rx` that it is receiving (R411). -/
def nextSparing (s : State) (p : Nat) (rx : List Frame) : State :=
  let x := s.port p
  let s0 := s.setPort p { x with sparing := none, again := [] }
  match x.again with
  | [] => s0
  | lane :: rest =>
    match freeSpare s0 p with
    | some w => s0.setPort p { s0.port p with sparing := some ⟨lane, w.1, true, false⟩, again := rest }
    | none => (lane :: rest).foldl (fun s k => if (s.port p).st = .down then s else laneLost s p k rx) s0

/-- HITLESS_SPARE_SWITCH (R418): at a block whose BSEQ is a multiple of 64, once GRANT has passed. A request that was
dropped, or came meanwhile, is then sent. The row brings the frames that the port is receiving, as LANE_FAILURE does (R410, R411). -/
def execHitlessSpareSwitch (l : LostSignal) (s : State) : Out :=
  let p := l.port
  let x := s.port p.val
  match x.st, x.sparing with
  | .up, some y =>
    if y.granted ∧ x.nextSeq.toNat % 64 = 0 then
      match (usableSpares s p.val).find? fun z : Nat × Nat => z.1 == y.slot with
      | none => .next (s.setPort p.val { x with sparing := none })
      | some z => .next (nextSparing (spareLane s p.val y.lane z.2) p.val l.rx)
    else disabled "HITLESS_SPARE_SWITCH"
  | _, _ => disabled "HITLESS_SPARE_SWITCH"

/-! Training. -/

/-- LOSS_OF_SIGNAL (R411), with the frames that the port is receiving. -/
def execLossOfSignal (l : LostSignal) (s : State) : Out :=
  match (s.port l.port.val).st with
  | .ident | .up | .held => .next (portLost s l.port.val 2 l.rx)
  | _ => disabled "LOSS_OF_SIGNAL"

/-- Blocks that are not acknowledged are sent again, each with the frame it carries and a control word of now (R415, R416), and
counted (Table 11-24). -/
def resend (s : State) (p : Nat) : State :=
  let bs := (s.port p).replay
  bs.foldl (fun s b => sendOut s p b) ((s.bump 7 bs.length).countHold .aflPortErr p 0 8 32 bs.length)

/-- PORT_TRAINED (R411): back to UP after a fast retrain, at the first block not acknowledged; else to IDENT. -/
def execPortTrained (p : Fin 12) (s : State) : Out :=
  let x := s.port p.val
  match x.st with
  | .train =>
    if x.fast then .next (resend (s.setPort p.val { x with st := .up, fast := false }) p.val)
    else .next (s.setPort p.val { x with st := .ident })
  | _ => disabled "PORT_TRAINED"

/-- TRAINING_TIMEOUT (R411): 100 ms without training, with the frames that the port was receiving when its fast retrain began; full
training starts with empty link state. -/
def execTrainingTimeout (l : LostSignal) (s : State) : Out :=
  let x := s.port l.port.val
  if x.st ≠ .train ∨ (¬ x.fast ∧ l.rx ≠ []) then disabled "TRAINING_TIMEOUT"
  else .next (portLost (s.atTime (x.since + 100000000)) l.port.val 1 l.rx)

/-- PORT_RETRY_EXPIRY (R411): RETRY has elapsed. -/
def execPortRetryExpiry (p : Fin 12) (s : State) : Out :=
  let x := s.port p.val
  match x.st with
  | .down => .next (startTraining (s.atTime (x.since + BitVec.ofNat 64 (s.fld .aflCtrl 0 0 20 8 * 10000000))) p.val)
  | _ => disabled "PORT_RETRY_EXPIRY"

/-! IDENT and STAMP_UPDATE. -/

/-- IDENT_SEND (Table 11-3 order 3). -/
def execIdentSend (p : Fin 12) (s : State) : Out :=
  let x := s.port p.val
  match x.st with
  | .ident | .held => .next (sendCtrl s p.val 1 x.accepted)
  | _ => disabled "IDENT_SEND"

/-- A port that carries blocks. -/
def carriesBlocks (x : LinkPort) : Bool := x.st == .ident || x.st == .up || x.st == .held

/-- An IDENT that passed every check of its own (R412, R413, Table 11-3 orders 4 to 6). -/
def takeIdent (s : State) (p : Nat) (w0 stamp : Word) : State :=
  let x := s.port p
  let s1 := s.setPort p { x with ident := some (w0, stamp) }
  match x.st with
  | .up =>
    if ¬ neighbourFits s p w0 then holdPort s1 p 2 w0
    else if (agreeVersion s w0).isNone then holdPort s1 p 1 w0
    else recordNeighbour s1 p w0 stamp
  | .ident =>
    if ¬ neighbourFits s p w0 then holdPort s1 p 2 w0
    else match agreeVersion s w0 with
      | none => holdPort s1 p 1 w0
      | some v =>
        let s2 := recordNeighbour s1 p w0 stamp
        let s3 := sendCtrl (s2.setPort p { s2.port p with accepted := true }) p 1 true
        if bit w0 21 then portUp s3 p v w0 else s3
  | _ => s1

/-- IDENT_RECEIVED (R412): and any CTRL frame of a reserved KIND. A frame of a block that is discarded under NAK has no effect (R416). -/
def execIdentReceived (p : Fin 12) (f : Frame) (s : State) : Out :=
  if ¬ carriesBlocks (s.port p.val) ∨ f.type ≠ 4 ∨ f.kind = 2 then disabled "IDENT_RECEIVED"
  else if (s.port p.val).nak then .next s
  else
    let (fine, s1) := ctrlChecks (returnCredit s p.val f) p.val f
    let stamp := wordAt f.payload 8
    let inv := wordAt f.payload 16
    if ¬ fine then .next s1
    else if f.kind ≠ 1 ∨ ¬ ctrlPayloadFits f then .next (countDropped s1 1)
    else if ¬ complOk stamp inv then .next (logComplement s1 (srcLink p.val) 8 stamp inv)
    else .next (takeIdent s1 p.val (wordAt f.payload 0) stamp)

/-- STAMP_UPDATE_RECEIVED (R414). One whose MEMBER and PORT the neighbour table does not accept holds the port, as an IDENT does (DEDUCED
from R412, DEDUCED, log entry 69). -/
def execStampUpdateReceived (p : Fin 12) (f : Frame) (s : State) : Out :=
  let x := s.port p.val
  if ¬ carriesBlocks x ∨ f.type ≠ 4 ∨ f.kind ≠ 2 then disabled "STAMP_UPDATE_RECEIVED"
  else if x.nak then .next s
  else
    let s0 := returnCredit s p.val f
    if x.st ≠ .up then .next (countDropped s0 1)
    else
      let (fine, s1) := ctrlChecks s0 p.val f
      let stamp := wordAt f.payload 8
      let inv := wordAt f.payload 16
      if ¬ fine then .next s1
      else if ¬ ctrlPayloadFits f then .next (countDropped s1 1)
      else if ¬ complOk stamp inv then .next (logComplement s1 (srcLink p.val) 8 stamp inv)
      else
        let w0 := wordAt f.payload 0
        let s2 := s1.setPort p.val { s1.port p.val with ident := some (w0, stamp) }
        if ¬ neighbourFits s2 p.val w0 then .next (holdPort s2 p.val 2 w0) else .next (recordNeighbour s2 p.val w0 stamp)

/-! Blocks (R415 to R418). -/

/-- A block without a frame is sent while the port carries blocks, unless 64 are unacknowledged. -/
def sendBlock (s : State) (p : Nat) : State :=
  let x := s.port p
  if 64 ≤ x.replay.length ∨ ¬ carriesBlocks x then s
  else sendOut (s.setPort p { x with nextSeq := x.nextSeq + 1, replay := x.replay ++ [(x.nextSeq, none)] }) p (x.nextSeq, none)

/-- A frame of the collective, or of the mirror copy, waits to leave the port on a VC. -/
def waitsOn (x : LinkPort) (vc : Nat) (c : Coll) : Bool :=
  x.queue.any fun t : TxFrame => t.vc == vc && t.frame.coll == c.id && t.frame.w1 == c.step && decide (1 ≤ t.frame.type ∧ t.frame.type ≤ 3)

/-- Credit of a VC has advanced (R417, R438, R442): timers restart. -/
def creditAdvance (s : State) (p vc : Nat) : State :=
  let x := s.port p
  let colls := s.f.colls.map fun c : Coll => if waitsOn x vc c then { c with timer := s.time } else c
  let copy := s.f.copy.map fun m : MirrorCopy =>
    match m.source, routeEntry s.c.route 12 m.peer with
    | true, some (o, v) => if o = p ∧ v = vc then { m with timer := s.time } else m
    | _, _ => m
  { s with f := { s.f with colls := colls, copy := copy } }

/-- SPARE of a control word (R418). -/
def takeSpare (s : State) (p code lane slot : Nat) : State :=
  let x := s.port p
  let peer := field (s.reg .aflNeighId p 0) 0 12
  let theirs : Sparing := ⟨lane, slot, false, true⟩
  if x.version.toNat < 2 then s
  else if code = 1 then
    match x.sparing with
    | none => s.setPort p { x with sparing := some theirs }
    | some y =>
      if ¬ y.asked ∨ y.granted then s
      else if s.memberId < peer then s
      else s.setPort p { x with sparing := some theirs, again := (if lane = y.lane then x.again else y.lane :: x.again).filter (· ≠ lane) }
  else if code = 2 then
    match x.sparing with
    | some y => if y.asked then s.setPort p { x with sparing := some { y with granted := true } } else s
    | none => s
  else s

/-- NAK (R416): everything after ACK is sent again and counted; the eighth in succession for one BSEQ retrains. -/
def takeNak (s : State) (p : Nat) (ack : BitVec 16) : State :=
  let x := s.port p
  let k := match x.naks with
    | some (b, n) => if b = ack + 1 then n + 1 else 1
    | none => 1
  let s1 := resend (s.setPort p { x with naks := some (ack + 1, k) }) p
  if 8 ≤ k ∧ x.st = .up then fastRetrain (s1.setPort p { s1.port p with naks := none }) p else s1

/-- The control word of a good block. -/
def takeControl (s : State) (p : Nat) (ctl : BitVec 80) : State :=
  let w : Word := BitVec.setWidth 64 ctl
  let ack := BitVec.ofNat 16 (field w 48 16)
  let x := s.port p
  let left := x.replay.filter fun b : BitVec 16 × Option TxFrame => decide (2 ^ 15 ≤ (ack - b.1).toNat)
  let cvc := field w 44 2
  let credit := BitVec.ofNat 16 (field w 28 16)
  let moved := x.peerFreed.getD cvc 0 ≠ credit
  let x1 := { x with replay := left, reinedRx := bit w 46 && x.version ≠ 1, peerFreed := x.peerFreed.set cvc credit,
                     naks := if bit w 47 then x.naks else none }
  let s1 := s.setPort p x1
  let s2 := if moved then creditAdvance s1 p cvc else s1
  let s3 := takeSpare s2 p (field w 24 4) (field w 21 3) (field w 20 1)
  if bit w 47 then takeNak s3 p ack else s3

/-- LINK_BLOCK_RECEIVED (R415, R416): a bad block, and every block after it until the one due, is discarded under NAK; the
control word of a good block is used. Each block received is answered by one sent (DESIGN CHOICE, log entry 17). -/
def execLinkBlockReceived (p : Fin 12) (good : Bool) (ctl : BitVec 80) (s : State) : Out :=
  let x := s.port p.val
  if ¬ carriesBlocks x then disabled "LINK_BLOCK_RECEIVED"
  else if ¬ good then .next (sendBlock (s.setPort p.val { x with nak := true }) p.val)
  else
    let seq : BitVec 16 := BitVec.ofNat 16 (ctl.toNat / 2 ^ 64)
    let due := seq = x.rxSeq + 1
    let x1 := if due then { x with rxSeq := seq, nak := false } else x
    .next (sendBlock (takeControl (s.setPort p.val x1) p.val ctl) p.val)

end Sys2Proof.Machine
end

