-- ==== Sys2Proof/Machine/Recover.lean ====
section
/-! DEFINITION. Replay, restore and takeover (R388 to R401). -/

namespace Sys2Proof.Machine

/-! Replay (R388 to R390). -/

/-- REPLAY_STEP (R200, Table 5-17): the head of a die stirrup is a TACK_CALL that names the host-only routine; it issues as
any head does, and faults. -/
def execReplayStep (d : Fin 4) (s : State) : Out :=
  match headCheck s (300 + d.val) with
  | .pass f =>
    if (s.stir (300 + d.val)).st = .run ∧ dOpcode f.words = 0x40 ∧ dRoutine f.words = rtReplayStep then
      .next (faultHead s (300 + d.val) ⟨f.slot, 0x40, dKgen f.words, s.stepOf (300 + d.val), 0⟩ 0x4A 0 .plain)
    else disabled "REPLAY_STEP"
  | _ => disabled "REPLAY_STEP"

/-- What a replay lets stand in flight (Table 10-6). -/
def mayWithdraw (s : State) (t : Nat) (f : InFlight) : Bool := dOpcode f.words == 0x01 || waitsFabric s t f

/-- A stirrup is in RUN, or has work in flight that no replay withdraws. -/
def busyForReplay (s : State) : Bool :=
  s.d.stirrups.any fun z : Nat × Stirrup => z.2.st == .run || z.2.flight.any fun f : InFlight => !mayWithdraw s z.1 f

/-- The member's values by which a replay is judged. -/
def replayValues : List RegKind := [.brcLastReleased, .updFront, .cfgRole]

/-- Table 10-6, rows 2 to 5, after R483. A value of the member that differs from its complement is not used (R29; DESIGN CHOICE, log
entry 65). -/
def replayRefusal (s : State) (step : Word) : Option Nat :=
  if (List.range 304).any fun t => groupAway s t then some stState
  else if (firstUnheld s replayValues).isSome then some stBrcComplement
  else if busyForReplay s then some stNotQuiescent
  else if lastReleased s ≠ step - 1 then some stReplayStepInvalid
  else if 0 < stepDiff (s.reg .updFront 0 0) (step - 1) then some stReplayNotClean
  else if s.role = 0xFFF then some stBrcNoRole
  else none

/-- Orders 1 to 3 and 6 of R389 at one stirrup; one whose domain is not ON stays OFF. -/
def rewind (step : Word) (s : State) (t : Nat) : State :=
  let s1 := clearPhases ((cancelRunAhead s t).setPair .dspStep .dspStepInv t step) t
  s1.setStir t { st := if s1.domainOn (stirrupDomain t) then .run else .off, bank := (s1.stir t).bank }

/-- The target of counter c at the start of a step (R389 order 4). -/
def startCount (s : State) (c : Nat) (step : Word) : Nat := (s.fld .dspCtrCfg c 0 0 24 * (step - startStep s).toNat) % 2 ^ 24

/-- R389, in order. -/
def startReplay (s : State) (step : Word) : State :=
  let s1 := closeFabric ((List.range 304).foldl (rewind step) s)
  let s2 := dropVerdicts { s1 with d := { s1.d with tack := [], signals := [], quiescent := false } } step
  (List.range 4096).foldl (fun s c => setCtr s c (startCount s c step)) s2

/-- The stop point of a dry replay of a step, where no earlier one stands within the step (R390). -/
def armDryStop (step : Word) (s : State) (t : Nat) : State :=
  if bit (s.reg .dspStopSlot t 0) 31 ∧ s.reg .dspStopStep t 0 = step then s else setStop s t true (step + 1) 0

/-- BRC_REPLAY (R388 to R390). -/
def brcReplay (row : String) (c : Instr) (dry : Bool) (q : Req) (step stepInv : Word) (s : State) : Out :=
  omcp row c s q 0x70 true [] fun s =>
    if ¬ complOk step stepInv then { st := logComplement s (srcHost q.port.val) 5 step stepInv, status := stBrcComplement }
    else match replayRefusal s step with
      | some st => { st := noteHeld s replayValues, status := st }
      | none =>
        acceptTicket s q 0x70 stAccepted fun n s =>
          let s1 := startReplay s step
          let s2 : State := { s1 with a := { s1.a with dry := if dry then some step else none } }
          let s3 := if dry then (List.range 304).foldl (armDryStop step) s2 else s2
          finishTicket s3 n stOk 0

/-- BRC_REPLAY in LIVE mode (R389). -/
def execBrcReplayLive (q : Req) (step stepInv : Word) (s : State) : Out :=
  brcReplay "BRC_REPLAY_LIVE" (.brcReplayLive q step stepInv) false q step stepInv s

/-- BRC_REPLAY in DRY mode (R390). -/
def execBrcReplayDry (q : Req) (step stepInv : Word) (s : State) : Out :=
  brcReplay "BRC_REPLAY_DRY" (.brcReplayDry q step stepInv) true q step stepInv s

/-! Restore (R398 to R401). -/

/-- The pairs of a header and trailer (Tables 10-8, 10-9): offset of the value and its row of Table 1-5. -/
def restorePairs : List (Nat × Nat) :=
  [(8, 5), (24, 6), (40, 8), (56, 7), (72, 7), (88, 4), (104, 4), (4096, 5), (4112, 4), (4128, 4)]

/-- A field that differs from its complement. -/
def badPair (data : Bytes) : Option (Nat × Word × Word) :=
  (restorePairs.find? fun p : Nat × Nat => !complOk (wordAt data p.1) (wordAt data (p.1 + 8))).map
    fun p : Nat × Nat => (p.2, wordAt data p.1, wordAt data (p.1 + 8))

/-- Table 10-10 row 2, but for the complements. -/
def restoreShaped (data : Bytes) : Bool :=
  let last := wordAt data 4152
  bit last 0 && field last 2 62 == 0 && field (wordAt data 0) 48 16 == 1 && field (wordAt data 0) 0 11 == 0
    && ((data.drop 2176).take 1920).all fun b => b == 0

/-- The steps between the role's first position and a checkpoint's, if they are whole (R398 row 4, R399). -/
def restoredSteps (s : State) (pos : Word) : Option Nat :=
  let d := pos.toNat - (s.reg .brcPos0 0 0).toNat
  if nPos s ≠ 0 ∧ (s.reg .brcPos0 0 0).toNat ≤ pos.toNat ∧ d % nPos s = 0 then some (d / nPos s) else none

/-- A stored counter is not the computed one (R400). -/
def realignStream (step : Word) (data : Bytes) (s : State) (i : Nat) : State :=
  let seed := (seedPair s (seedKind i false)).1
  let got := wordAt data (128 + 8 * i)
  let want := streamCounter seed i (step + 1)
  if got = want then s
  else
    let off := ([-4, -3, -2, -1, 1, 2, 3, 4] : List Int).find? fun j => streamCounter seed i (step + 1 + BitVec.ofInt 64 j) == got
    let code := match off with
      | some j => (BitVec.ofInt 8 j).toNat
      | none => 0x7F
    logModule s 0x0404 srcModule (place 8 8 code ||| place 0 8 i) (got - want) 0

/-- The step that slot k holds in the retention window after a released step. -/
def slotStep (s : State) (released : Word) (k : Nat) : Option Word :=
  ((List.range (depth s)).map fun i => released + 1 + BitVec.ofNat 64 i).find? fun x => stepSlot s x == k

/-- LAST_RELEASED and UPD_FRONT become a step; a slot that now belongs to another step has received nothing (R366, R399). -/
def moveWindow (s : State) (step : Word) : State :=
  let old := lastReleased s
  let s1 := (s.setPair .brcLastReleased .brcLastReleasedInv 0 step).setPair .updFront .updFrontInv 0 step
  let got := (List.range 4).foldl (fun g k => if slotStep s old k = slotStep s step k then g else sset [] g k []) s1.a.got
  { s1 with a := { s1.a with got := got } }

/-- What an accepted restore does (R399 to R401, R439); run-ahead is cancelled (R191). -/
def applyRestore (s : State) (data : Bytes) (steps : Nat) : State :=
  let step := startStep s + BitVec.ofNat 64 steps - 1
  let s0 := (List.range 304).foldl cancelRunAhead s
  let s1 := if step = wordAt data 8 then s0 else logModule s0 0x0403 srcModule (wordAt data 8) step 0
  let s2 := (List.range 256).foldl (realignStream step data) (moveWindow s1 step)
  let armed : Option VerifyArm := if bit (wordAt data 4152) 1 then some ⟨step + 1, .of (wordAt data 4112), .of (wordAt data 4128)⟩ else none
  let s3 : State := { s2 with a := { s2.a with verify := armed, verdict := none, older := [] } }
  closeFabric (if armed.isSome then s3 else logModule s3 0x0405 srcModule 0 0 0)

/-- BRC_RESTORE (R398 to R401); while a row of a stack that holds the shard is repaired, it waits (R273, DESIGN CHOICE, log entry 43). A role, first position or seed of the member that differs from its complement is not compared (R29; the
refusals are the model's, DESIGN CHOICE, log entry 65). -/
def execBrcRestore (q : Req) (data : Bytes) (s : State) : Out :=
  omcpWait "BRC_RESTORE" (.brcRestore q data) s q 0x71 (data.length == 4160) [] (fun s => isQuiescent s && shardLocked s false) fun s =>
    if ¬ isQuiescent s then { st := s, status := stNotQuiescent }
    else match badPair data with
      | some (k, v, inv) => { st := logComplement s (srcHost q.port.val) k v inv, status := stRestoreMalformed }
      | none =>
        if ¬ restoreShaped data then { st := s, status := stRestoreMalformed }
        else match heldBad s with
        | some (k, v, inv) =>
          { st := logComplement s srcModule k v inv, status := if k = 6 then stRestorePosInvalid else stRestoreRoleMismatch }
        | none =>
        if field (wordAt data 0) 36 12 ≠ s.role ∨ wordAt data 56 ≠ s.reg .updSeedShared 0 0
            ∨ wordAt data 72 ≠ s.reg .updSeedRole 0 0 then { st := s, status := stRestoreRoleMismatch }
        else match restoredSteps s (wordAt data 24) with
          | none => { st := s, status := stRestorePosInvalid }
          | some n =>
            match shardDigest s false with
            | (.error e, s1) => { st := noteErr s1 .ddma e, status := memStatus e }
            | (.ok none, s1) => { st := s1, status := stMalformed }
            | (.ok (some own), s1) =>
              if own ≠ wordAt data 4144 then { st := s1, status := stRestoreDigest }
              else acceptTicket s1 q 0x71 stAccepted fun t s => finishTicket (applyRestore s data n) t stOk 0

/-! Takeover (R391, R392). -/

/-- A field of BRC_TAKEOVER that differs from its complement, with its row of Table 1-5. -/
def takeoverBad (w : List Word) : Option (Nat × Word × Word) :=
  (([0, 1, 2, 3] : List Nat).find? fun i => !complOk (w.getD (2 * i) 0) (w.getD (2 * i + 1) 0)).map
    fun i => ([2, 6, 7, 7].getD i 2, w.getD (2 * i) 0, w.getD (2 * i + 1) 0)

/-- Every stirrup is quiescent: none can issue, and only work that waits for inputs or for fabric is in flight (R391). -/
def spareQuiet (s : State) : Bool :=
  s.d.stirrups.all fun z : Nat × Stirrup => !canIssue s z.1 && z.2.flight.all fun f : InFlight => mayWithdraw s z.1 f

/-- The four role fields with their complements, the measurement of the change (Table 15-5), and the stamp (R392). -/
def takeRole (s : State) (w : List Word) : State :=
  let v := setField (s.reg .cfgRole 0 0) 0 12 (field (w.getD 0 0) 0 12)
  let s1 := (s.setReg .cfgRole 0 0 v).setReg .cfgRoleInv 0 0 (~~~v &&& 0x1FFFFFFFFF)
  let s2 := (s1.setReg .brcPos0 0 0 (w.getD 2 0)).setReg .brcPos0Inv 0 0 (w.getD 3 0)
  let s3 := (s2.setReg .updSeedRole 0 0 (w.getD 4 0)).setReg .updSeedRoleInv 0 0 (w.getD 5 0)
  let s4 := (s3.setReg .updSeedPartner 0 0 (w.getD 6 0)).setReg .updSeedPartnerInv 0 0 (w.getD 7 0)
  let s5 := (((s4.setInv .cfgRole 0 0 (~~~v)).setInv .brcPos0 0 0 (w.getD 3 0)).setInv .updSeedRole 0 0 (w.getD 5 0)).setInv
    .updSeedPartner 0 0 (w.getD 7 0)
  recomputeStamp (extendConfig s5 (sha384 (wordsBytes [w.getD 0 0, w.getD 2 0, w.getD 4 0, w.getD 6 0])))

/-- BRC_TAKEOVER (R392). A CFG_ROLE that differs from its complement is not used (R29; DESIGN CHOICE, log entry 65). -/
def execBrcTakeover (q : Req) (w : List Word) (s : State) : Out :=
  omcp "BRC_TAKEOVER" (.brcTakeover q w) s q 0x72 (w.length == 8) [] fun s =>
    if ¬ regHeld s .cfgRole then { st := noteHeld s [.cfgRole], status := stBrcComplement }
    else if s.role ≠ 0xFFF then { st := s, status := stNotSpare }
    else match takeoverBad w with
      | some (k, v, inv) => { st := logComplement s (srcHost q.port.val) k v inv, status := stBrcComplement }
      | none =>
        if 4096 ≤ (w.getD 0 0).toNat then { st := s, status := stMalformed }
        else if ¬ spareQuiet s then { st := s, status := stNotQuiescent }
        else acceptTicket s q 0x72 stAccepted fun n s => finishTicket (takeRole s w) n stOk 0

end Sys2Proof.Machine
end

