-- ==== Sys2Proof/Machine/RegView.lean ====
section
/-! DEFINITION. What each register reads as (16), and REG_READ, REG_WRITE, MEM_READ and MEM_WRITE (R469, R543 to R549).
Most registers are stored words; the ones here report state that is held elsewhere. -/

namespace Sys2Proof.Machine

/-! Management (Tables 14-14 to 14-19, 15-10). -/

def viewCfgState (s : State) : Word :=
  placeBit 7 s.m.hwFailed ||| placeBit 6 s.m.commitFailed ||| place 4 2 s.m.lastRung.toNat ||| place 0 4 (modCode s.m.st)

def viewSecStat (s : State) : Word :=
  s.reg .secStat 0 0 ||| placeBit 36 (updatePending s) ||| placeBit 35 (s.slot (inactiveSlot s)).verified
    ||| placeBit 34 (s.m.st == .fwRecovery)

/-- The locks an activity holds, as MNT_LOCK_STAT shows them (Table 14-12). -/
def lockBits : Activity → Word
  | .kernelLoad d b _ _ _ => placeBit (44 + 2 * d.val + b.val) true
  | .routeLoad _ _ => place 32 12 0xFFF
  | .mirrorCopy _ _ _ | .mirrorTake _ => placeBit 52 true
  | .rowRepair n _ _ => placeBit n.val true

def viewLocks (s : State) : Word := s.maint.running.foldl (fun w a => w ||| lockBits a.what) 0
def viewQueue (s : State) : Word := place 8 5 s.maint.running.length ||| place 0 5 s.maint.queued.length

/-! The host side (Tables 12-16, 12-17, 16-10). -/

def viewSession (s : State) (a : Fin 2) : Word :=
  match s.session a with
  | none => 0
  | some x => place 32 32 ((x.high.getD 0).toNat) ||| place 16 16 x.id.toNat ||| placeBit 5 x.egress.isSome ||| placeBit 4 true
      ||| place 0 4 x.ver.toNat

def viewBuckle (s : State) : Word :=
  match s.h.buckle.holder with
  | none => 0
  | some (a, sid) => holderWord a sid ||| placeBit 46 (!s.h.buckle.pins.isEmpty) ||| place 32 8 s.h.buckle.pins.length
      ||| place 0 32 (remainMs s)

/-- HEAD, and OLDEST: the lowest number still held (R553). -/
def viewEvents (s : State) : Word :=
  place 32 32 s.h.logHead.toNat ||| place 0 32 ((s.h.logHead - BitVec.ofNat 32 (heldEntries s)).toNat)

/-! Power domains (Table 13-12). -/

def domCode : DomState → Nat
  | .off => 0 | .rampUp => 1 | .on => 2 | .rampDown => 3

def viewDomain (s : State) (k : Nat) : Word := place 2 2 (s.domain k).waiting.length ||| place 0 2 (domCode (s.domain k).st)

/-! Step assurance, update and links (Tables 9-12, 10-17, 11-20). -/

/-- The inputs of slot k are complete: those of the step that it holds. -/
def slotComplete (s : State) (k : Nat) : Bool :=
  decide (k < depth s) && s.role != 0xFFF && nPos s * fragCount s != 0 && (sget [] s.a.got k).length == nPos s * fragCount s

def viewBrcStat (s : State) : Word :=
  placeBit 7 s.a.verify.isSome ||| (s.reg .brcStat 0 0 &&& 0x40)
    ||| (List.range 4).foldl (fun w k => w ||| placeBit (2 + k) (slotComplete s k)) 0
    ||| placeBit 1 s.a.dry.isSome ||| placeBit 0 (s.role == 0xFFF)

def portCode : PortState → Nat
  | .off => 0 | .train => 1 | .down => 2 | .ident => 3 | .up => 4 | .held => 5

def viewPort (s : State) (p : Nat) : Word :=
  let x := s.port p
  let map := x.lanes.zipIdx.foldl (fun w z => w ||| place (32 + 4 * z.2) 4 z.1) (0 : Word)
  let differ := bit (s.reg .aflNeighId p 0) 24 && s.reg .aflNeighStamp p 0 != s.reg .aflStamp 0 0
  map ||| placeBit 15 x.reinedRx ||| placeBit 14 differ ||| place 12 2 (x.lanes.filter fun l : Nat => 8 ≤ l).length
    ||| (if x.st = .up then place 8 2 x.version.toNat else 0) ||| place 4 3 x.heldReason.toNat ||| place 0 4 (portCode x.st)

/-! Dispatch, kernel store and vector units (Tables 5-27, 6-11). -/

def viewModStat (s : State) : Word := placeBit 1 (haltedAny s) ||| placeBit 0 (s.d.quiescent && isQuiescent s)

def viewBank (s : State) (d b : Nat) : Word :=
  place 24 8 (min 255 (bankUsers s d b)) ||| place 16 2 (bankCode s d b) ||| place 0 16 (s.bank d b).gen.toNat

/-- Where the running or last kernel of a saddle stands. -/
def viewVec (s : State) (n : Nat) : Word :=
  let x : Vec := sget {} s.vec n
  place 48 16 x.ctx.kernel ||| place 31 17 x.trip ||| place 18 13 x.pc ||| placeBit 1 (bit (s.reg .sdlCtrl n 0) 8)
    ||| placeBit 0 x.running

/-! Every register. -/

/-- A register that reads as something else than its stored word; none for the others. -/
def viewState (s : State) (k : RegKind) (i j : Nat) : Option Word :=
  match k with
  | .cfgState => some (viewCfgState s)
  | .cfgLoadStat => some (place 31 33 (stagedLength s))
  | .cfgLoadBytes => some (place 0 33 s.c.received.length)
  | .secStat => some (viewSecStat s)
  | .mntLockStat => some (viewLocks s)
  | .mntQueueStat => some (viewQueue s)
  | .omcBklStat => some (viewBuckle s)
  | .omcSession => some (viewSession s (Fin.ofNat 2 i))
  | .omcEventStat => some (viewEvents s)
  | .pwrDomainStat => some (viewDomain s i)
  | .brcStat => some (viewBrcStat s)
  | .updStreamCtr => some (if s.m.locked then streamReport s i else 0)
  | .aflPortStat => some (viewPort s i)
  | .dspModStat => some (viewModStat s)
  | .dspTime => some s.time
  | .dspPhaseNow => some (s.phaseTime i j)
  | .dspStat => some (dspStat s i)
  | .dspKgen => some (dspKgen s i)
  | .kstBankStat => some (viewBank s i j)
  | .sdlVecStat => some (viewVec s i)
  | .cinStat => some (viewCin s i)
  | _ => none

/-- The saddle of an SDL or BNC register whose group is not ON (R549). -/
def saddleAway (s : State) (a : Nat) : Bool :=
  match saddleOfReg a with
  | some n => !s.domainOn (saddleDomain n)
  | none => false

/-- The present value of the register at an address, or none where the address is not a register (R543, R544, R549). -/
def readReg (s : State) (a : Nat) : Option Word :=
  match (if a % 8 = 0 then regFind a else none) with
  | none => none
  | some (k, i, j) => if saddleAway s a then some 0 else some ((viewState s k i j).getD (s.reg k i j))

/-- n consecutive registers; none where one of them does not exist. -/
def readRegs (s : State) : Nat → Nat → Option (List Word)
  | 0, _ => some []
  | n + 1, a =>
    match readReg s a, readRegs s n (a + 8) with
    | some w, some ws => some (w :: ws)
    | _, _ => none

/-- The addresses lie in the SEC and CFG blocks, all that FW_RECOVERY reads (R534). -/
def recoveryReads (a n : Nat) : Bool := (List.range n).all fun i => decide ((a + 8 * i) / 0x10000 = 1 ∨ (a + 8 * i) / 0x10000 = 2)

/-- REG_READ (R543 to R545). -/
def execRegRead (q : Req) (addr : BitVec 32) (count : BitVec 8) (s : State) : Out :=
  omcp "REG_READ" (.regRead q addr count) s q 0x20 (decide (1 ≤ count.toNat ∧ count.toNat ≤ 128)) [] fun s =>
    if s.m.st = .fwRecovery ∧ ¬ recoveryReads addr.toNat count.toNat then { st := s, status := stState }
    else match readRegs s count.toNat addr.toNat with
      | some ws => { st := s, status := stOk, payload := wordsBytes ws }
      | none => { st := s, status := stRegInvalid }

/-- RETRAIN is written (R411, Table 11-19). -/
def retrain (s : State) (p : Nat) : State :=
  match (s.port p).st with
  | .down | .held => startTraining s p
  | .up => fastRetrain s p
  | _ => s

/-- Write a register field by field (R546, R549): the status, and the state. -/
def writeReg (s : State) (a : Nat) (value : Word) : Nat × State :=
  match (if a % 8 = 0 then regFind a else none) with
  | none => (stRegInvalid, s)
  | some (k, i, j) =>
    if saddleAway s a then (stState, s)
    else
      let (w, refused) := writeWord k s.m.locked (s.reg k i j) value
      let s1 := s.setCfg k i j w
      let s2 := followWrite (if k = .aflPortCtrl ∧ bit value 1 then retrain s1 i else s1) k
      if refused then (stCfgLocked, logModule s2 0x0602 srcModule (BitVec.ofNat 64 a) value 0) else (stOk, s2)

/-- A register write of a host. -/
def regWrite (row : String) (c : Instr) (q : Req) (a : Nat) (value : Word) (s : State) : Out :=
  omcp row c s q 0x21 true [] fun s => let (st, s1) := writeReg s a value; { st := s1, status := st }

/-- REG_WRITE (R546). -/
def execRegWrite (q : Req) (addr : BitVec 32) (value : Word) (s : State) : Out := regWrite "REG_WRITE" (.regWrite q addr value) q addr.toNat value s

/-- AFL_PORT_RETRAIN (R411): a write of AFL_PORT_CTRL[p]. -/
def execAflPortRetrain (q : Req) (p : Fin 12) (value : Word) (s : State) : Out :=
  regWrite "AFL_PORT_RETRAIN" (.aflPortRetrain q p value) q (regAddr .aflPortCtrl p.val 0) value s

/-! HBM (R469). -/

/-- MEM_READ; it waits while a row of a stack it reads is repaired (R273). -/
def execMemRead (q : Req) (addr : BitVec 40) (len : BitVec 14) (s : State) : Out :=
  let fits := decide (addr.toNat % 64 = 0 ∧ len.toNat % 64 = 0 ∧ 64 ≤ len.toNat ∧ len.toNat ≤ 8192)
  omcpWait "MEM_READ" (.memRead q addr len) s q 0x22 fits [] (fun s => hbmLocked s addr.toNat len.toNat) fun s =>
    match memRead s .egress {} addr.toNat len.toNat with
    | (.ok bs, s1) => { st := s1, status := stOk, payload := bs }
    | (.error e, s1) =>
      let at' := if memStatus e = stMemError then wordBytes (place 0 48 (field (errDetail e) 0 48)) else []
      { st := noteErr s1 .egress e, status := memStatus e, payload := at' }

/-- MEM_WRITE: whole lines, or nothing; it waits as MEM_READ does. -/
def execMemWrite (q : Req) (addr : BitVec 40) (data : Bytes) (s : State) : Out :=
  let fits := decide (addr.toNat % 64 = 0 ∧ data.length % 64 = 0 ∧ 64 ≤ data.length ∧ data.length ≤ 8192)
  omcpWait "MEM_WRITE" (.memWrite q addr data) s q 0x23 fits [] (fun s => hbmLocked s addr.toNat data.length) fun s =>
    match memWrite s .ingress {} addr.toNat data with
    | (none, s1) => { st := s1, status := stOk }
    | (some e, s1) => { st := noteErr s1 .ingress e, status := memStatus e }

end Sys2Proof.Machine
end

