-- ==== Sys2Proof/Machine/Release.lean ====
section
/-! DEFINITION. The ends of routing loads and row repairs (R422, R273), with which a mirror copy that waited may begin (R526). -/

namespace Sys2Proof.Machine

/-- ROUTING_LOAD_DONE (R422): every table is replaced at once and the stamp recomputed, or nothing changes. The ports' locks
are given back before the ports send their STAMP_UPDATE. A row repair under way holds up the read of the image (R273). -/
def execRoutingLoadDone (s : State) : Out :=
  match s.maint.running.findSome? fun a : Act =>
      match a.what with
      | .routeLoad x n => some (a, x, n)
      | _ => none with
  | none => disabled "ROUTING_LOAD_DONE"
  | some (a, x, n) =>
    if hbmLocked s x.toNat n.toNat then disabled "ROUTING_LOAD_DONE"
    else match memRead s .fetch {} x.toNat n.toNat with
    | (.error e, s1) => .next (drainCopy (endActivity (noteErr s1 .fetch e) a (memStatus e) 0))
    | (.ok img, s1) =>
      match routeRefusal s1 img with
      | some st => .next (drainCopy (endActivity s1 a st 0))
      | none =>
        let s2 : State := { s1 with maint := { s1.maint with running := s1.maint.running.erase a } }
        let s3 := recomputeStamp (extendConfig (setRoute s2 img) ((img.drop 40).take 32))
        .next (drainCopy (endActivity (recheckPorts s3) a stOk 0))

/-- PPR_DONE (R273): with the lock given back, frames that waited for the stack are processed. -/
def execPprDone (n : Fin 32) (s : State) : Out :=
  match s.maint.running.findSome? fun a : Act =>
      match a.what with
      | .rowRepair k e h => if k = n then some (a, e, h) else none
      | _ => none with
  | none => disabled "PPR_DONE"
  | some (a, e, hard) =>
    let w := s.reg .hbmPprCand n.val e.val
    let l := field w 6 34
    let damaged := damagedLines s n.val (Config.rowOf l)
    let s1 := damaged.foldl rewriteLine s
    let b := availBit s l
    let used := placeBit b true
    let ppr := fun (m : List (Nat × Word)) => sset 0 m n.val (sget 0 m n.val ||| used)
    let s2 : State := { s1 with mem := { s1.mem with
                          pprSoft := if hard then s1.mem.pprSoft else ppr s1.mem.pprSoft
                          pprHard := if hard then ppr s1.mem.pprHard else s1.mem.pprHard } }
    let s3 := (s2.setReg .hbmPprAvail n.val 0 (s2.reg .hbmPprAvail n.val 0 &&& ~~~used)).setReg .hbmPprCand n.val e.val 0
    let s4 := logModule s3 0x0208 (srcStack n.val) (BitVec.ofNat 64 (64 * l)) (placeBit 8 hard ||| place 0 4 e.val) 0
    .next (drain (drainCopy (endActivity s4 a stOk 0)))

end Sys2Proof.Machine
end

