-- ==== Sys2Proof/Machine/Dispatch.lean ====
section
/-! DEFINITION. One arm for each command: a direct call of its meaning. -/

namespace Sys2Proof.Machine

/-- The effect of a command on everything but the queue. -/
def exec (i : Instr) (s : State) : Host.Outcome State Fault Refusal :=
  match i with
  | .inputQualified => Sys2Proof.Machine.execInputQualified s
  | .inputPowerRemoval => Sys2Proof.Machine.execInputPowerRemoval s
  | .fwVerifyDone => Sys2Proof.Machine.execFwVerifyDone s
  | .bootHwTrainingDone stackFail dieFail bridgeFail samples => Sys2Proof.Machine.execBootHwTrainingDone stackFail dieFail bridgeFail samples s
  | .ethLinkUp a fast => Sys2Proof.Machine.execEthLinkUp a fast s
  | .ethLinkDown a => Sys2Proof.Machine.execEthLinkDown a s
  | .ethFrameDiscard a tags odd => Sys2Proof.Machine.execEthFrameDiscard a tags odd s
  | .arpRequest a target peer => Sys2Proof.Machine.execArpRequest a target peer s
  | .neighborSolicitation a target peer => Sys2Proof.Machine.execNeighborSolicitation a target peer s
  | .echoRequest a target data peer => Sys2Proof.Machine.execEchoRequest a target data peer s
  | .omcpPacketReject a pkt peer => Sys2Proof.Machine.execOmcpPacketReject a pkt peer s
  | .hello q verMin verMax nonce => Sys2Proof.Machine.execHello q verMin verMax nonce s
  | .bye q => Sys2Proof.Machine.execBye q s
  | .cmdStatus q ticket => Sys2Proof.Machine.execCmdStatus q ticket s
  | .notifySub q mask => Sys2Proof.Machine.execNotifySub q mask s
  | .bklAcquire q lease => Sys2Proof.Machine.execBklAcquire q lease s
  | .bklRenew q lease => Sys2Proof.Machine.execBklRenew q lease s
  | .bklRelease q => Sys2Proof.Machine.execBklRelease q s
  | .bklQuery q => Sys2Proof.Machine.execBklQuery q s
  | .bklExpired => Sys2Proof.Machine.execBklExpired s
  | .sessionIdleExpiry a => Sys2Proof.Machine.execSessionIdleExpiry a s
  | .regRead q addr count => Sys2Proof.Machine.execRegRead q addr count s
  | .regWrite q addr value => Sys2Proof.Machine.execRegWrite q addr value s
  | .aflPortRetrain q p value => Sys2Proof.Machine.execAflPortRetrain q p value s
  | .memRead q addr len => Sys2Proof.Machine.execMemRead q addr len s
  | .memWrite q addr data => Sys2Proof.Machine.execMemWrite q addr data s
  | .eventRead q first count => Sys2Proof.Machine.execEventRead q first count s
  | .dataPut q step stepInv pos posInv frag data => Sys2Proof.Machine.execDataPut q step stepInv pos posInv frag data s
  | .dataPutMulti q step stepInv entries => Sys2Proof.Machine.execDataPutMulti q step stepInv entries s
  | .egressOpen q limit => Sys2Proof.Machine.execEgressOpen q limit s
  | .egressCredit q stream sub acked limit resend => Sys2Proof.Machine.execEgressCredit q stream sub acked limit resend s
  | .egressClose q => Sys2Proof.Machine.execEgressClose q s
  | .egressSend stream sub => Sys2Proof.Machine.execEgressSend stream sub s
  | .egressFailed stream => Sys2Proof.Machine.execEgressFailed stream s
  | .cfgLoad q offset data => Sys2Proof.Machine.execCfgLoad q offset data s
  | .cfgCommit q => Sys2Proof.Machine.execCfgCommit q s
  | .commitComplete failed => Sys2Proof.Machine.execCommitComplete failed s
  | .fwUpdateWrite q offset data => Sys2Proof.Machine.execFwUpdateWrite q offset data s
  | .fwUpdateCommit q => Sys2Proof.Machine.execFwUpdateCommit q s
  | .fwUpdateAbort q => Sys2Proof.Machine.execFwUpdateAbort q s
  | .attest q nonce => Sys2Proof.Machine.execAttest q nonce s
  | .moduleResetFunction q => Sys2Proof.Machine.execModuleResetFunction q s
  | .functionRungDrainTimeout => Sys2Proof.Machine.execFunctionRungDrainTimeout s
  | .moduleResetModule q => Sys2Proof.Machine.execModuleResetModule q s
  | .moduleResetPower q => Sys2Proof.Machine.execModuleResetPower q s
  | .rungStart => Sys2Proof.Machine.execRungStart s
  | .dspHalt q => Sys2Proof.Machine.execDspHalt q s
  | .haltRequestArrival t => Sys2Proof.Machine.execHaltRequestArrival t s
  | .dspResume q stirrup => Sys2Proof.Machine.execDspResume q stirrup s
  | .dspStopAt q stirrup step slot en => Sys2Proof.Machine.execDspStopAt q stirrup step slot en s
  | .dspSnapshot q classes ranges => Sys2Proof.Machine.execDspSnapshot q classes ranges s
  | .kstLoad q d b gen addr len => Sys2Proof.Machine.execKstLoad q d b gen addr len s
  | .kstLoadDone d b => Sys2Proof.Machine.execKstLoadDone d b s
  | .aflRouteLoad q addr len => Sys2Proof.Machine.execAflRouteLoad q addr len s
  | .brcReplayLive q step stepInv => Sys2Proof.Machine.execBrcReplayLive q step stepInv s
  | .brcReplayDry q step stepInv => Sys2Proof.Machine.execBrcReplayDry q step stepInv s
  | .brcRestore q data => Sys2Proof.Machine.execBrcRestore q data s
  | .brcTakeover q w => Sys2Proof.Machine.execBrcTakeover q w s
  | .mirrorCopy q dest srcMirror dstMirror => Sys2Proof.Machine.execMirrorCopy q dest srcMirror dstMirror s
  | .mcopyFrameReceived p f => Sys2Proof.Machine.execMcopyFrameReceived p f s
  | .mirrorCopyDone peer => Sys2Proof.Machine.execMirrorCopyDone peer s
  | .copyTimeout atSource => Sys2Proof.Machine.execCopyTimeout atSource s
  | .mntPpr q n entry hard => Sys2Proof.Machine.execMntPpr q n entry hard s
  | .pprDone n => Sys2Proof.Machine.execPprDone n s
  | .mntCancel q ticket => Sys2Proof.Machine.execMntCancel q ticket s
  | .mntActivityStart ticket => Sys2Proof.Machine.execMntActivityStart ticket s
  | .pwrCapSet q cap => Sys2Proof.Machine.execPwrCapSet q cap s
  | .pwrDomainOn q k => Sys2Proof.Machine.execPwrDomainOn q k s
  | .pwrDomainOff q k => Sys2Proof.Machine.execPwrDomainOff q k s
  | .domainRampDone k => Sys2Proof.Machine.execDomainRampDone k s
  | .ringFetchDone t => Sys2Proof.Machine.execRingFetchDone t s
  | .descriptorIssue t => Sys2Proof.Machine.execDescriptorIssue t s
  | .descriptorComplete t slot => Sys2Proof.Machine.execDescriptorComplete t slot s
  | .counterSignal c => Sys2Proof.Machine.execCounterSignal c s
  | .bankSwitch t => Sys2Proof.Machine.execBankSwitch t s
  | .quiescent => Sys2Proof.Machine.execQuiescent s
  | .runAheadPrefetch t => Sys2Proof.Machine.execRunAheadPrefetch t s
  | .nop t => Sys2Proof.Machine.execNop t s
  | .stepBegin t => Sys2Proof.Machine.execStepBegin t s
  | .matmul n => Sys2Proof.Machine.execMatmul n s
  | .weltSwitch n j => Sys2Proof.Machine.execWeltSwitch n j s
  | .tileDrain n => Sys2Proof.Machine.execTileDrain n s
  | .shadowCheckVerdict n => Sys2Proof.Machine.execShadowCheckVerdict n s
  | .scaleLoad n => Sys2Proof.Machine.execScaleLoad n s
  | .vecKernel n => Sys2Proof.Machine.execVecKernel n s
  | .vld u vs f => Sys2Proof.Machine.execVld u vs f s
  | .vst u vs f => Sys2Proof.Machine.execVst u vs f s
  | .sld u vs f => Sys2Proof.Machine.execSld u vs f s
  | .vlane u vs f => Sys2Proof.Machine.execVlane u vs f s
  | .vbc u vs f => Sys2Proof.Machine.execVbc u vs f s
  | .vext u vs f => Sys2Proof.Machine.execVext u vs f s
  | .sadd u vs f => Sys2Proof.Machine.execSadd u vs f s
  | .smul u vs f => Sys2Proof.Machine.execSmul u vs f s
  | .aadd u vs f => Sys2Proof.Machine.execAadd u vs f s
  | .strip u vs f => Sys2Proof.Machine.execStrip u vs f s
  | .vadd u vs f => Sys2Proof.Machine.execVadd u vs f s
  | .vsub u vs f => Sys2Proof.Machine.execVsub u vs f s
  | .vmul u vs f => Sys2Proof.Machine.execVmul u vs f s
  | .vfma u vs f => Sys2Proof.Machine.execVfma u vs f s
  | .vdiv u vs f => Sys2Proof.Machine.execVdiv u vs f s
  | .vsqrt u vs f => Sys2Proof.Machine.execVsqrt u vs f s
  | .vrsqrt u vs f => Sys2Proof.Machine.execVrsqrt u vs f s
  | .vexp2 u vs f => Sys2Proof.Machine.execVexp2 u vs f s
  | .vlog2 u vs f => Sys2Proof.Machine.execVlog2 u vs f s
  | .vmin u vs f => Sys2Proof.Machine.execVmin u vs f s
  | .vmax u vs f => Sys2Proof.Machine.execVmax u vs f s
  | .vabs u vs f => Sys2Proof.Machine.execVabs u vs f s
  | .vneg u vs f => Sys2Proof.Machine.execVneg u vs f s
  | .vcvt u vs f => Sys2Proof.Machine.execVcvt u vs f s
  | .vrint u vs f => Sys2Proof.Machine.execVrint u vs f s
  | .vand u vs f => Sys2Proof.Machine.execVand u vs f s
  | .vor u vs f => Sys2Proof.Machine.execVor u vs f s
  | .vxor u vs f => Sys2Proof.Machine.execVxor u vs f s
  | .vshl u vs f => Sys2Proof.Machine.execVshl u vs f s
  | .vshr u vs f => Sys2Proof.Machine.execVshr u vs f s
  | .vsra u vs f => Sys2Proof.Machine.execVsra u vs f s
  | .vaddsat u vs f => Sys2Proof.Machine.execVaddsat u vs f s
  | .vsubsat u vs f => Sys2Proof.Machine.execVsubsat u vs f s
  | .vcmp u vs f => Sys2Proof.Machine.execVcmp u vs f s
  | .vsel u vs f => Sys2Proof.Machine.execVsel u vs f s
  | .pand u vs f => Sys2Proof.Machine.execPand u vs f s
  | .por u vs f => Sys2Proof.Machine.execPor u vs f s
  | .pnot u vs f => Sys2Proof.Machine.execPnot u vs f s
  | .vrsum u vs f => Sys2Proof.Machine.execVrsum u vs f s
  | .vrmax u vs f => Sys2Proof.Machine.execVrmax u vs f s
  | .vrmin u vs f => Sys2Proof.Machine.execVrmin u vs f s
  | .vsad u vs f => Sys2Proof.Machine.execVsad u vs f s
  | .vrng u vs f => Sys2Proof.Machine.execVrng u vs f s
  | .rep u vs f => Sys2Proof.Machine.execRep u vs f s
  | .vecRestart u => Sys2Proof.Machine.execVecRestart u s
  | .copy t => Sys2Proof.Machine.execCopy t s
  | .gather t => Sys2Proof.Machine.execGather t s
  | .gatherGroupRestart t => Sys2Proof.Machine.execGatherGroupRestart t s
  | .latigoAssemble d => Sys2Proof.Machine.execLatigoAssemble d s
  | .cinchSolve d => Sys2Proof.Machine.execCinchSolve d s
  | .cinchAdjoint d => Sys2Proof.Machine.execCinchAdjoint d s
  | .update d => Sys2Proof.Machine.execUpdate d s
  | .updTripStart n => Sys2Proof.Machine.execUpdTripStart n s
  | .girthTripStart p => Sys2Proof.Machine.execGirthTripStart p s
  | .tackCall d => Sys2Proof.Machine.execTackCall d s
  | .reduceScatter d => Sys2Proof.Machine.execReduceScatter d s
  | .allGather d => Sys2Proof.Machine.execAllGather d s
  | .allReduce d => Sys2Proof.Machine.execAllReduce d s
  | .broadcast d => Sys2Proof.Machine.execBroadcast d s
  | .localReduce d => Sys2Proof.Machine.execLocalReduce d s
  | .stepCheck d => Sys2Proof.Machine.execStepCheck d s
  | .mirrorDigest d => Sys2Proof.Machine.execMirrorDigest d s
  | .checkpointOut d => Sys2Proof.Machine.execCheckpointOut d s
  | .replayStep d => Sys2Proof.Machine.execReplayStep d s
  | .cinchDrive d => Sys2Proof.Machine.execCinchDrive d s
  | .tackKstLoad d => Sys2Proof.Machine.execTackKstLoad d s
  | .verdict d => Sys2Proof.Machine.execVerdict d s
  | .healthEvaluation => Sys2Proof.Machine.execHealthEvaluation s
  | .laneFailure p lane => Sys2Proof.Machine.execLaneFailure p lane s
  | .lossOfSignal p => Sys2Proof.Machine.execLossOfSignal p s
  | .portTrained p => Sys2Proof.Machine.execPortTrained p s
  | .trainingTimeout p => Sys2Proof.Machine.execTrainingTimeout p s
  | .portRetryExpiry p => Sys2Proof.Machine.execPortRetryExpiry p s
  | .identSend p => Sys2Proof.Machine.execIdentSend p s
  | .identReceived p f => Sys2Proof.Machine.execIdentReceived p f s
  | .stampUpdateReceived p f => Sys2Proof.Machine.execStampUpdateReceived p f s
  | .linkBlockReceived p good ctl => Sys2Proof.Machine.execLinkBlockReceived p good ctl s
  | .hitlessSpareSwitch p => Sys2Proof.Machine.execHitlessSpareSwitch p s
  | .frameTransmit p vc => Sys2Proof.Machine.execFrameTransmit p vc s
  | .frameForward p arrival => Sys2Proof.Machine.execFrameForward p arrival s
  | .dataFrameReceived p f => Sys2Proof.Machine.execDataFrameReceived p f s
  | .openFrameReceived p f => Sys2Proof.Machine.execOpenFrameReceived p f s
  | .openResultReceived p f => Sys2Proof.Machine.execOpenResultReceived p f s
  | .collStageStart coll stage => Sys2Proof.Machine.execCollStageStart coll stage s
  | .collTimeout coll => Sys2Proof.Machine.execCollTimeout coll s
  | .reinPeriod counts => Sys2Proof.Machine.execReinPeriod counts s
  | .gateWindow closes => Sys2Proof.Machine.execGateWindow closes s
  | .reinedExit => Sys2Proof.Machine.execReinedExit s
  | .inputSample volt amp watt => Sys2Proof.Machine.execInputSample volt amp watt s
  | .railSample mv => Sys2Proof.Machine.execRailSample mv s
  | .junctionSample temps => Sys2Proof.Machine.execJunctionSample temps s
  | .thermalLimitAction => Sys2Proof.Machine.execThermalLimitAction s
  | .thermalTrip => Sys2Proof.Machine.execThermalTrip s
  | .hbmTempRead temps => Sys2Proof.Machine.execHbmTempRead temps s
  | .scrubLine n => Sys2Proof.Machine.execScrubLine n s
  | .routingLoadDone => Sys2Proof.Machine.execRoutingLoadDone s

end Sys2Proof.Machine
end

