-- ==== Sys2Proof/Machine/Waiting.lean ====
section
/-! DEFINITION. Requests that waited for a row repair (R273, R460): each runs when nothing holds it any longer. -/

namespace Sys2Proof.Machine

/-- The first request that waits of a port, and the requests of that port behind it. -/
def firstHeld (s : State) (a : Fin 2) : Option (Instr × List (Fin 2 × Instr)) :=
  match s.maint.held.filter fun x : Fin 2 × Instr => x.1 == a with
  | [] => none
  | x :: rest => some (x.2, rest)

/-- The waiting requests of one port are set aside. -/
def withoutHeld (s : State) (a : Fin 2) : State :=
  { s with maint := { s.maint with held := s.maint.held.filter fun x : Fin 2 × Instr => x.1 != a } }

/-- The first waiting request of a port whose link is up runs, if nothing holds it; those behind it go on waiting. One that its port
no longer takes is dropped (DESIGN CHOICE, log entry 43). -/
def serveHeld (s : State) (a : Fin 2) : Option State :=
  match firstHeld s a with
  | none => none
  | some (c, rest) =>
    if ¬ linkUp s a then none
    else
      let behind := fun (t : State) => { t with maint := { t.maint with held := t.maint.held ++ rest } }
      match exec c (withoutHeld s a) with
      | .next t => if requestWaits t a then none else some (behind t)
      | _ => some (behind (withoutHeld s a))

/-- A waiting request of either port that can run. -/
def serveWaiting (s : State) : Option State := (serveHeld s 0).orElse fun _ => serveHeld s 1

end Sys2Proof.Machine
end

