-- ==== Sys2Proof/Safety.lean ====
section
/-! DEFINITION. What counts as a safe state and what a request's acceptance and answer are, in the terms the statements
use. -/

namespace Sys2Proof.Machine

/-- HBM, its line metadata, the benches and the registers keep their canonical form. -/
def Memory.wf (s : State) : Bool :=
  swf 0 s.mem.hbm && swf ({} : LineMeta) s.mem.lines && swf 0 s.mem.bench && swf 0 s.regs

/-- The keys of a list rise strictly. -/
def keysRise {α : Type} : List (Nat × α) → Bool
  | [] => true
  | x :: m => (m.all fun y : Nat × α => decide (x.1 < y.1)) && keysRise m

/-- The tiles, store flags and stationary registers of every saddle name each slot once. -/
def Saddles.wf (s : State) : Bool :=
  s.sdl.all fun x : Nat × Saddle => keysRise x.2.tiles && keysRise x.2.stf && keysRise x.2.active && keysRise x.2.shadow

/-- The register files and the stage of every vector unit name each register once. -/
def Vecs.wf (s : State) : Bool :=
  s.vec.all fun x : Nat × Vec => keysRise x.2.v && keysRise x.2.p && keysRise x.2.sr && keysRise x.2.ar && keysRise x.2.stage

/-- The lists of domains, ports, stirrups, banks, gathers, saddles and vector units with what they hold, update queues, fragment records, monitor
inputs, failed reads and row trackers, the staged image and the firmware slots name each of theirs once. -/
def Lists.wf (s : State) : Bool :=
  keysRise s.m.domains && keysRise s.m.hlt && keysRise s.f.ports && keysRise s.d.stirrups && keysRise s.d.banks
    && keysRise s.d.gathers && keysRise s.sdl && keysRise s.vec && keysRise s.u.queues && keysRise s.a.got
    && keysRise s.m.failedReads && keysRise s.mem.tracker && keysRise s.c.staged && keysRise s.c.received
    && keysRise s.sec.slot0.mem && keysRise s.sec.slot0.got && keysRise s.sec.slot1.mem && keysRise s.sec.slot1.got
    && Saddles.wf s && Vecs.wf s

/-- The receive checks of Table 12-3 pass a request up to its opcode's own checks (rows 4 to 8, 10 and 11 of R457), but
for its layout: the port takes it as OMCP's, its session is open with its version, its SEQ is neither kept nor too old, its opcode
exists at that version and is allowed in the module's state, its session holds the buckle where that is needed, no lease has passed (R464),
and no earlier request of its session still waits (R460). -/
def accepts (s : State) (q : Req) (code : Nat) : Bool :=
  omcpTakes s q.port q.src && !leaseOver s && (match s.session q.port, opInfo code with
    | some x, some o =>
      q.ver == x.ver && q.session == x.id && !(x.kept.any fun k : Kept => k.seq == q.seq) && !seqOld x q.seq
        && (code != 0x31 || decide (2 ≤ x.ver.toNat)) && opAllowed s.m.st o
        && (!o.buckle || s.h.buckle.holder == some (q.port, q.session)) && !requestWaits s q.port
    | _, _ => false)

/-- Between s and t the module sent a request its reply, to where it came from with the tag of its session's HELLO (R452, R454), with the request's SEQ and of which P holds (Table 12-2). -/
def Replied (s t : State) (q : Req) (P : OmcpPacket → Prop) : Prop :=
  ∃ pkt newer older, t.sent = newer ++ .omcp q.port (replyTo s q) (ipv4Fragment (replyTo s q)) pkt :: (older ++ s.sent) ∧ pkt.kind = 1 ∧ pkt.seq = q.seq ∧ P pkt

/-- The reply is an immediate one of a status and a payload (R461). -/
def Answered (s t : State) (q : Req) (status : Nat) (payload : Bytes) : Prop :=
  Replied s t q fun p => p.status = BitVec.ofNat 16 status ∧ p.ticket = 0 ∧ p.payload = payload

/-- The reply gives a ticket: the next number in turn (R461). -/
def Ticketed (s t : State) (q : Req) (status : Nat) : Prop :=
  Replied s t q fun p => p.status = BitVec.ofNat 16 status ∧ p.ticket = s.h.nextTicket ∧ p.payload = []

/-- A ticket has ended with a status and DETAIL (R461). -/
def TicketDone (t : State) (n : BitVec 32) (status : Nat) (detail : Word) : Prop :=
  ∃ k, t.ticket n = some k ∧ k.done = true ∧ k.status = BitVec.ofNat 16 status ∧ k.detail = detail

/-- Memory, dispatch, saddles, vector units, fabric, update units and assurance are as before. -/
def DatapathKept (s t : State) : Prop :=
  t.mem = s.mem ∧ t.d = s.d ∧ t.sdl = s.sdl ∧ t.vec = s.vec ∧ t.f = s.f ∧ t.u = s.u ∧ t.a = s.a

/-- The management die's state, configuration, root of trust, maintenance, module time, queue and free-value count are as
before. -/
def ModuleKept (s t : State) : Prop :=
  t.m = s.m ∧ t.c = s.c ∧ t.sec = s.sec ∧ t.maint = s.maint ∧ t.time = s.time ∧ t.freeCount = s.freeCount
    ∧ t.pending = s.pending

/-- The host side is as before but for the session of port a and what hangs on it. -/
def HostKeptBut (a : Fin 2) (s t : State) : Prop :=
  (∀ b, b ≠ a → t.h.port b = s.h.port b) ∧ t.h.buckle = s.h.buckle ∧ t.h.nextTicket = s.h.nextTicket
    ∧ t.h.tickets = s.h.tickets ∧ t.h.streams = s.h.streams ∧ t.h.nextStream = s.h.nextStream ∧ t.h.log = s.h.log
    ∧ t.h.logHead = s.h.logHead

/-- The state in which a request's own effect begins: its session has just been heard from (R459). -/
def heard (s : State) (q : Req) : State :=
  match s.session q.port with
  | some x => touchSession s q.port x
  | none => s

/-- The log has one entry more than before, with this code and source (R553 to R555). -/
def LogsOne (s t : State) (code : Nat) (src : Src) (p0 p1 p2 : Word) : Prop :=
  ∃ e, t.h.log = (e :: s.h.log).take 4096 ∧ t.h.logHead = s.h.logHead + 1 ∧ e.code = BitVec.ofNat 16 code
    ∧ e.srcKind = BitVec.ofNat 4 src.kind ∧ e.srcIndex = BitVec.ofNat 12 src.index ∧ e.p0 = p0 ∧ e.p1 = p1 ∧ e.p2 = p2

/-- Every byte of HBM outside n bytes from an address reads as before. -/
def BytesKeptBut (s t : State) (a n : Nat) : Prop := ∀ b, (b < a ∨ a + n ≤ b) → t.byte b = s.byte b

/-- n bytes from an address read as a string of bytes. -/
def BytesAre (t : State) (a : Nat) (bs : Bytes) : Prop := t.bytesAt a bs.length = bs

/-- Bytes of HBM that a class may read, with every line good. -/
def Readable (s : State) (c : Class) (a n : Nat) : Prop :=
  a + n ≤ hbmSize ∧ denied s c false a n = none ∧ ∀ l ∈ linesOf a n, s.lineMeta l = {}

/-- Bytes of HBM that a class may write, with every line good. -/
def Writable (s : State) (c : Class) (a n : Nat) : Prop :=
  a + n ≤ hbmSize ∧ denied s c true a n = none ∧ ∀ l ∈ linesOf a n, s.lineMeta l = {}

/-- Every register reads as before but those at some addresses and the hit counters SBG_STAT, which any access of HBM moves
(R256). -/
def RegsKeptBut (s t : State) (as : List Nat) : Prop :=
  ∀ a, a ∉ as → (∀ d, d < 4 → a ≠ regAddr .sbgStat d 0) → sget 0 t.regs a = sget 0 s.regs a

/-- The address of the completion record of a slot (R183). -/
def cplAddr (s : State) (t p : Nat) : Nat := (s.reg .dspCplBase t 0).toNat + 32 * p

/-- The stirrup still holds the step of a descriptor, or no record of that step is kept: its completion writes no phase record. -/
def StepHeld (s : State) (t : Nat) (f : InFlight) : Prop := f.step = s.stepOf t ∨ ∀ r ∈ (s.stir t).past, r.step ≠ f.step

/-- A completion leaves HBM as it was but for its record and, where its stirrup has left the step, that step's phase record
(R183, R363). -/
def CompletionKept (s u : State) (t : Nat) (f : InFlight) : Prop :=
  let phase := (s.reg .dspPhaseBase t 0).toNat + 384 * (f.step.toNat % 4)
  ∀ b, (b < cplAddr s t f.slot ∨ cplAddr s t f.slot + 32 ≤ b) → (StepHeld s t f ∨ b < phase ∨ phase + 384 ≤ b) → u.byte b = s.byte b

/-- Every stirrup but t has kept its place, state and descriptors; a halt request may have set out for it. -/
def OthersKept (s t : State) (n : Nat) : Prop :=
  ∀ m, m ≠ n → { t.stir m with request := none } = { s.stir m with request := none }

/-- Stirrup n has halted on a fault (R185): it is HALTED, DSP_FAULT_LAST holds the first fault, DESC_FAULT is the newest
entry, every other stirrup that runs has been asked to halt, and nothing has been signalled. -/
def HaltedOn (s t : State) (n slot opcode fault : Nat) (step detail : Word) : Prop :=
  (t.stir n).st = .halted ∧ (bit (s.reg .dspFaultLast n 0) 63 = false →
      t.reg .dspFaultLast n 0 = placeBit 63 true ||| place 24 24 slot ||| place 16 8 opcode ||| place 8 8 fault)
    ∧ (bit (s.reg .dspFaultLast n 0) 63 = true → t.reg .dspFaultLast n 0 = s.reg .dspFaultLast n 0)
    ∧ (∃ e, t.h.log.head? = some e ∧ e.code = 1 ∧ e.slot = some (BitVec.ofNat 24 slot) ∧ e.step = step
        ∧ e.p0 = (place 8 8 fault ||| place 0 8 opcode) ∧ e.p1 = detail)
    ∧ (∀ m, m ≠ n → (s.stir m).st = .run → (t.stir m).request = some true) ∧ t.d.signals = s.d.signals

/-- The head of stirrup n is a fetched descriptor, short of the stop point, whose header agrees with its complement. -/
def HeadIs (s : State) (n : Nat) (f : Fetched) : Prop :=
  (s.stir n).st = .run ∧ (s.stir n).fetched.head? = some f ∧ stopsAt s n (s.stir n).head (s.stepOf n) = false ∧ f.err = none
    ∧ dWord f.words 8 = ~~~dWord f.words 0

/-- The head passes checks 1 to 5 of Table 5-10, and the counters it waits on agree with their complements. -/
def HeadReady (s : State) (n : Nat) (f : Fetched) : Prop :=
  HeadIs s n f ∧ checkThree n (some f.slot) f.words = none
    ∧ bankHolds s (dieOf n) (s.stir n).bank (dKgen f.words) = true ∧ s.reg .dspStepInv n 0 = ~~~s.stepOf n
    ∧ ∀ w ∈ [dWait f.words 0, dWait f.words 1], waitOn w = true →
        waitTermInv w = 2 ^ 24 - 1 - waitTerm w ∧ ctrInv s (waitCtr w) = 2 ^ 24 - 1 - ctrValue s (waitCtr w)

/-- The head of stirrup n faults at issue: the stirrup halts, and the record of its slot is written and nothing else in
HBM. -/
def FaultsAtHead (s u : State) (n : Nat) (f : Fetched) (op kgen code : Nat) : Prop :=
  HaltedOn s u n f.slot op code (s.stepOf n) 0
    ∧ BytesAre u (cplAddr s n f.slot) (wordsBytes (recordWords op f.slot kgen code 0 (s.stepOf n) 0))
    ∧ BytesKeptBut s u (cplAddr s n f.slot) 32 ∧ (u.stir n).flight = (s.stir n).flight ∧ OthersKept s u n
    ∧ (∀ m, u.stepOf m = s.stepOf m) ∧ u.sdl = s.sdl ∧ u.vec = s.vec

/-- A bench range is readable, and no word of it has an error. -/
def BenchGood (s : State) (n o len : Nat) : Prop := benchBad s n o len = none ∧ ∀ x ∈ benchWordsOf o len, s.benchWord n x = .good

/-- Every bench byte outside len bytes at an offset of bench n is as before, but where its sector was void: a write of a part
of such a sector leaves the rest undefined (R191). -/
def BenchKeptBut (s t : State) (n o len : Nat) : Prop :=
  ∀ m b, b < benchSize → s.sector m b ≠ .void → (m ≠ n ∨ b < o ∨ o + len ≤ b) → t.benchByte m b = s.benchByte m b

/-- Every bench range of a list is empty, or readable without an error. -/
def RangesGood (s : State) (n : Nat) (rs : List Range) : Prop := ∀ z ∈ rs, z.2 = 0 ∨ BenchGood s n z.1 z.2

/-- What a range of a list holds. -/
def rangeBytes (s : State) (n : Nat) (rs : List Range) (i : Nat) : Bytes := let z := rs.getD i (0, 0); s.benchRaw n z.1 z.2

/-- Two writes touch no byte in common. -/
def PutsApart (a b : Put) : Prop := a.1 + a.2.length ≤ b.1 ∨ b.1 + b.2.length ≤ a.1

/-- Every saddle but n is as before. -/
def SaddlesKeptBut (s t : State) (n : Nat) : Prop := ∀ m, m ≠ n → t.saddle m = s.saddle m

/-- A descriptor in flight is the only one of its stirrup with its slot and step. -/
def SoleFlight (s : State) (t : Nat) (f : InFlight) : Prop :=
  (s.stir t).flight.filter (fun g : InFlight => g.slot == f.slot && g.step == f.step) = [f]

/-- The opcode (Table 6-5), unit, form bit and word of a command that gives a vector instruction. -/
def vecRow : Instr → Option (Nat × VecUnit × Bool × BitVec 56)
  | .vld u vs f => some (0x01, u, vs, f)
  | .vst u vs f => some (0x02, u, vs, f)
  | .sld u vs f => some (0x03, u, vs, f)
  | .vlane u vs f => some (0x04, u, vs, f)
  | .vbc u vs f => some (0x05, u, vs, f)
  | .vext u vs f => some (0x06, u, vs, f)
  | .sadd u vs f => some (0x07, u, vs, f)
  | .smul u vs f => some (0x08, u, vs, f)
  | .aadd u vs f => some (0x09, u, vs, f)
  | .strip u vs f => some (0x0A, u, vs, f)
  | .vadd u vs f => some (0x10, u, vs, f)
  | .vsub u vs f => some (0x11, u, vs, f)
  | .vmul u vs f => some (0x12, u, vs, f)
  | .vfma u vs f => some (0x13, u, vs, f)
  | .vdiv u vs f => some (0x14, u, vs, f)
  | .vsqrt u vs f => some (0x15, u, vs, f)
  | .vrsqrt u vs f => some (0x16, u, vs, f)
  | .vexp2 u vs f => some (0x17, u, vs, f)
  | .vlog2 u vs f => some (0x18, u, vs, f)
  | .vmin u vs f => some (0x19, u, vs, f)
  | .vmax u vs f => some (0x1A, u, vs, f)
  | .vabs u vs f => some (0x1B, u, vs, f)
  | .vneg u vs f => some (0x1C, u, vs, f)
  | .vcvt u vs f => some (0x1D, u, vs, f)
  | .vrint u vs f => some (0x1E, u, vs, f)
  | .vand u vs f => some (0x20, u, vs, f)
  | .vor u vs f => some (0x21, u, vs, f)
  | .vxor u vs f => some (0x22, u, vs, f)
  | .vshl u vs f => some (0x23, u, vs, f)
  | .vshr u vs f => some (0x24, u, vs, f)
  | .vsra u vs f => some (0x25, u, vs, f)
  | .vaddsat u vs f => some (0x26, u, vs, f)
  | .vsubsat u vs f => some (0x27, u, vs, f)
  | .vcmp u vs f => some (0x30, u, vs, f)
  | .vsel u vs f => some (0x31, u, vs, f)
  | .pand u vs f => some (0x32, u, vs, f)
  | .por u vs f => some (0x33, u, vs, f)
  | .pnot u vs f => some (0x34, u, vs, f)
  | .vrsum u vs f => some (0x38, u, vs, f)
  | .vrmax u vs f => some (0x39, u, vs, f)
  | .vrmin u vs f => some (0x3A, u, vs, f)
  | .vsad u vs f => some (0x3B, u, vs, f)
  | .vrng u vs f => some (0x3C, u, vs, f)
  | .rep u vs f => some (0x3E, u, vs, f)
  | _ => none

/-- The instruction of a vector command. -/
def vecInstrOf (op : Nat) (vs : Bool) (f : BitVec 56) : VInstr :=
  vinstrOf (place 56 8 (if vs then op + 0x80 else op) ||| BitVec.setWidth 64 f)

/-- A unit may take a vector instruction by itself: no kernel runs or waits on it, no REP gathers, the issue gate is open. -/
def unitFree (s : State) (u : VecUnit) : Prop :=
  (s.vecOf u).running = false ∧ (s.vecOf u).wait = none ∧ (s.vecOf u).need = 0 ∧ s.m.gateOpen = true

/-- The unit as an instruction given by itself finds it: in the body of its last kernel. -/
def inBody (s : State) (u : VecUnit) : Vec := { s.vecOf u with sect := 1 }

/-- Only vector unit u has changed. -/
def OnlyUnit (s t : State) (u : VecUnit) : Prop :=
  (∀ w, w ≠ u → t.vecOf w = s.vecOf w) ∧ t.mem = s.mem ∧ t.regs = s.regs ∧ t.sdl = s.sdl ∧ t.d = s.d ∧ t.h = s.h ∧ t.f = s.f
    ∧ t.u = s.u ∧ t.a = s.a ∧ t.m = s.m

/-- A unit's registers outside the lists of changed vector, predicate, scalar and address registers are as before, and its
last instruction met no fault. -/
def UnitRegsBut (u : VecUnit) (x y : Vec) (vs ps ss as : List Nat) : Prop :=
  (∀ r, r ∉ vs → vreg u y r = vreg u x r) ∧ (∀ r, r ∉ ps → preg u y r = preg u x r) ∧ (∀ r, r ∉ ss → sreg y r = sreg x r)
    ∧ (∀ r, r ∉ as → areg y r = areg x r) ∧ y.fault = none ∧ y.ctx = x.ctx ∧ y.running = false ∧ y.wait = none

/-- A descriptor in flight of stirrup t, by slot and step, has ended with this fault and, for a tack call, this STATUS. -/
def EndedAs (s : State) (t : Nat) (f : InFlight) (fault : Option (Nat × Word)) (ret : Option Word) : Prop :=
  ∃ g ∈ (s.stir t).flight, g.slot = f.slot ∧ g.step = f.step ∧ g.phase = .ended ∧ g.fault = fault ∧ g.ret = ret

/-- The request and the opcode (Table 12-5) of a command that a host sends in an OMCP packet, HELLO apart. -/
def hostRequest : Instr → Option (Req × Nat)
  | .bye q => some (q, 0x02)
  | .cmdStatus q _ => some (q, 0x03)
  | .notifySub q _ => some (q, 0x04)
  | .bklAcquire q _ => some (q, 0x10)
  | .bklRenew q _ => some (q, 0x11)
  | .bklRelease q => some (q, 0x12)
  | .bklQuery q => some (q, 0x13)
  | .regRead q _ _ => some (q, 0x20)
  | .regWrite q _ _ | .aflPortRetrain q _ _ => some (q, 0x21)
  | .memRead q _ _ => some (q, 0x22)
  | .memWrite q _ _ => some (q, 0x23)
  | .eventRead q _ _ => some (q, 0x24)
  | .dataPut q _ _ _ _ _ _ => some (q, 0x30)
  | .dataPutMulti q _ _ _ => some (q, 0x31)
  | .egressOpen q _ => some (q, 0x32)
  | .egressCredit q _ _ _ _ _ => some (q, 0x33)
  | .egressClose q => some (q, 0x34)
  | .cfgLoad q _ _ => some (q, 0x40)
  | .cfgCommit q => some (q, 0x41)
  | .fwUpdateWrite q _ _ | .fwUpdateCommit q | .fwUpdateAbort q => some (q, 0x42)
  | .attest q _ => some (q, 0x43)
  | .moduleResetFunction q | .moduleResetModule q | .moduleResetPower q => some (q, 0x44)
  | .dspHalt q => some (q, 0x50)
  | .dspResume q _ => some (q, 0x51)
  | .dspStopAt q _ _ _ _ => some (q, 0x52)
  | .dspSnapshot q _ _ => some (q, 0x53)
  | .kstLoad q _ _ _ _ _ => some (q, 0x60)
  | .aflRouteLoad q _ _ => some (q, 0x61)
  | .brcReplayLive q _ _ | .brcReplayDry q _ _ => some (q, 0x70)
  | .brcRestore q _ => some (q, 0x71)
  | .brcTakeover q _ => some (q, 0x72)
  | .mirrorCopy q _ _ _ => some (q, 0x73)
  | .mntPpr q _ _ _ => some (q, 0x80)
  | .mntCancel q _ => some (q, 0x81)
  | .pwrCapSet q _ => some (q, 0x90)
  | .pwrDomainOn q _ | .pwrDomainOff q _ => some (q, 0x91)
  | _ => none

end Sys2Proof.Machine
end

