-- ==== Sys2Proof/WellFormed.lean ====
section
/-! DEFINITION. Which commands can reach the module at all: facts about a command's operands that hold of every real
packet, frame or sample, whatever the state. -/

namespace Sys2Proof

/-- An address of a packet fits its form (R454): an IPv4 address fills only the low 32 bits, and a raw frame has neither
IP address nor UDP port. -/
def wfAddr (x : NetAddr) : Bool :=
  match x.form with
  | .raw => x.ip == 0 && x.udp == 0 && x.own == 0
  | .udp4 => decide (x.ip.toNat < 2 ^ 32) && decide (x.own.toNat < 2 ^ 32)
  | .udp6 => true

/-- A frame carries as many payload bytes as its LEN says (Table 11-7). -/
def wfFrame (f : Frame) : Bool := f.payload.length == 64 * field f.w0 48 7

/-- A frame of which a part has come carries no more than that. -/
def wfPart (f : Frame) : Bool := decide (f.payload.length ≤ 64 * field f.w0 48 7)

/-- A request's bytes fit one OMCP packet (Table 12-2: LENGTH is a 14-bit count of bytes), after so many words of its
own layout. -/
def wfData (words : Nat) (bs : Bytes) : Bool := decide (8 * words + bs.length < 2 ^ 14)

/-- The operands of a command are ones that can occur. -/
def wellFormed : Instr → Bool
  | .ethFrameDiscard _ tags _ => decide (tags.length ≤ 2)
  | .arpRequest _ _ x | .neighborSolicitation _ _ x | .echoRequest _ _ _ x | .omcpPacketReject _ _ x => wfAddr x
  | .memWrite q _ bs | .cfgLoad q _ bs | .fwUpdateWrite q _ bs => wfAddr q.src && wfData 1 bs
  | .dataPut q _ _ _ _ _ bs => wfAddr q.src && wfData 8 bs
  | .dataPutMulti q _ _ bs => wfAddr q.src && wfData 2 bs
  | .brcRestore q bs => wfAddr q.src && bs.length == 4160
  | .brcTakeover q ws => wfAddr q.src && ws.length == 8
  | .dspSnapshot q _ ws => wfAddr q.src && decide (8 * ws.length + 8 < 2 ^ 14)
  | .laneFailure _ x => x.rx.all wfPart
  | .lossOfSignal x | .trainingTimeout x | .hitlessSpareSwitch x => x.rx.all wfPart
  | .mcopyFrameReceived _ x => wfFrame x.frame
  | .identReceived _ f | .stampUpdateReceived _ f | .dataFrameReceived _ f
  | .openFrameReceived _ f | .openResultReceived _ f => wfFrame f
  | .frameForward _ (some f) => wfFrame f
  | .railSample mv => mv.length == 6
  | .junctionSample ts => ts.length == 7
  | .hbmTempRead ts => ts.length == 32
  | .bootHwTrainingDone _ _ _ x => x.temps.length == 32
  | .reinPeriod cs => cs.all fun x => decide (x.1 < 80)
  | _ => true

end Sys2Proof
end

