-- ==== Sys2Proof/Certificates/Slice0/Obligations.lean ====
section
/-! DEFINITION. The statements for the provers, by chapter of the spec. -/

open Sys2Proof Sys2Proof.Machine

/-! The block itself. -/

/-- Step takes the command at the front of the queue and runs it on the state with the queue's rest; with an empty queue a
request that waited for a row repair runs (DESIGN CHOICE, log entry 43), and with none that can, module time goes on by 1 ns once the module is
supplied, and nothing but the phase timers changes; without power the input stage's times alone go on (DESIGN CHOICE, log entry 10). -/
def Obligations.StepRunsTheFrontCommand : Prop :=
  (∀ (c : Instr) (rest : List Instr) (s : State), s.pending = c :: rest → step s = exec c { s with pending := rest })
  ∧ (∀ s : State, s.pending = [] → serveWaiting s = none →
      ∃ t, step s = .next t ∧ t.time = (if s.m.supplied then s.time + 1 else s.time)
        ∧ t.regs = s.regs ∧ t.sent = s.sent ∧ t.h = s.h ∧ DatapathKept s t
        ∧ t.m = (if s.m.supplied then s.m else { s.m with input := s.m.input.tick })
        ∧ t.c = s.c ∧ t.sec = s.sec ∧ t.maint = s.maint ∧ t.freeCount = s.freeCount ∧ t.pending = [])
  ∧ (∀ s t : State, s.pending = [] → serveWaiting s = some t → step s = .next t)
  ∧ (∀ s : State, s.maint.held = [] → serveWaiting s = none)
  ∧ (∀ (c : Instr) (s t : State), s.maint.held = [(0, c)] → linkUp s 0 = true →
      exec c { s with maint := { s.maint with held := [] } } = .next t → t.maint.held = [] → serveWaiting s = some t)

/-- Every step keeps the canonical form of HBM, line metadata, benches and registers, and the module's lists naming each
domain, port, stirrup, bank, saddle and unit once. The canonical form is how the model stores the registers and memories
that these sections give. -/
def Obligations.StepKeepsStoresInForm : Prop :=
  (∀ s s' : State, Memory.wf s = true → step s = .next s' → Memory.wf s' = true)
  ∧ ∀ s s' : State, Lists.wf s = true → step s = .next s' → Lists.wf s' = true

/-- Every step takes exactly the front command off the queue, and none puts a command there: a queue whose commands can all
reach the module stays one. The queue is the model's: the commands that wait outside the module. -/
def Obligations.StepTakesOneCommand : Prop :=
  ∀ s s' : State, step s = .next s' →
    s'.pending = s.pending.tail ∧ (s.pending.all wellFormed = true → s'.pending.all wellFormed = true)

/-- Reset: the stores are in canonical form, the queue is empty, and registers hold the values of Tables 16-2 to 16-8. The
list of registers below those tables and the empty memories are log entries 2 and 3. -/
def Obligations.ResetHoldsTheSpecValues : Prop :=
  Memory.wf State.reset = true ∧ Lists.wf State.reset = true ∧ State.reset.pending = [] ∧ State.reset.h.buckle.holder = none
  ∧ State.reset.h.nextTicket = 1 ∧ State.reset.h.log = []
  ∧ State.reset.reg .omcCtrl 0 0 = 0x1388001E ∧ State.reset.reg .omcBklLease 0 0 = 0x7530
  ∧ State.reset.reg .ethCfg 0 0 = 0x000012AE88B50000 ∧ State.reset.reg .pwrCap 0 0 = 0xC80
  ∧ State.reset.reg .pwrVlimit 0 0 = 0x03520258 ∧ State.reset.reg .pwrReinCtrl 0 0 = 0x000302BC
  ∧ State.reset.reg .pwrDomainEnLo 0 0 = ~~~0 ∧ State.reset.reg .pwrDomainEnHi 0 0 = 0xFFFF
  ∧ State.reset.reg .thmCtrl 0 0 = 0x5F ∧ State.reset.reg .hltCtrl 0 0 = 0x00646400_00C08040
  ∧ State.reset.reg .cfgRole 0 0 = 0xFFF ∧ State.reset.reg .cfgRoleInv 0 0 = 0x0000001FFFFFF000
  ∧ State.reset.reg .brcNormBound 0 0 = 0x7FF0000000000000 ∧ State.reset.reg .brcNormBoundInv 0 0 = 0x800FFFFFFFFFFFFF
  ∧ State.reset.reg .aflCtrl 0 0 = 0x00A03233 ∧ State.reset.reg .aflStampInv 0 0 = ~~~0
  ∧ State.reset.reg .hbmScrubCtrl 0 0 = 0x00101801 ∧ State.reset.reg .feaSaddles 0 0 = 0x12C
  ∧ (∀ t, t < 304 → State.reset.reg .dspCtrl t 0 = 0x4080 ∧ State.reset.reg .dspStepInv t 0 = ~~~0)
  ∧ (∀ n, n < 300 → State.reset.reg .sdlHistCtrl n 0 = 0xFE2 ∧ State.reset.reg .sdlNarrowCtrl n 0 = 0x1110)
  ∧ (∀ c, c < 4096 → State.reset.reg .dspCtr c 0 = 0x0000FFFFFF000000)
  ∧ (∀ d, d < 4 → State.reset.reg .sbgCtrl d 0 = 0x8)

/-! Host ports (12, 16). -/

/-- A host's request whose session is not open, or whose version, session, sequence number or buckle are not right, has no
effect beyond its reply (R457 rows 4 to 7, 10 and 11, R460); as any packet received it brings into effect what was written to the port's
addresses (R454). A lease that has passed has freed the buckle before a later request is
looked at (R464, R466). -/
def Obligations.RefusedRequestsHaveNoEffect : Prop :=
  (∀ (c : Instr) (q : Req) (code : Nat) (s : State), hostRequest c = some (q, code) → leaseOver s = true →
    exec c s = exec c (lapse s) ∧ (lapse s).h.buckle.holder = none ∧ (∃ e, (lapse s).h.log.head? = some e ∧ e.code = 0x0600))
  ∧ ∀ (c : Instr) (q : Req) (code : Nat) (s : State), hostRequest c = some (q, code) → omcpTakes s q.port q.src = true →
    leaseOver s = false →
    (s.session q.port = none → ∃ pkt, exec c s = .next (s.sendOmcp q.port q.src pkt) ∧ pkt.status = 0x0102)
    ∧ (∀ x, s.session q.port = some x → q.ver ≠ x.ver →
        ∃ pkt, exec c s = .next ((packetIn s q.port).sendOmcp q.port (replyTo s q) pkt) ∧ pkt.status = 0x0101)
    ∧ (∀ x, s.session q.port = some x → q.ver = x.ver → q.session ≠ x.id →
        ∃ pkt, exec c s = .next ((packetIn s q.port).sendOmcp q.port q.src pkt) ∧ pkt.status = 0x0102)
    ∧ (∀ x k, s.session q.port = some x → q.ver = x.ver → q.session = x.id →
        (x.kept.find? fun k : Kept => k.seq = q.seq) = some k →
        ∃ t, exec c s = .next t ∧ t.sent = .omcp q.port k.dest (ipv4Fragment k.dest) k.pkt :: s.sent ∧ t.regs = s.regs ∧ DatapathKept s t
          ∧ ModuleKept s t ∧ HostKeptBut q.port s t)
    ∧ (∀ x h, s.session q.port = some x → q.ver = x.ver → q.session = x.id → (∀ k ∈ x.kept, k.seq ≠ q.seq) →
        x.high = some h → 64 ≤ seqBelow h q.seq → seqBelow h q.seq < 2 ^ 31 →
        ∃ t, exec c s = .next t ∧ Replied s t q (fun p => p.status = 0x0106) ∧ t.regs = s.regs ∧ DatapathKept s t ∧ ModuleKept s t
          ∧ HostKeptBut q.port s t)
    ∧ (∀ x o, s.session q.port = some x → q.ver = x.ver → q.session = x.id → (∀ k ∈ x.kept, k.seq ≠ q.seq) →
        opInfo code = some o → (opAllowed s.m.st o = false ∨ (o.buckle = true ∧ s.h.buckle.holder ≠ some (q.port, q.session))) →
        ∃ t, exec c s = .next t ∧ t.regs = s.regs ∧ DatapathKept s t ∧ ModuleKept s t ∧ HostKeptBut q.port s t)

/-- A HELLO chooses V = min(VER_MAX, 2) (1 in FW_RECOVERY, R534) and accepts it when V ≥ max(VER_MIN, 1). It opens a
session, one greater than the port's previous one and never zero, where the port holds none, or an idle one, or FORCE is
set; the old session's buckle lease and the other port stay. Otherwise it is refused: VERSION, or SESSION_BUSY, whose payload has the
layout of the model (DESIGN CHOICE, log entry 14). -/
def Obligations.HelloOpensASession : Prop :=
  ∀ (q : Req) (lo hi : BitVec 4) (nonce : BitVec 32) (s : State), omcpTakes s q.port q.src = true → q.session = 0 →
    s.m.st ≠ .boot →
    let told := fun (t : State) (status : BitVec 16) (payload : Bytes) => ∃ p, t.sent = .omcp q.port q.src (ipv4Fragment q.src) p :: s.sent ∧ p.kind = 1
      ∧ p.opcode = 1 ∧ p.seq = q.seq ∧ p.status = status ∧ p.payload = payload
    let top := if s.m.st = .fwRecovery then 1 else 2
    let v := min hi.toNat top
    (max lo.toNat 1 ≤ v → (∀ x, s.session q.port = some x → sessionIdle s x = true ∨ q.force = true) →
      ∃ t x, exec (.hello q lo hi nonce) s = .next t ∧ t.session q.port = some x ∧ x.ver = BitVec.ofNat 4 v
        ∧ x.id = (if (s.h.port q.port).lastSid + 1 = 0 then 1 else (s.h.port q.port).lastSid + 1) ∧ x.peer = q.src ∧ x.kept = [] ∧ x.executed = [] ∧ x.high = none ∧ x.egress = none
        ∧ t.reg .omcEventSub q.port.val 0 = 0 ∧ HostKeptBut q.port s t ∧ DatapathKept s t ∧ ModuleKept s t
        ∧ told t 0 (wordsBytes [place 0 4 v ||| place 4 1 q.port.val ||| place 16 12 (s.fld .cfgMemberId 0 0 0 12)
            ||| place 28 4 (modCode s.m.st) ||| place 32 32 nonce.toNat, s.reg .feaPart 0 0]))
    ∧ (v < max lo.toNat 1 → ∃ t, exec (.hello q lo hi nonce) s = .next t ∧ t.h = (packetIn s q.port).h ∧ t.regs = s.regs
        ∧ told t 0x0101 (wordBytes (place 0 4 1 ||| place 4 4 top)))
    ∧ (∀ x, max lo.toNat 1 ≤ v → s.session q.port = some x → sessionIdle s x = false → q.force = false →
        ∃ t, exec (.hello q lo hi nonce) s = .next t ∧ t.h = (packetIn s q.port).h ∧ t.regs = s.regs ∧ told t 0x0103 (busyPayload x))

/-- BYE and the idle limit close a session and leave the buckle, tickets and streams; CMD_STATUS answers from the last 256
tickets; NOTIFY_SUB replaces the class mask; EVENT_READ returns the held entries asked for, in increasing number. -/
def Obligations.SessionCommandsComplete : Prop :=
  (∀ (q : Req) (s : State), accepts s q 0x02 = true → Memory.wf s = true →
    ∃ t, exec (.bye q) s = .next t ∧ t.session q.port = none ∧ t.reg .omcEventSub q.port.val 0 = 0 ∧ HostKeptBut q.port s t
      ∧ DatapathKept s t ∧ ModuleKept s t ∧ Answered s t q 0 [])
  ∧ (∀ (a : Fin 2) (x : Session) (s : State), s.session a = some x → Memory.wf s = true →
    ∃ t, exec (.sessionIdleExpiry a) s = .next t ∧ t.session a = none ∧ t.reg .omcEventSub a.val 0 = 0 ∧ HostKeptBut a s t
      ∧ DatapathKept s t ∧ s.time.toNat ≤ t.time.toNat)
  ∧ (∀ (q : Req) (n : BitVec 32) (s : State), accepts s q 0x03 = true →
    (∀ k, s.ticket n = some k → (s.h.nextTicket - n).toNat ≤ 256 →
      ∃ t, exec (.cmdStatus q n) s = .next t ∧ t.regs = s.regs ∧ HostKeptBut q.port s t ∧ DatapathKept s t ∧ ModuleKept s t
        ∧ Answered s t q 0 (wordsBytes [place 0 16 k.opcode.toNat ||| place 16 16 k.status.toNat ||| placeBit 32 k.done
            ||| place 48 16 k.session.toNat, k.detail]))
    ∧ ((s.ticket n = none ∨ 256 < (s.h.nextTicket - n).toNat) →
      ∃ t, exec (.cmdStatus q n) s = .next t ∧ t.regs = s.regs ∧ HostKeptBut q.port s t ∧ Answered s t q 0x0107 []))
  ∧ (∀ (q : Req) (mask : BitVec 16) (s : State), accepts s q 0x04 = true → Memory.wf s = true →
    ∃ t, exec (.notifySub q mask) s = .next t ∧ t.reg .omcEventSub q.port.val 0 = BitVec.setWidth 64 mask
      ∧ HostKeptBut q.port s t ∧ DatapathKept s t ∧ ModuleKept s t ∧ Answered s t q 0 [])
  ∧ (∀ (q : Req) (first : BitVec 32) (count : BitVec 8) (s : State), accepts s q 0x24 = true → 1 ≤ count.toNat →
    count.toNat ≤ 128 →
    ∃ t, exec (.eventRead q first count) s = .next t ∧ t.regs = s.regs ∧ HostKeptBut q.port s t ∧ DatapathKept s t
      ∧ ModuleKept s t ∧ Answered s t q 0 ((List.range count.toNat).flatMap fun i =>
          match entryAt s (first + BitVec.ofNat 32 i) with
          | some e => wordsBytes (entryWords (first + BitVec.ofNat 32 i) e)
          | none => []))

/-- The buckle (R464): a free buckle is taken with its lease from now, its holder renews it, another session's BKL_ACQUIRE
gets BUCKLE_HELD, RENEW and RELEASE need the holder (LEASE_EXPIRED where expiry won a coincidence, R466; that the two fall in one cycle
where their module times are equal is DESIGN CHOICE, log entry 42), LEASE_MS 1 to 600,000 stands for itself, 0 selects
OMC_BKL_LEASE and any other value is refused with LEASE_INVALID; expiry frees it and is logged; module reset
frees it, and a request later than an unpinned lease's end finds it free. Every reply carries Table 12-6. -/
def Obligations.BuckleCommandsFollowTheLease : Prop :=
  (∀ (q : Req) (lease : BitVec 32) (ms : Nat) (s : State), accepts s q 0x10 = true → leaseMs s lease = some ms →
    ((s.h.buckle.holder = none ∨ s.h.buckle.holder = some (q.port, q.session)) →
      ∃ t, exec (.bklAcquire q lease) s = .next t ∧ t.h.buckle.holder = some (q.port, q.session)
        ∧ t.h.buckle.expiry = s.time + BitVec.ofNat 64 (ms * 1000000) ∧ t.h.buckle.pins = s.h.buckle.pins ∧ t.regs = s.regs
        ∧ DatapathKept s t ∧ ModuleKept s t ∧ Answered s t q 0 (bucklePayload t))
    ∧ (∀ h, s.h.buckle.holder = some h → h ≠ (q.port, q.session) →
      ∃ t, exec (.bklAcquire q lease) s = .next t ∧ t.h.buckle = s.h.buckle ∧ Answered s t q 0x0201 (bucklePayload s)))
  ∧ (∀ (q : Req) (lease : BitVec 32) (ms : Nat) (s : State), accepts s q 0x11 = true → leaseMs s lease = some ms →
    (s.h.buckle.holder = some (q.port, q.session) →
      ∃ t, exec (.bklRenew q lease) s = .next t ∧ t.h.buckle.holder = some (q.port, q.session)
        ∧ t.h.buckle.expiry = s.time + BitVec.ofNat 64 (ms * 1000000) ∧ t.regs = s.regs ∧ DatapathKept s t ∧ ModuleKept s t
        ∧ Answered s t q 0 (bucklePayload t))
    ∧ (s.h.buckle.holder ≠ some (q.port, q.session) →
      ∃ t, exec (.bklRenew q lease) s = .next t ∧ t.h.buckle = s.h.buckle
        ∧ Answered s t q (if s.h.buckle.lapsed = some (q.port, q.session, s.time) then 0x0203 else 0x0202) (bucklePayload s)))
  ∧ (∀ (q : Req) (s : State), accepts s q 0x12 = true →
    (s.h.buckle.holder = some (q.port, q.session) → s.h.buckle.pins = [] →
      ∃ t, exec (.bklRelease q) s = .next t ∧ t.h.buckle.holder = none ∧ t.regs = s.regs ∧ DatapathKept s t ∧ ModuleKept s t
        ∧ Answered s t q 0 (wordBytes 0))
    ∧ (s.h.buckle.holder ≠ some (q.port, q.session) →
      ∃ t, exec (.bklRelease q) s = .next t ∧ t.h.buckle = s.h.buckle
        ∧ Answered s t q (if s.h.buckle.lapsed = some (q.port, q.session, s.time) then 0x0203 else 0x0202) (bucklePayload s)))
  ∧ (∀ (q : Req) (s : State), accepts s q 0x13 = true →
      ∃ t, exec (.bklQuery q) s = .next t ∧ t.regs = s.regs ∧ HostKeptBut q.port s t ∧ DatapathKept s t ∧ ModuleKept s t
        ∧ Answered s t q 0 (bucklePayload s))
  ∧ (∀ (a : Fin 2) (sid : BitVec 16) (s : State), s.h.buckle.holder = some (a, sid) → s.h.buckle.pins = [] →
      ∃ t, exec .bklExpired s = .next t ∧ t.h.buckle.holder = none ∧ t.regs = s.regs ∧ DatapathKept s t
        ∧ LogsOne s t 0x0600 (srcHost a.val) (place 48 16 sid.toNat ||| place 47 1 a.val) 0 0)
  ∧ (∀ (q : Req) (lease : BitVec 32) (ms : Nat) (s : State), leaseOver s = true → accepts (lapse s) q 0x10 = true →
      leaseMs s lease = some ms →
      ∃ t, exec (.bklAcquire q lease) s = .next t ∧ t.h.buckle.holder = some (q.port, q.session)
        ∧ Answered (lapse s) t q 0 (bucklePayload t) ∧ (∃ e ∈ t.h.log, e.code = 0x0600))
  ∧ (∀ (due : Word) (rest : List (Rung × Word)) (s : State), s.m.delayed = (.module, due) :: rest → hardRepair s = false →
      Memory.wf s = true → ∃ t, exec .rungStart s = .next t ∧ t.h.buckle.holder = none)
  ∧ (∀ (lease : BitVec 32) (s : State), 1 ≤ lease.toNat → lease.toNat ≤ 600000 → leaseMs s lease = some lease.toNat)
  ∧ (∀ s : State, 1 ≤ s.fld .omcBklLease 0 0 0 32 → s.fld .omcBklLease 0 0 0 32 ≤ 600000 →
    leaseMs s 0 = some (s.fld .omcBklLease 0 0 0 32))
  ∧ (∀ (q : Req) (lease : BitVec 32) (s : State), 600000 < lease.toNat →
    (accepts s q 0x10 = true →
      ∃ t, exec (.bklAcquire q lease) s = .next t ∧ t.h.buckle = s.h.buckle ∧ Answered s t q 0x0204 (bucklePayload s))
    ∧ (accepts s q 0x11 = true →
      ∃ t, exec (.bklRenew q lease) s = .next t ∧ t.h.buckle = s.h.buckle ∧ Answered s t q 0x0204 (bucklePayload s)))

/-- Pins (R465): a command that needs the buckle and gets a ticket pins the buckle until its DONE. While the buckle is pinned, expiry is
held off, BKL_RELEASE replies OK with PENDING set and leaves it held, and its holder's further commands are served; a session that closes
does not unpin it; when the last pinning command ends, the buckle frees if a release waits or its lease has passed, and else stays held. -/
def Obligations.PinsHoldTheBuckle : Prop :=
  (∀ s : State, s.h.buckle.pins ≠ [] → exec .bklExpired s = .refused (.notEnabled "BKL_EXPIRED"))
  ∧ (∀ (q : Req) (s : State), accepts s q 0x12 = true → s.h.buckle.holder = some (q.port, q.session) → s.h.buckle.pins ≠ [] →
      ∃ t, exec (.bklRelease q) s = .next t ∧ t.h.buckle = { s.h.buckle with release := true }
        ∧ Replied s t q fun p => p.status = 0 ∧ p.flags = 8)
  ∧ (∀ (s : State) (n : BitVec 32), s.h.buckle.pins = [n] → s.h.buckle.holder ≠ none →
      (s.h.buckle.release = true ∨ s.h.buckle.expiry.toNat ≤ s.time.toNat → (unpin s n).h.buckle.holder = none)
      ∧ (s.h.buckle.release = false → s.time.toNat < s.h.buckle.expiry.toNat →
          (unpin s n).h.buckle = { s.h.buckle with pins := [] }))
  ∧ (∀ (s : State) (n m : BitVec 32) (ps : List (BitVec 32)), s.h.buckle.pins = n :: m :: ps →
          (unpin s n).h.buckle = { s.h.buckle with pins := m :: ps })
  ∧ (∀ (s : State) (q : Req) (code status : Nat) (after : BitVec 32 → State → State) (o : OpInfo), opInfo code = some o → o.buckle = true →
      let r := acceptTicket s q code status after
      r.ticket = s.h.nextTicket ∧ r.st.h.buckle = { s.h.buckle with pins := r.ticket :: s.h.buckle.pins })
  ∧ (∀ (s : State) (n : BitVec 32) (status : Nat) (detail : Word) (more : List Word), (s.ticket n).isSome = true →
      (finishTicketWith s n status detail more).h.buckle = (unpin s n).h.buckle)
  ∧ (∀ (q : Req) (lease : BitVec 32) (ms : Nat) (s : State), s.h.buckle.holder = some (q.port, q.session) → s.h.buckle.pins ≠ [] →
      leaseOver s = false ∧ (accepts s q 0x11 = true → leaseMs s lease = some ms →
        ∃ t, exec (.bklRenew q lease) s = .next t
          ∧ t.h.buckle = { s.h.buckle with expiry := s.time + BitVec.ofNat 64 (ms * 1000000) }))
  ∧ (∀ (q : Req) (s : State), accepts s q 0x02 = true → s.h.buckle.pins ≠ [] →
      ∃ t, exec (.bye q) s = .next t ∧ t.session q.port = none ∧ t.h.buckle = s.h.buckle)
  ∧ (∀ (a : Fin 2) (x : Session) (s : State), s.session a = some x → s.h.buckle.pins ≠ [] →
      ∃ t, exec (.sessionIdleExpiry a) s = .next t ∧ t.session a = none ∧ t.h.buckle = s.h.buckle)

/-- REG_READ returns the values of COUNT consecutive registers; it is refused with REG_INVALID, and returns no values, where
its address is not a multiple of 8 or any of its addresses is not a register, and so is a REG_WRITE to an address that is not a
register (R544). -/
def Obligations.RegReadReturnsTheRegisters : Prop :=
  (∀ (q : Req) (a : BitVec 32) (count : BitVec 8) (s : State), accepts s q 0x20 = true → 1 ≤ count.toNat →
    count.toNat ≤ 128 → (s.m.st = .fwRecovery → recoveryReads a.toNat count.toNat = true) →
    (∀ rs : List (RegKind × Nat × Nat), rs.length = count.toNat →
      (∀ n, n < count.toNat → (a.toNat + 8 * n) % 8 = 0 ∧ regFind (a.toNat + 8 * n) = rs[n]?) →
      ∃ t, exec (.regRead q a count) s = .next t ∧ t.regs = s.regs ∧ HostKeptBut q.port s t ∧ DatapathKept s t
        ∧ ModuleKept s t ∧ Answered s t q 0 (wordsBytes (rs.zipIdx.map fun r =>
            if saddleAway s (a.toNat + 8 * r.2) then 0 else (viewState s r.1.1 r.1.2.1 r.1.2.2).getD (s.reg r.1.1 r.1.2.1 r.1.2.2))))
    ∧ ((a.toNat % 8 ≠ 0 ∨ ∃ n, n < count.toNat ∧ regFind (a.toNat + 8 * n) = none) →
      ∃ t, exec (.regRead q a count) s = .next t ∧ t.regs = s.regs ∧ HostKeptBut q.port s t ∧ DatapathKept s t
        ∧ Answered s t q 0x0303 []))
  ∧ (∀ (q : Req) (a : BitVec 32) (v : Word) (s : State), accepts s q 0x21 = true → a.toNat % 8 ≠ 0 ∨ regFind a.toNat = none →
    ∃ t, exec (.regWrite q a v) s = .next t ∧ t.regs = s.regs ∧ HostKeptBut q.port s t ∧ DatapathKept s t
      ∧ Answered s t q 0x0303 [])

/-- REG_WRITE gives the register the word that its fields take (R546), leaves every other register alone, and replies OK; a
locked field that was to change keeps its value, the others are written, CFG_LOCKED_WRITE is logged and the reply is
CFG_LOCKED; an address of an unpowered saddle group gets STATE (R549). A write of PWR_REIN_CTRL or THM_CTRL also moves REINED (R493) or
MARGIN (R499) at once. -/
def Obligations.RegWriteWritesItsFields : Prop :=
  ∀ (q : Req) (a : BitVec 32) (v : Word) (s : State), accepts s q 0x21 = true → Memory.wf s = true →
    (∀ k i j w refused, a.toNat % 8 = 0 → regFind a.toNat = some (k, i, j) → saddleAway s a.toNat = false →
      (k = .aflPortCtrl → bit v 1 = false) → writeWord k s.m.locked (s.reg k i j) v = (w, refused) →
      let also := if k = .pwrReinCtrl then regAddr .pwrStat 0 0 else if k = .thmCtrl then regAddr .thmStat 0 0 else regAddr k i j
      ∃ t, exec (.regWrite q a v) s = .next t ∧ t.reg k i j = w
        ∧ (∀ b, b ≠ regAddr k i j → b ≠ also → sget 0 t.regs b = sget 0 s.regs b) ∧ DatapathKept s t
        ∧ (k ≠ .pwrReinCtrl → ModuleKept s t)
        ∧ (k = .pwrReinCtrl → reinRuns s = true → reinedNow t = true → t.reined = true)
        ∧ (k = .thmCtrl → t.fld .thmStat 0 0 24 8 = byteOfInt (min ((t.fld .thmCtrl 0 0 0 8 : Int) - (hottest t).1) (105 - hotStack t)))
        ∧ (refused = false → HostKeptBut q.port s t ∧ Answered s t q 0 [])
        ∧ (refused = true → LogsOne s t 0x0602 srcModule (BitVec.ofNat 64 a.toNat) v 0 ∧ Answered s t q 0x0304 []))
    ∧ (a.toNat % 8 = 0 → saddleAway s a.toNat = true →
      ∃ t, exec (.regWrite q a v) s = .next t ∧ t.regs = s.regs ∧ HostKeptBut q.port s t ∧ DatapathKept s t
        ∧ Answered s t q 0x0105 [])

/-- After commit a write never changes an RWL field, and no write changes a bit outside the fields of the register's table,
MIN_SEEN of PWR_RAIL apart (R543, R546). -/
def Obligations.LockedFieldsNeverChange : Prop :=
  ∀ (k : RegKind) (old new : Word),
    (∀ f ∈ regFields k, f.acc = .rwl →
      field (writeWord k true old new).1 f.lo (f.hi + 1 - f.lo) = field old f.lo (f.hi + 1 - f.lo))
    ∧ (k ≠ .pwrRail → ∀ locked, (writeWord k locked old new).1 &&& readOnlyBits k = old &&& readOnlyBits k)

/-- MEM_READ returns the bytes of good lines and changes no byte; MEM_WRITE writes whole lines, clears POISON, and changes no
other byte; a denied or out-of-range access is refused and a refused MEM_WRITE writes nothing (R265, R281, R469). While a row of a
stack is repaired, an access to it waits (R273; that it is the whole request that waits is DESIGN CHOICE, log entry 43). -/
def Obligations.MemReadAndWriteBytes : Prop :=
  (∀ (q : Req) (a : BitVec 40) (n : BitVec 14) (s : State), accepts s q 0x22 = true → a.toNat % 64 = 0 → n.toNat % 64 = 0 →
    64 ≤ n.toNat → n.toNat ≤ 8192 →
    (hbmLocked s a.toNat n.toNat = true →
      ∃ t, exec (.memRead q a n) s = .next t ∧ t.maint = { s.maint with held := s.maint.held ++ [(q.port, .memRead q a n)] }
        ∧ t.regs = s.regs ∧ t.mem = s.mem ∧ t.sent = s.sent) ∧ (hbmLocked s a.toNat n.toNat = false →
    (a.toNat + n.toNat ≤ 2 ^ 40 → denied s .egress false a.toNat n.toNat = none →
      (∀ l ∈ linesOf a.toNat n.toNat, s.lineMeta l = {}) →
      ∃ t, exec (.memRead q a n) s = .next t ∧ (∀ b, t.byte b = s.byte b) ∧ t.d = s.d ∧ t.a = s.a ∧ HostKeptBut q.port s t
        ∧ ModuleKept s t ∧ Answered s t q 0 (s.bytesAt a.toNat n.toNat))
    ∧ (2 ^ 40 < a.toNat + n.toNat →
      ∃ t, exec (.memRead q a n) s = .next t ∧ t.mem = s.mem ∧ Answered s t q 0x0300 [])
    ∧ (∀ x r, a.toNat + n.toNat ≤ 2 ^ 40 → denied s .egress false a.toNat n.toNat = some (x, r) →
      ∃ t, exec (.memRead q a n) s = .next t ∧ t.mem = s.mem ∧ Replied s t q fun p => p.status = 0x0301)))
  ∧ (∀ (q : Req) (a : BitVec 40) (bs : Bytes) (s : State), accepts s q 0x23 = true → Memory.wf s = true → a.toNat % 64 = 0 →
    bs.length % 64 = 0 → 64 ≤ bs.length → bs.length ≤ 8192 →
    (hbmLocked s a.toNat bs.length = true →
      ∃ t, exec (.memWrite q a bs) s = .next t ∧ t.maint = { s.maint with held := s.maint.held ++ [(q.port, .memWrite q a bs)] }
        ∧ t.regs = s.regs ∧ t.mem = s.mem ∧ t.sent = s.sent) ∧ (hbmLocked s a.toNat bs.length = false →
    (a.toNat + bs.length ≤ 2 ^ 40 → denied s .ingress true a.toNat bs.length = none →
      ∃ t, exec (.memWrite q a bs) s = .next t ∧ BytesAre t a.toNat bs ∧ BytesKeptBut s t a.toNat bs.length
        ∧ (∀ l ∈ linesOf a.toNat bs.length, t.lineMeta l = {}) ∧ t.d = s.d ∧ t.a = s.a ∧ HostKeptBut q.port s t
        ∧ ModuleKept s t ∧ Answered s t q 0 [])
    ∧ (2 ^ 40 < a.toNat + bs.length →
      ∃ t, exec (.memWrite q a bs) s = .next t ∧ t.mem = s.mem ∧ Answered s t q 0x0300 [])
    ∧ (∀ x r, a.toNat + bs.length ≤ 2 ^ 40 → denied s .ingress true a.toNat bs.length = some (x, r) →
      ∃ t, exec (.memWrite q a bs) s = .next t ∧ t.mem = s.mem ∧ Replied s t q fun p => p.status = 0x0301)))

/-- DATA_PUT stores a fragment that Table 10-1 accepts at the address that R366 gives its position and marks it received; one
that the table refuses stores nothing, and its reply names the reason. A reply is sent where REPLY_REQ is set or the status is
not OK, and echoes the put header (R367, R468). -/
def Obligations.DataPutStoresTheFragment : Prop :=
  ∀ (q : Req) (step stepInv pos posInv : Word) (f : BitVec 11) (bs : Bytes) (s : State), accepts s q 0x30 = true →
    Memory.wf s = true → recordFragBytes s f.toNat = some bs.length →
    let a := recordAddr s step (posIndex s step pos) f.toNat
    let echo := wordsBytes [step, stepInv, pos, posInv, place 0 11 f.toNat]
    (recordRefusal s step stepInv pos posInv = none → a + bs.length ≤ 2 ^ 40 → denied s .ingress true a bs.length = none →
      (∀ l ∈ linesOf a bs.length, s.lineMeta l = {}) → hbmLocked s a bs.length = false →
      ∃ t, exec (.dataPut q step stepInv pos posInv f bs) s = .next t ∧ BytesAre t a bs ∧ BytesKeptBut s t a bs.length
        ∧ sget false (gotOf t step) (2048 * posIndex s step pos + f.toNat) = true ∧ t.d = s.d ∧ ModuleKept s t
        ∧ HostKeptBut q.port s t ∧ (q.replyReq = true → Answered s t q 0 echo) ∧ (q.replyReq = false → t.sent = s.sent))
    ∧ (∀ st, recordRefusal s step stepInv pos posInv = some st →
      ∃ t, exec (.dataPut q step stepInv pos posInv f bs) s = .next t ∧ t.mem = s.mem ∧ t.a = s.a ∧ Answered s t q st echo)

/-- DATA_PUT_MULTI judges its entries one by one and gives one status for each: an entry that Table 10-1 refuses gets the
table's status and stores nothing; one that is accepted is stored as fragment 0 of its record, and marked received (R468), whatever the
packet's other entries are. An entry whose
record lies on a stack under repair makes the packet wait (R273, DESIGN CHOICE, log entry 43). -/
def Obligations.DataPutMultiJudgesEachEntry : Prop :=
  ∀ (q : Req) (step stepInv : Word) (es : Bytes) (s : State), accepts s q 0x31 = true → multiFits s es.length = true →
    multiWaits step stepInv es s = false →
    let n := es.length / (16 + recBytes s)
    let judged := fun i : Nat => recordRefusal s step stepInv (wordAt es (i * (16 + recBytes s))) (wordAt es (i * (16 + recBytes s) + 8))
    (∃ t sts, exec (.dataPutMulti q step stepInv es) s = .next t ∧ List.length sts = n
      ∧ (∀ i st, i < n → judged i = some st → sts[i]? = some st)
      ∧ ((∀ i, i < n → judged i ≠ none) → t.mem = s.mem ∧ t.a = s.a)
      ∧ t.d = s.d ∧ t.m.st = s.m.st
      ∧ (q.replyReq = true ∨ (∃ st ∈ sts, st ≠ 0) → Answered s t q 0 (sts.flatMap (leBytes 2))))
    ∧ (∀ (pos : Word) (bs : Bytes), es = wordBytes pos ++ wordBytes (~~~pos) ++ bs → bs.length = recBytes s →
      recordRefusal s step stepInv pos (~~~pos) = none → Memory.wf s = true →
      let a := recordAddr s step (posIndex s step pos) 0
      a + bs.length ≤ 2 ^ 40 → denied s .ingress true a bs.length = none → (∀ l ∈ linesOf a bs.length, s.lineMeta l = {}) →
      ∃ t, exec (.dataPutMulti q step stepInv es) s = .next t ∧ BytesAre t a bs ∧ BytesKeptBut s t a bs.length
        ∧ sget false (gotOf t step) (2048 * posIndex s step pos) = true ∧ t.d = s.d ∧ ModuleKept s t ∧ HostKeptBut q.port s t
        ∧ (q.replyReq = true → Answered s t q 0 [0, 0]) ∧ (q.replyReq = false → t.sent = s.sent))
    ∧ (let pos := fun i : Nat => wordAt es (i * (16 + recBytes s))
      let area := fun i : Nat => recordAddr s step (posIndex s step (pos i)) 0
      Memory.wf s = true → (gotOf s step).length + n ≤ nPos s * fragCount s →
      (∀ i, i < n → judged i = none → area i + recBytes s ≤ 2 ^ 40 ∧ denied s .ingress true (area i) (recBytes s) = none
        ∧ ∀ l ∈ linesOf (area i) (recBytes s), s.lineMeta l = {}) →
      (∀ i j, i < n → j < n → i ≠ j → judged i = none → judged j = none →
        area i + recBytes s ≤ area j ∨ area j + recBytes s ≤ area i) →
      ∃ t sts, exec (.dataPutMulti q step stepInv es) s = .next t ∧ List.length sts = n
        ∧ (∀ i, i < n → judged i = none → sts[i]? = some 0
            ∧ BytesAre t (area i) ((es.drop (i * (16 + recBytes s) + 16)).take (recBytes s))
            ∧ sget false (gotOf t step) (2048 * posIndex s step (pos i)) = true)
        ∧ (∀ i st, i < n → judged i = some st → sts[i]? = some st)
        ∧ (∀ b, (∀ i, i < n → judged i = none → b < area i ∨ area i + recBytes s ≤ b) → t.byte b = s.byte b)
        ∧ (q.replyReq = true ∨ (∃ st ∈ sts, st ≠ 0) → Answered s t q 0 (sts.flatMap (leBytes 2))))

/-- Egress (R470, R471): EGRESS_OPEN and EGRESS_CLOSE make the session a destination and end that; a credit moves ACKED and
LIMIT of a sub-stream; the next packet of a sub-stream carries the bytes that follow those sent, within its credit; a stream
that stalls fails and is logged. -/
def Obligations.EgressStreamsFollowCredit : Prop :=
  (∀ (q : Req) (limit : BitVec 25) (s : State), accepts s q 0x32 = true → limit.toNat ≤ 16777216 →
    ∃ t x, exec (.egressOpen q limit) s = .next t ∧ t.session q.port = some x ∧ x.egress = some limit ∧ x.id = q.session
      ∧ t.regs = s.regs ∧ HostKeptBut q.port s t ∧ DatapathKept s t ∧ ModuleKept s t ∧ Answered s t q 0 [])
  ∧ (∀ (q : Req) (s : State), accepts s q 0x34 = true →
    ∃ t x, exec (.egressClose q) s = .next t ∧ t.session q.port = some x ∧ x.egress = none ∧ x.id = q.session
      ∧ t.regs = s.regs ∧ HostKeptBut q.port s t ∧ DatapathKept s t ∧ ModuleKept s t ∧ Answered s t q 0 [])
  ∧ (∀ (q : Req) (n : BitVec 32) (i : Fin 2) (acked limit : Word) (resend : Bool) (e : Egress) (x : SubStream) (s : State),
    accepts s q 0x33 = true → (limit - acked).toNat ≤ 16777216 → s.stream n = some e → e.subs[i.val]? = some x →
    x.port = q.port → x.acked ≤ acked.toNat → acked.toNat < subTotal e i.val →
    ∃ t e' y, exec (.egressCredit q n i acked limit resend) s = .next t ∧ t.stream n = some e' ∧ e'.subs[i.val]? = some y
      ∧ y.acked = acked.toNat ∧ y.limit = limit.toNat ∧ (resend = true → y.sent = acked.toNat) ∧ e'.data = e.data
      ∧ t.regs = s.regs ∧ DatapathKept s t ∧ ModuleKept s t ∧ Answered s t q 0 [])
  ∧ (∀ (n : BitVec 32) (i : Fin 2) (e : Egress) (x : SubStream) (z : Session) (s : State), s.stream n = some e →
    e.subs[i.val]? = some x → s.session x.port = some z → z.egress ≠ none → linkUp s x.port = true → x.last = false →
    0 < nextLen e i.val x → x.acked ≤ x.sent →
    let k := nextLen e i.val x
    ∃ t e' y pkt, exec (.egressSend n i) s = .next t ∧ t.sent = .omcp x.port z.peer (ipv4Fragment z.peer) pkt :: s.sent ∧ pkt.kind = 3
      ∧ pkt.payload = wordsBytes [BitVec.setWidth 64 e.num, BitVec.ofNat 64 (subOffset e i.val x.sent)]
          ++ (e.data.drop (subOffset e i.val x.sent)).take k
      ∧ x.sent + k ≤ max x.limit x.sent ∧ k ≤ 8192
      ∧ t.stream n = some e' ∧ e'.subs[i.val]? = some y ∧ y.sent = x.sent + k ∧ y.acked = x.acked
      ∧ t.regs = s.regs ∧ DatapathKept s t ∧ ModuleKept s t)
  ∧ (∀ (n : BitVec 32) (e : Egress) (s : State), s.stream n = some e →
    ∃ t, exec (.egressFailed n) s = .next t ∧ t.stream n = none ∧ t.mem = s.mem ∧ (∃ x ∈ t.h.log, x.code = 0x0601))

/-- The host Ethernet ports (R451 to R454): what is received brings into effect what was written to the port's addresses and service, for
the packets that the module sends its session of its own accord (where an address is no longer in use, DESIGN CHOICE, log entry 77); a link comes up at its speed and probes its link-local address, goes down and
keeps its session; a discarded frame is counted, one with a bad UDP checksum (R454) not (DESIGN CHOICE, log entry 70); ARP, Neighbor Solicitation and echo are answered for the port's own
addresses. -/
def Obligations.EthernetPortsAnswer : Prop :=
  (∀ (a : Fin 2) (s : State), (packetIn s a).session a = (s.session a).map (fun x : Session => { x with peer := ownNow s a x.peer })
    ∧ HostKeptBut a s (packetIn s a) ∧ (packetIn s a).regs = s.regs ∧ (packetIn s a).sent = s.sent)
  ∧ (∀ (a : Fin 2) (d : NetAddr) (s : State), (ownNow s a d).mac = d.mac ∧ (ownNow s a d).ip = d.ip ∧ (ownNow s a d).udp = d.udp
    ∧ (d.form = .raw → (ownNow s a d).service.toNat = s.fld .ethCfg 0 0 16 16)
    ∧ (d.form ≠ .raw → (ownNow s a d).service.toNat = s.fld .ethCfg 0 0 32 16)
    ∧ (∀ v, d.form = .udp4 → ip4Addr s a = some v → (ownNow s a d).own = BitVec.setWidth 128 v)
    ∧ (d.form = .udp6 → (ownNow s a d).own ∈ ip6Addrs s a))
  ∧ (∀ (a : Fin 2) (fast : Bool) (s : State), Memory.wf s = true → s.domainOn (77 + a.val) = true → linkUp s a = false →
    ∃ t, exec (.ethLinkUp a fast) s = .next t ∧ linkUp t a = true
      ∧ t.fld .ethPortStat a.val 0 1 2 = (if fast then 2 else 1) ∧ t.h = s.h ∧ DatapathKept s t ∧ ModuleKept s t
      ∧ t.sent = .addressProbe a (linkLocal (s.reg .ethMac a.val 0).toNat) :: s.sent)
  ∧ (∀ (a : Fin 2) (s : State), Memory.wf s = true → linkUp s a = true →
    ∃ t, exec (.ethLinkDown a) s = .next t ∧ linkUp t a = false ∧ t.fld .ethPortStat a.val 0 1 2 = 0 ∧ t.h = s.h
      ∧ DatapathKept s t ∧ ModuleKept s t ∧ t.sent = s.sent)
  ∧ (∀ (a : Fin 2) (tags : List (BitVec 12)) (odd : FrameOddity) (s : State), Memory.wf s = true → linkUp s a = true →
    (tagsAccepted s a tags = false ∨ (odd ≠ .plain ∧ odd ≠ .badChecksum)) →
    ∃ t, exec (.ethFrameDiscard a tags odd) s = .next t
      ∧ t.fld .ethCnt a.val 0 0 32 = min 0xFFFFFFFF (s.fld .ethCnt a.val 0 0 32 + 1)
      ∧ t.fld .ethCnt a.val 0 32 32 = s.fld .ethCnt a.val 0 32 32 ∧ t.h = (packetIn s a).h ∧ DatapathKept s t ∧ ModuleKept s t
      ∧ t.sent = s.sent)
  ∧ (∀ (a : Fin 2) (tags : List (BitVec 12)) (s : State), linkUp s a = true → tagsAccepted s a tags = true →
    exec (.ethFrameDiscard a tags .badChecksum) s = .next (packetIn s a))
  ∧ (∀ (a : Fin 2) (ip : BitVec 32) (peer : NetAddr) (s : State), portTakes s a peer = true →
    exec (.arpRequest a ip peer) s
      = .next (if ip ≠ 0 ∧ BitVec.setWidth 32 (s.reg .ethIp4 a.val 0) = ip then (packetIn s a).send (.arpReply a peer ip) else packetIn s a))
  ∧ (∀ (a : Fin 2) (ip : BitVec 128) (peer : NetAddr) (s : State), portTakes s a peer = true →
    exec (.neighborSolicitation a ip peer) s
      = .next (if ip = linkLocal (s.reg .ethMac a.val 0).toNat
            ∨ (ip ≠ 0 ∧ ip = (s.reg .ethIp6Hi a.val 0 ++ s.reg .ethIp6Lo a.val 0 : BitVec 128))
          then (packetIn s a).send (.neighborAdvert a peer ip) else packetIn s a))
  ∧ (∀ (a : Fin 2) (ip : BitVec 128) (data : Bytes) (peer : NetAddr) (s : State), portTakes s a peer = true →
    (frameFits peer (8 + data.length) = false → exec (.echoRequest a ip data peer) s = .next s)
    ∧ (ownAddress s a peer ip = false → frameFits peer (8 + data.length) = true →
      exec (.echoRequest a ip data peer) s = .next (packetIn s a)))
  ∧ (∀ (a : Fin 2) (ip : BitVec 128) (data : Bytes) (peer : NetAddr) (s : State), portTakes s a peer = true →
    ownAddress s a peer ip = true → frameFits peer (8 + data.length) = true →
    ((s.h.port a).echoSecond ≠ BitVec.ofNat 64 (s.time.toNat / 1000000000) ∨ (s.h.port a).echoes < 100 →
      ∃ t, exec (.echoRequest a ip data peer) s = .next t ∧ t.sent = .echoReply a peer (ipv4Fragment peer) data :: s.sent ∧ t.regs = s.regs
        ∧ DatapathKept s t ∧ ModuleKept s t)
    ∧ ((s.h.port a).echoSecond = BitVec.ofNat 64 (s.time.toNat / 1000000000) → 100 ≤ (s.h.port a).echoes →
      exec (.echoRequest a ip data peer) s = .next (packetIn s a)))

/-- A received OMCP packet whose magic number, length, CRC or kind is wrong is discarded and counted, and gets no reply
(Table 12-3 rows 1 to 3). -/
def Obligations.BadPacketsAreCounted : Prop :=
  ∀ (a : Fin 2) (pkt : Bytes) (peer : NetAddr) (s : State), Memory.wf s = true → omcpTakes s a peer = true →
    frameFits peer (udpHead peer + pkt.length) = true →
    let row1 := pkt.length < 48 ∨ field (wordAt pkt 0) 48 16 ≠ 0xA6D1 ∨ field (wordAt pkt 16) 0 14 ≠ pkt.length - 48
    let row2 := field (wordAt pkt 40) 0 32 ≠ crc32c (pkt.take 40 ++ pkt.drop 48)
    let row3 := field (wordAt pkt 0) 40 4 ≠ 0
    (row1 ∨ (¬ row2 ∧ row3) →
      ∃ t, exec (.omcpPacketReject a pkt peer) s = .next t
        ∧ t.fld .ethCnt a.val 0 32 16 = min 65535 (s.fld .ethCnt a.val 0 32 16 + 1)
        ∧ t.fld .ethCnt a.val 0 48 16 = s.fld .ethCnt a.val 0 48 16
        ∧ t.fld .ethCnt a.val 0 0 32 = s.fld .ethCnt a.val 0 0 32 ∧ t.h = (packetIn s a).h ∧ t.sent = s.sent ∧ DatapathKept s t
        ∧ ModuleKept s t)
    ∧ (¬ row1 → row2 →
      ∃ t, exec (.omcpPacketReject a pkt peer) s = .next t
        ∧ t.fld .ethCnt a.val 0 48 16 = min 65535 (s.fld .ethCnt a.val 0 48 16 + 1)
        ∧ t.fld .ethCnt a.val 0 32 16 = s.fld .ethCnt a.val 0 32 16
        ∧ t.fld .ethCnt a.val 0 0 32 = s.fld .ethCnt a.val 0 0 32 ∧ t.h = (packetIn s a).h ∧ t.sent = s.sent ∧ DatapathKept s t
        ∧ ModuleKept s t)

/-! Step assurance and recovery (10). -/

/-- STEP_CHECK reads the loss and the norm partials, latches the monitor's requests, sets LOSS_NONFINITE or, for a loss that
differs from its complement, LOSS_COMPLEMENT alone with the canonical NaN, and opens the verdict collective with the member's record:
requests and FAIL bits, loss, the tree sum of the partials, and the step checksums sent and received (R373 to R375, R588). A member with
children waits for their OPENs, a leaf sends its own to its parent, and a tree of one member agrees at once (R431). While the step
record's stack is repaired the check waits (R273). -/
def Obligations.StepCheckLatchesAndOpens : Prop :=
  ∀ (d : Fin 4) (r : TackRun) (head all loss : Bytes) (ps : List Nat) (s s1 s2 s3 s4 : State),
    startedRun s d.val rtStepCheck = some r → s.coll 0xFF = none → inlineBad (runWords s r) 0 = none →
    (argsLocked s r 16 = true ∨ stepRecordLocked s r.step = true → exec (.stepCheck d) s = .refused (.notEnabled "STEP_CHECK"))
    ∧ (let n := min 256 (field (wordAt head 8) 0 9)
    let parts := (List.range n).map fun i =>
      (field (wordAt (all.drop 16) (16 * i)) 0 48, field (wordAt (all.drop 16) (16 * i + 8)) 0 40)
    argsLocked s r 16 = false → stepRecordLocked s r.step = false → argsLocked s1 r (16 + 16 * n) = false →
    rangesLocked s2 ((field (wordAt head 0) 0 48, 16) :: parts.map fun z => (z.1, 8 * z.2)) = false →
    readArgs s r 16 = some (.ok head, s1) → readArgs s1 r (16 + 16 * n) = some (.ok all, s2) →
    checkArgsBad head (all.drop 16) = none → memRead s2 .ddma {} (field (wordAt head 0) 0 48) 16 = (.ok loss, s3) →
    readPartials parts s3 = (.ok ps, s4) →
    ∃ t, exec (.stepCheck d) s = .next t ∧ t.a.req = latchRequests s4 r.step
      ∧ (complOk (wordAt loss 0) (wordAt loss 8) = true →
          t.a.loss = .of (wordAt loss 0) ∧ t.a.fail.toNat.testBit 1 = !finite64 (wordAt loss 0) ∧ t.a.fail.toNat.testBit 2 = false)
      ∧ (complOk (wordAt loss 0) (wordAt loss 8) = false →
          t.a.loss = .of nan64 ∧ t.a.fail.toNat.testBit 1 = false ∧ t.a.fail.toNat.testBit 2 = true)
      ∧ (∀ sc, schedule s4 0 = some sc → schedFits s4 sc 2 3 0 = true → s4.f.buffer = [] →
          let opened := fun c : Coll => t.coll 0xFF = some c ∧ c.step = r.step ∧ c.sched = 0 ∧ c.use = .check ∧ c.stages = sc.stages
            ∧ c.stamp = s4.reg .aflStamp 0 0
            ∧ c.record = putBytes [] 0 (wordsBytes [place 8 2 t.a.req.toNat ||| BitVec.setWidth 64 t.a.fail, t.a.loss.v,
                BitVec.ofNat 64 (treeSum64 ps), stepSum s4 .aflStepSent r.step, stepSum s4 .aflStepRecv r.step, 0, 0, 0])
          (sc.children ≠ [] → ∃ c, opened c ∧ c.agree = none ∧ c.openSent = false)
          ∧ (∀ m p vc, sc.children = [] → sc.parent ≠ 0xFFF → roleMember s4.c.route sc.parent = some m → leaveOf s4 m = .out p vc →
              ∃ c x, opened c ∧ c.agree = none ∧ c.openSent = true ∧ x ∈ (t.port p).queue ∧ x.vc = 0 ∧ x.frame.type = 2
                ∧ x.frame.dst = m ∧ x.frame.coll = 0xFF ∧ wordAt x.frame.payload 0 = c.stamp ∧ wordAt x.frame.payload 8 = c.stamp)
          ∧ (sc.children = [] → sc.parent = 0xFFF → ∃ c, opened c ∧ c.agree = some true)))

/-- The verdict of the combined record (R35, R36, R371, R376, R378): the step record is written; on a pass the step is
released with its complement and its inputs are freed, and STEP_CHECK returns 0; on a fail nothing is released,
STEP_CHECK_FAILED is logged with the FAIL bits, and every stirrup in RUN is sent a halt to HALTED. While the step record's stack is
repaired the verdict waits (R273). -/
def Obligations.VerdictReleasesOrHalts : Prop :=
  (∀ (d : Fin 4) (c : Coll) (s : State), s.coll 0xFF = some c → stepRecordLocked s c.step = true →
    exec (.verdict d) s = .refused (.notEnabled "VERDICT"))
  ∧ ∀ (d : Fin 4) (c : Coll) (r : TackRun) (f : InFlight) (s : State), Memory.wf s = true → Lists.wf s = true → s.coll 0xFF = some c →
    c.die = d.val → c.agree = some true → (∀ p ∈ c.prog, p.done = true) → collRun s c = some r → runFlight s r = some f → r.die = c.die →
    stepRecordLocked s c.step = false →
    let bs := (List.range 64).map fun i => sget (0 : Byte) c.record i
    let fail := verdictFail s r.step bs
    let base := (s.reg .brcLogBase 0 0).toNat + 128 * (r.step.toNat % 16)
    let loss := usedLoss s.a.loss
    ∃ t, exec (.verdict d) s = .next t ∧ t.coll 0xFF = none
      ∧ t.a.verdict = some ⟨r.step, fail == 0, BitVec.ofNat 2 (field (wordAt bs 0) 8 2), s.a.loss, .of (wordAt bs 8)⟩
      ∧ (base + 128 ≤ 2 ^ 40 → denied s .ingress true base 128 = none → regHeld s .brcPos0 = true →
          t.bytesAt base 80 = wordsBytes [r.step, ~~~r.step, loss, ~~~loss, wordAt bs 8, ~~~(wordAt bs 8), wordAt bs 16,
            stepPos s r.step, ~~~(stepPos s r.step),
            place 8 2 (field (wordAt bs 0) 8 2) ||| (BitVec.setWidth 64 fail &&& 0xFE) ||| placeBit 0 (fail == 0)])
      ∧ (fail = 0 → s.a.dry = none → t.reg .brcLastReleased 0 0 = r.step ∧ t.reg .brcLastReleasedInv 0 0 = ~~~r.step
          ∧ gotOf t r.step = [] ∧ EndedAs t (300 + d.val) f none (some 0))
      ∧ (fail = 0 → s.a.dry ≠ none → t.reg .brcLastReleased 0 0 = s.reg .brcLastReleased 0 0)
      ∧ (fail ≠ 0 → t.reg .brcLastReleased 0 0 = s.reg .brcLastReleased 0 0
          ∧ (∃ e ∈ t.h.log, e.code = 0x0400 ∧ e.step = r.step ∧ e.p0 = BitVec.setWidth 64 fail &&& 0xFE)
          ∧ (∀ n, (s.stir n).st = .run → (t.stir n).request = some true))

/-- MIRROR_DIGEST and CHECKPOINT_OUT do nothing and return STATUS 0 in a step where they are not triggered; triggered, the
first opens its comparison with the member's digest at its role, and the second starts an egress stream of header and
segments that stays open for its trailer (R385, R395 to R397). The layout of the digest exchange, and that a failed verdict or a dry
replay gives no checkpoint and STATUS 0, are the model's (DESIGN CHOICE, log entries 21 and 24). -/
def Obligations.DigestsAndCheckpointsRunWhenTriggered : Prop :=
  (∀ (d : Fin 4) (r : TackRun) (f : InFlight) (s : State), startedRun s d.val rtMirrorDigest = some r → runFlight s r = some f →
    inlineBad f.words 1 = none →
    ((digestDue s (dInline f.words 0) r.step = false ∨ s.partnerOffset = 0) →
      ∃ t, exec (.mirrorDigest d) s = .next t ∧ EndedAs t (300 + d.val) f none (some 0) ∧ t.mem = s.mem ∧ t.regs = s.regs
        ∧ t.f = s.f ∧ t.h = s.h)
    ∧ (∀ own mir s1 s2 sc, digestDue s (dInline f.words 0) r.step = true → s.partnerOffset ≠ 0 → s.coll 0xFE = none →
      mirrorLocked s = false → shardLocked s false = false → shardLocked s true = false → shardDigest s false = (.ok (some own), s1) → shardDigest s1 true = (.ok (some mir), s2) →
      schedule s2 1 = some sc → schedFits s2 sc 2 3 0 = true → sc.children ≠ [] → s2.f.buffer = [] → s.roles ≠ 0 →
      ∃ t c, exec (.mirrorDigest d) s = .next t ∧ t.coll 0xFE = some c ∧ c.step = r.step ∧ c.use = .digest
        ∧ (List.range 8).map (fun i => sget (0 : Byte) c.record (16 * s.role + i)) = wordBytes own))
  ∧ (∀ (d : Fin 4) (r : TackRun) (f : InFlight) (v : Verdict) (s : State), startedRun s d.val rtCheckpointOut = some r →
    runFlight s r = some f → inlineBad f.words 1 = none → s.a.verdict = some v → v.step = r.step → mirrorLocked s = false →
    ((v.pass = true → s.a.dry = none → checkpointDue s (dInline f.words 0) v = false) →
      ∃ t, exec (.checkpointOut d) s = .next t ∧ EndedAs t (300 + d.val) f none (some 0) ∧ t.mem = s.mem ∧ t.regs = s.regs
        ∧ t.h = s.h)
    ∧ (∀ bs s1 parts s2, v.pass = true → s.a.dry = none → checkpointDue s (dInline f.words 0) v = true → heldBad s = none →
      v.held = true → shardLocked s false = false → verdictOf s (r.step + 1) = none →
      listBindings s .ddma false = (.ok (some bs), s1) → destinations s1 ≠ [] → readShard s1 .egress bs = (.ok parts, s2) →
      destinations s2 ≠ [] → (∀ e ∈ s2.h.streams, e.num ≠ s2.h.nextStream) →
      ∃ t e, exec (.checkpointOut d) s = .next t ∧ t.stream s2.h.nextStream = some e ∧ e.producer = .checkpoint v.step
        ∧ e.more = true ∧ e.data = checkpointHeader s2 v parts.length ++ segmentBytes bs parts))

/-- The health monitor (R402): each count input decays and takes the events of the period, each level input takes its level (Table
10-11: stacks at refresh multiplier 4 or throttled; degrees by which MARGIN falls short of 10; the largest shortfall of a rail from 60 mV
above its limit, once the rails have been read), each score is min(CAP, A·W >> 8), and the risk is the sum of the scores, at most 255. That an accumulator field of 56 bits
saturates is the model's choice (DESIGN CHOICE, log entry 41). -/
def Obligations.HealthMonitorScoresItsInputs : Prop :=
  ∀ s : State, Memory.wf s = true → reinRuns s = true →
    ∃ t, exec .healthEvaluation s = .next t ∧ t.m.hlt = [] ∧ DatapathKept s t
      ∧ (∀ i, i < 10 → t.fld .hltInputStat i 0 8 56 = min (2 ^ 56 - 1) (s.fld .hltInputStat i 0 8 56
          - s.fld .hltInputStat i 0 8 56 / 2 ^ s.fld .hltInputCfg i 0 28 4 + sget 0 s.m.hlt i))
      ∧ t.fld .hltInputStat 10 0 8 56 = ((List.range 32).filter fun n : Nat =>
          s.fld .hbmRefreshMult n 0 0 3 == 4 || bit (s.reg .hbmRefreshMult n 0) 3).length
      ∧ t.fld .hltInputStat 11 0 8 56 = (10 - celsius (s.fld .thmStat 0 0 24 8)).toNat
      ∧ (s.m.railsRead = false → t.fld .hltInputStat 12 0 8 56 = 0)
      ∧ (s.m.railsRead = true →
          (∀ k, k < 6 → railMin k + 60 - s.fld .pwrRail k 0 0 14 ≤ t.fld .hltInputStat 12 0 8 56)
          ∧ ∃ k, k < 6 ∧ t.fld .hltInputStat 12 0 8 56 = railMin k + 60 - s.fld .pwrRail k 0 0 14)
      ∧ (∀ i, i < 13 → t.fld .hltInputStat i 0 0 8
          = min (s.fld .hltInputCfg i 0 0 8) (t.fld .hltInputStat i 0 8 56 * s.fld .hltInputCfg i 0 8 16 / 256))
      ∧ t.reg .hltRisk 0 0 = BitVec.ofNat 64 (min 255 (((List.range 13).map fun i => t.fld .hltInputStat i 0 0 8).foldl (· + ·) 0))

/-- An accepted BRC_REPLAY sets every stirrup's step, with its complement, to q and its head to slot 0, empties its flight
and puts it in RUN (where its domain is ON), and sets each counter to P_c × (q − s₀); DRY mode also stops every stirrup at
slot 0 of step q + 1 or within q (R388 to R390). A step that differs from its complement, or a condition of Table 10-6,
refuses it. What a stirrup of a domain that is off does is the model's reading (DESIGN CHOICE, log entry 37). -/
def Obligations.ReplayRewindsEveryStirrup : Prop :=
  ∀ (q : Req) (step : Word) (dry : Bool) (s : State), accepts s q 0x70 = true → Memory.wf s = true → Lists.wf s = true →
    let c := if dry then Instr.brcReplayDry q step (~~~step) else Instr.brcReplayLive q step (~~~step)
    (replayRefusal s step = none →
      ∃ t, exec c s = .next t ∧ Ticketed s t q 1 ∧ t.a.dry = (if dry then some step else none)
        ∧ (∀ n, n < 304 → t.reg .dspStep n 0 = step ∧ t.reg .dspStepInv n 0 = ~~~step ∧ (t.stir n).head = 0
            ∧ (t.stir n).flight = [] ∧ (s.domainOn (stirrupDomain n) = true → (t.stir n).st = .run))
        ∧ (∀ n, n < 4096 → ctrGood t n = true
            ∧ ctrValue t n = s.fld .dspCtrCfg n 0 0 24 * (step - s.reg .cfgStartStep 0 0).toNat % 2 ^ 24)
        ∧ t.d.tack = [] ∧ t.f.colls = []
        ∧ (dry = true → ∀ n, n < 304 → bit (t.reg .dspStopSlot n 0) 31 = true
            ∧ (t.reg .dspStopStep n 0 = step ∨ t.reg .dspStopStep n 0 = step + 1 ∧ t.fld .dspStopSlot n 0 0 24 = 0)))
    ∧ (∀ st, replayRefusal s step = some st → ∃ t, exec c s = .next t ∧ Answered s t q st [] ∧ t.regs = s.regs ∧ t.d = s.d)
    ∧ (∀ inv, inv ≠ ~~~step →
      ∃ t, exec (if dry then Instr.brcReplayDry q step inv else Instr.brcReplayLive q step inv) s = .next t
        ∧ t.regs = s.regs ∧ t.d = s.d ∧ Replied s t q fun p => p.status = 0x0402)

/-- An accepted BRC_RESTORE derives the step c′ = s₀ + (POS − BRC_POS0) ÷ N_pos − 1, sets LAST_RELEASED and UPD_FRONT to it
with their complements, logs STREAM_REALIGNED with its offset and difference for each stream counter that is not the computed
one (R400), and arms verification of c′ + 1 exactly when VERIFY_VALID is set (R398, R399, R401). BRC_TAKEOVER
gives a quiescent spare its role, first position and seeds, each with its complement, and republishes the stamp; a member
that holds a role refuses it with NOT_SPARE (R392, R427). The order of the refusals of BRC_TAKEOVER is the model's (DESIGN
CHOICE, log entry 37). -/
def Obligations.RestoreAndTakeover : Prop :=
  (∀ (q : Req) (data : Bytes) (n : Nat) (s : State), accepts s q 0x71 = true → Memory.wf s = true → data.length = 4160 →
      isQuiescent s = true → badPair data = none → restoreShaped data = true → heldBad s = none → field (wordAt data 0) 36 12 = s.role →
      wordAt data 56 = s.reg .updSeedShared 0 0 → wordAt data 72 = s.reg .updSeedRole 0 0 →
      restoredSteps s (wordAt data 24) = some n → shardLocked s false = false → (shardDigest (heard s q) false).1 = .ok (some (wordAt data 4144)) →
      let c := s.reg .cfgStartStep 0 0 + BitVec.ofNat 64 n - 1
      ∃ t, exec (.brcRestore q data) s = .next t ∧ Ticketed s t q 1 ∧ t.reg .brcLastReleased 0 0 = c
        ∧ t.reg .brcLastReleasedInv 0 0 = ~~~c ∧ t.reg .updFront 0 0 = c ∧ t.reg .updFrontInv 0 0 = ~~~c ∧ t.f.colls = []
        ∧ t.a.verify = (if bit (wordAt data 4152) 1 then some ⟨c + 1, .of (wordAt data 4112), .of (wordAt data 4128)⟩ else none)
        ∧ (c ≠ wordAt data 8 → ∃ e ∈ t.h.log, e.code = 0x0403 ∧ e.p0 = wordAt data 8 ∧ e.p1 = c)
        ∧ (∀ i, i < 256 →
            let near : List Int := [-4, -3, -2, -1, 1, 2, 3, 4]
            let counter := fun j : Int => streamCounter (seedPair s (seedKind i false)).1 i (c + 1 + BitVec.ofInt 64 j)
            let got := wordAt data (128 + 8 * i)
            got ≠ counter 0 → ∃ e ∈ t.h.log, ∃ code, e.code = 0x0404 ∧ e.p0 = (place 8 8 code ||| place 0 8 i) ∧ e.p1 = got - counter 0
              ∧ ((∃ j ∈ near, counter j = got ∧ code = (BitVec.ofInt 8 j).toNat) ∨ (∀ j ∈ near, counter j ≠ got) ∧ code = 0x7F)))
  ∧ (∀ (q : Req) (role pos seed partner : Word) (s : State), accepts s q 0x72 = true → Memory.wf s = true →
      let c := Instr.brcTakeover q [role, ~~~role, pos, ~~~pos, seed, ~~~seed, partner, ~~~partner]
      regHeld s .cfgRole = true →
      (s.role = 0xFFF → role.toNat < 4096 → spareQuiet s = true →
        ∃ t, exec c s = .next t ∧ Ticketed s t q 1 ∧ t.role = role.toNat ∧ t.roles = s.roles ∧ t.partnerOffset = s.partnerOffset
          ∧ t.reg .brcPos0 0 0 = pos ∧ t.reg .brcPos0Inv 0 0 = ~~~pos ∧ t.reg .updSeedRole 0 0 = seed
          ∧ t.reg .updSeedRoleInv 0 0 = ~~~seed ∧ t.reg .updSeedPartner 0 0 = partner
          ∧ t.reg .updSeedPartnerInv 0 0 = ~~~partner ∧ t.reg .aflStampInv 0 0 = ~~~(t.reg .aflStamp 0 0) ∧ t.mem = s.mem)
      ∧ (s.role ≠ 0xFFF → ∃ t, exec c s = .next t ∧ Answered s t q 0x0802 [] ∧ t.regs = s.regs ∧ DatapathKept s t))

/-! Tack calls and collectives (05, 11). -/

/-- TACK_CALL: the oldest issued call of a die begins to run its routine, one of Table 5-17 (R200); a routine that the table
does not name reads its argument block and runs to its end, with its STATUS, or to TACK_FAILED beyond four nested calls (R203): how much
it reads, how deep it calls and its STATUS are free functions of what R202 lets its operations depend on (DESIGN CHOICE, log entry 22).
REPLAY_STEP is the host's alone: a TACK_CALL
that names it faults with ROUTINE_HOST_ONLY, and its stirrup is HALTED (R185, R200). -/
def Obligations.TackCallsStartOrFault : Prop :=
  (∀ (d : Fin 4) (f : InFlight) (s : State), oldest s (300 + d.val) 0x40 .issued = some f →
      dRoutine f.words ∈ [0x0001, 0x0002, 0x0003, 0x0004, 0x0005, 0x0010, 0x0011, 0x0012, 0x0013, 0x0020, 0x0030] →
      ∃ t, exec (.tackCall d) s = .next t ∧ t.d.tack = s.d.tack ++ [⟨d.val, f.slot, f.step, dRoutine f.words, .started, 0⟩]
        ∧ (∃ g ∈ (t.stir (300 + d.val)).flight, g = { f with phase := .executing }) ∧ (∀ n, n ≠ 300 + d.val → t.stir n = s.stir n)
        ∧ t.mem = s.mem ∧ t.regs = s.regs ∧ t.h = s.h ∧ t.f = s.f ∧ t.a = s.a)
  ∧ (∀ (d : Fin 4) (f : InFlight) (s : State), oldest s (300 + d.val) 0x40 .issued = some f →
      dRoutine f.words ∉ [0x0001, 0x0002, 0x0003, 0x0004, 0x0005, 0x0010, 0x0011, 0x0012, 0x0013, 0x0020, 0x0030] →
      let r : TackRun := ⟨d.val, f.slot, f.step, dRoutine f.words, .started, 0⟩
      let begun := putFlight s (300 + d.val) f { f with phase := .executing }
      let x := begun.setRuns (begun.d.tack ++ [r])
      argsLocked x r (blockBytes x r) = false →
      (∀ bs s1, readArgs x r (blockBytes x r) = some (.ok bs, s1) ∨ (readArgs x r (blockBytes x r) = none ∧ bs = [] ∧ s1 = x) →
        let e := Config.routineRun (runImage s1 r) (routineKey s1 r) bs s1.c.route s1.cfgInv (verdictWords s1 r.step)
        ∃ t, exec (.tackCall d) s = .next t
          ∧ (e.1 % 8 ≤ 4 → EndedAs t (300 + d.val) f none (some e.2))
          ∧ (4 < e.1 % 8 → EndedAs t (300 + d.val) f (some (0x42, e.2)) (some e.2))
          ∧ (∀ n, n ≠ 300 + d.val → t.stir n = s.stir n) ∧ t.mem = s1.mem ∧ t.regs = s1.regs ∧ t.h = s1.h ∧ t.f = s.f ∧ t.a = s.a)
      ∧ (∀ e s1, readArgs x r (blockBytes x r) = some (.error e, s1) →
        ∃ t, exec (.tackCall d) s = .next t ∧ EndedAs t (300 + d.val) f (some (errFault e, errDetail e)) none ∧ t.mem = s1.mem
          ∧ t.f = s.f ∧ t.a = s.a))
  ∧ (∀ (d : Fin 4) (f : Fetched) (s : State), headCheck s (300 + d.val) = .pass f → (s.stir (300 + d.val)).st = .run →
      dOpcode f.words = 0x40 → dRoutine f.words = 0x0013 →
      ∃ t, exec (.replayStep d) s = .next t ∧ (t.stir (300 + d.val)).st = .halted
        ∧ (∃ e ∈ t.h.log, e.code = 0x0001 ∧ e.p0 = place 8 8 0x4A ||| place 0 8 0x40 ∧ e.slot = some (BitVec.ofNat 24 f.slot)))

/-- REDUCE_SCATTER, ALL_GATHER, ALL_REDUCE and BROADCAST open a collective of their schedule's kind under their COLL_ID, with
the step of the call and the stamp of the moment; a leaf's OPEN has gone, a member with children waits for theirs (R428 to R431). A call
whose arguments lie on a stack under repair waits (R273), as a seventeenth does. -/
def Obligations.CollectiveRoutinesOpen : Prop :=
  ∀ (d : Fin 4) (z : Instr × Nat × Nat), z ∈ [(Instr.reduceScatter d, 1, 0), (Instr.allGather d, 2, 1), (Instr.allReduce d, 3, 2),
      (Instr.broadcast d, 4, 3)] →
    ∀ (r : TackRun) (bs tab : Bytes) (sc : Sched) (binds : List (Nat × Nat)) (s s1 s2 : State),
      startedRun s d.val z.2.1 = some r → userColls s < 16 → argsLocked s r 64 = false →
      hbmLocked s1 (field (wordAt bs 16) 0 48) (16 * field (wordAt bs 16) 48 8) = false → inlineBad (runWords s r) 0 = none →
      readArgs s r 64 = some (.ok bs, s1) → schedule s1 (field (wordAt bs 0) 54 10) = some sc → collArgsClean bs = true →
      2 ≤ field (wordAt bs 0) 54 10 → field (wordAt bs 0) 46 8 < 0xFE → s1.coll (field (wordAt bs 0) 46 8) = none →
      schedFits s1 sc z.2.2 (field (wordAt bs 0) 38 4) (field (wordAt bs 16) 48 8) = true →
      memRead s1 .ddma {} (field (wordAt bs 16) 0 48) (16 * field (wordAt bs 16) 48 8) = (.ok tab, s2) →
      bindTable tab = some binds → s2.f.buffer = [] → s2.f.colls = s1.f.colls →
      (sc.children = [] → sc.parent ≠ 0xFFF ∧ ∃ m, roleMember s2.c.route sc.parent = some m ∧ leaveOf s2 m ≠ .self) →
      ∃ t c, exec z.1 s = .next t ∧ t.coll (field (wordAt bs 0) 46 8) = some c ∧ c.step = r.step
        ∧ c.stamp = s2.reg .aflStamp 0 0 ∧ c.stages = sc.stages ∧ c.agree = none ∧ c.openSent = sc.children.isEmpty
        ∧ c.buf = field (wordAt bs 8) 0 48 ∧ c.binds = binds ∧ t.a = s2.a ∧ t.mem = s2.mem

/-- LOCAL_REDUCE (R437): each element of DST becomes op(op(S0, S1), op(S2, S3)), absent operands absent; CTR is signalled at
its end, and the fabric is left alone. A line that an unaligned end of DST cannot read ends it with its memory fault and no signal
(R582). A malformed block, or ARGS = NONE, ends it with COLL_ARGS_INVALID, and so do inline arguments that are not zero (DESIGN CHOICE,
log entry 45). While a stack that its arguments or areas lie on is repaired it waits (R273). -/
def Obligations.LocalReduceCombinesItsSources : Prop :=
  ∀ (d : Fin 4) (r : TackRun) (f : InFlight) (s : State), startedRun s d.val rtLocalReduce = some r → runFlight s r = some f →
    argsLocked s r 64 = false →
    (inlineBad f.words 0 = none → ∀ bs s1 xs s2, readArgs s r 64 = some (.ok bs, s1) → localArgsClean bs = true →
      rangesLocked s1 (localAreas bs) = false → Memory.wf s2 = true →
      let fmt := field (wordAt bs 0) 42 4
      let op := field (wordAt bs 0) 38 4
      let dst := field (wordAt bs 40) 0 48
      let ends := fun t : State => t.d.signals = s2.d.signals ++ [field (wordAt bs 0) 26 12]
        ∧ EndedAs t (300 + d.val) f none (some 0) ∧ t.f = s.f ∧ t.sdl = s.sdl ∧ t.vec = s.vec
      readSources (64 * field (wordAt bs 48) 0 40) ((List.range 4).map fun i => wordAt bs (8 + 8 * i)) s1 = (.ok xs, s2) →
      (∀ v, combineOpt fmt op (combineOpt fmt op (xs.getD 0 none) (xs.getD 1 none))
          (combineOpt fmt op (xs.getD 2 none) (xs.getD 3 none)) = some v →
        dst + v.length ≤ 2 ^ 40 → denied s2 .ddma true dst v.length = none →
        (partBad s2 dst v.length = none → ∃ t, exec (.localReduce d) s = .next t ∧ BytesAre t dst v ∧ ends t)
        ∧ (∀ e, partBad s2 dst v.length = some e →
            ∃ t, exec (.localReduce d) s = .next t ∧ EndedAs t (300 + d.val) f (some (errFault e, errDetail e)) none
              ∧ t.d.signals = s2.d.signals))
      ∧ (combineOpt fmt op (combineOpt fmt op (xs.getD 0 none) (xs.getD 1 none))
          (combineOpt fmt op (xs.getD 2 none) (xs.getD 3 none)) = none →
        ∃ t, exec (.localReduce d) s = .next t ∧ t.mem = s2.mem ∧ ends t))
    ∧ ((inlineBad f.words 0 ≠ none ∨ (dArgs f.words).absent = true
        ∨ ∃ bs s1, readArgs s r 64 = some (.ok bs, s1) ∧ localArgsClean bs = false) →
      ∃ t, exec (.localReduce d) s = .next t ∧ EndedAs t (300 + d.val) f (some (0x45, argsStatus)) (some argsStatus)
        ∧ t.d.signals = s.d.signals ∧ t.f = s.f ∧ t.sdl = s.sdl ∧ t.vec = s.vec)

/-- A stage starts once every earlier stage that overlaps it has completed: a SEND queues its frames, a receive stage begins
to take its own (R430). A collective whose timer reaches TIMEOUT ends: it is closed, TIMEOUTS counts it, and its routine's call
ends (R443). -/
def Obligations.StagesStartAndTimersEnd : Prop :=
  (∀ (id : BitVec 8) (k : BitVec 16) (c : Coll) (st : Stage) (s : State), s.coll id.toNat = some c → c.stages[k.toNat]? = some st →
      (∃ p, c.prog[k.toNat]? = some p ∧ p.started = false) →
      (mayStart c k.toNat st = false → exec (.collStageStart id k) s = .refused (.notEnabled "COLL_STAGE_START"))
      ∧ (mayStart c k.toNat st = true → st.op ≠ 0 → s.f.buffer = [] →
        ∃ t c', exec (.collStageStart id k) s = .next t ∧ t.coll id.toNat = some c' ∧ (c'.prog.getD k.toNat {}).started = true
          ∧ t.mem = s.mem ∧ t.regs = s.regs ∧ t.d = s.d)
      ∧ (∀ bs s1 n s2, mayStart c k.toNat st = true → st.op = 0 → sendLocked s c st = false →
        collRead s c (stageStart c st) (stageBytes st) = (.ok bs, s1) →
        sendAll c k.toNat st.peer st.tag (st.len / 64 + 1) 0 bs 0 s1 = .ok (n, s2) → 0 < n → s2.f.buffer = [] →
        s2.coll id.toNat = some c →
        ∃ t c', exec (.collStageStart id k) s = .next t ∧ t.coll id.toNat = some c' ∧ (c'.prog.getD k.toNat {}).started = true
          ∧ (c'.prog.getD k.toNat {}).frames = n ∧ t.mem = s2.mem))
  ∧ (∀ (id : BitVec 8) (c : Coll) (s : State), s.coll id.toNat = some c → c.id = id.toNat → Memory.wf s = true →
      ∃ t, exec (.collTimeout id) s = .next t ∧ t.coll id.toNat = none
        ∧ t.fld .aflCollCnt 0 0 48 16 = min 65535 (s.fld .aflCollCnt 0 0 48 16 + 1) ∧ t.mem = s.mem
        ∧ (∀ r, collRun s c = some r → ∀ x ∈ t.d.tack, sameRun x r = false))

/-- Frames for this member (R420, R430, R431): a DATA frame that every row of Table 11-8 accepts is stored where its stage
says, as it came or combined with the local elements on the side that LEFT gives (R432), or lands in its girth's buffer (R433), and is
counted in RECV (R435); its collective's timer restarts (R442); an OPEN is heard from its child; OPEN_RESULT with AGREE = 1 lets the collective go on, with 0 it
ends, and nothing is stored. -/
def Obligations.FramesReachTheirCollective : Prop :=
  ∀ (p : Fin 12) (f : Frame) (c : Coll) (s : State), (s.port p.val).st = .up → (s.port p.val).nak = false →
    isLocal s p.val f = true → acceptFrame f = .ok → s.f.buffer = [] → s.f.ended = [] → s.coll f.coll = some c → frameMisfits c f = false → c.id = f.coll →
    Memory.wf s = true →
    frameLocked s c f = false →
    (∀ k st, f.type = 1 → f.w3 = c.stamp → stageFor c f = some k → c.stages[k]? = some st → c.use = .routine →
      c.agree = some true → (c.prog.getD k {}).started = true →
      let a := c.buf + stageStart c st + f.offset
      let plain : Bool := st.op == 1 || (st.op == 3 && st.nocomb)
      let l := s.bytesAt a (64 * f.len)
      let v := if plain then f.payload else if st.left then combineBytes c f.payload l else combineBytes c l f.payload
      let b := f.w1.toNat % 2
      let counted := fun t : State => 2 ≤ f.sched → t.reg .aflStepTag b 0 = f.w1
        ∧ t.reg .aflStepRecv b 0 = (if s.reg .aflStepTag b 0 = f.w1 then s.reg .aflStepRecv b 0 else 0) + frameSum f
      (plain = false → Readable s .ddma a (64 * f.len)) →
      (st.op ≠ 3 → a + v.length ≤ 2 ^ 40 → denied s .ddma true a v.length = none →
        ∃ t, exec (.dataFrameReceived p f) s = .next t ∧ BytesAre t a v ∧ counted t ∧ t.a = s.a)
      ∧ (st.op = 3 → st.fwd = 0xFFF → landedBytes s p.val + 64 * f.len ≤ 2097152 →
        let x := landingOf s c k st p.val
        ∃ t c', exec (.dataFrameReceived p f) s = .next t ∧ t.coll f.coll = some c' ∧ c'.timer = s.time
          ∧ { x with grad := putBytes x.grad f.offset v, got := markUnits x.got f } ∈ t.f.landing ∧ counted t ∧ t.a = s.a))
    ∧ (f.type = 2 → c.heard.length + 1 < c.children.length →
      ∃ t c', exec (.openFrameReceived p f) s = .next t ∧ t.coll f.coll = some c'
        ∧ c'.heard = c.heard ++ [(f.srcRole, wordAt f.payload 0, wordAt f.payload 8)] ∧ c'.timer = s.time ∧ t.mem = s.mem ∧ t.d = s.d)
    ∧ (f.type = 3 → bit (wordAt f.payload 0) 0 = true → c.children = [] → (∃ x ∈ c.prog, x.done = false) →
      ∃ t c', exec (.openResultReceived p f) s = .next t ∧ t.coll f.coll = some c' ∧ c'.agree = some true ∧ t.mem = s.mem)
    ∧ (f.type = 3 → bit (wordAt f.payload 0) 0 = false → c.children = [] → c.use = .routine →
      ∃ t, exec (.openResultReceived p f) s = .next t ∧ t.coll f.coll = none ∧ t.mem = s.mem)

/-! Links (11). -/

/-- Port states (Table 11-2, R411, R414): loss of signal and 100 ms without training lead to DOWN, logged with their reason,
where the replay buffer's frames, the collectives' frames that wait in the port and those that it was receiving are discarded and counted
(R411, R423); RETRY leads back to a full training; a training ends in IDENT, or
after a fast retrain in UP with the unacknowledged blocks sent again and counted; RETRAIN starts a full training from DOWN and HELD and a
fast one from UP. -/
def Obligations.PortsTrainAndFall : Prop :=
  (∀ (p : Fin 12) (rx : List Frame) (e : Instr × Nat) (s : State), Memory.wf s = true →
    (e = (.lossOfSignal ⟨p, rx⟩, 2) ∧ ((s.port p.val).st = .ident ∨ (s.port p.val).st = .up ∨ (s.port p.val).st = .held)
      ∨ e = (.trainingTimeout ⟨p, rx⟩, 1) ∧ (s.port p.val).st = .train ∧ ((s.port p.val).fast = false → rx = [])) →
    let cut := rx.foldl (fun s f => cutFrame s p.val f) s
    ∃ t, exec e.1 s = .next t ∧ (t.port p.val).st = .down ∧ (t.port p.val).replay = []
      ∧ t.fld .aflCollCnt 0 0 0 16 = min 65535 (s.fld .aflCollCnt 0 0 0 16 + rx.length
          + ((cut.port p.val).replay.filter fun b : BitVec 16 × Option TxFrame => b.2.isSome).length
          + ((s.port p.val).queue.filter fun x : TxFrame => x.frame.ofColl).length)
      ∧ LogsOne s t 0x0502 (srcLink p.val) (BitVec.ofNat 64 e.2) 0 0 ∧ (∀ n, n ≠ p.val → (t.port n).st = (s.port n).st)
      ∧ t.mem = s.mem ∧ t.sdl = s.sdl ∧ (s.f.landing = [] → t.vec = s.vec) ∧ t.a = s.a ∧ s.time.toNat ≤ t.time.toNat)
  ∧ (∀ (p : Fin 12) (s : State), (s.port p.val).st = .down →
    ∃ t, exec (.portRetryExpiry p) s = .next t ∧ (t.port p.val).st = .train ∧ (t.port p.val).fast = false
      ∧ (t.port p.val).replay = [] ∧ (t.port p.val).nextSeq = 0 ∧ (t.port p.val).sentUnits = [0, 0, 0, 0]
      ∧ (t.port p.val).lanes = (s.port p.val).lanes ∧ (∀ n, n ≠ p.val → t.port n = s.port n) ∧ t.h = s.h ∧ t.mem = s.mem
      ∧ t.d = s.d ∧ t.f.colls = s.f.colls)
  ∧ (∀ (p : Fin 12) (s : State), Memory.wf s = true → (s.port p.val).st = .train →
    ((s.port p.val).fast = false →
      ∃ t, exec (.portTrained p) s = .next t ∧ (t.port p.val).st = .ident ∧ t.sent = s.sent ∧ t.regs = s.regs ∧ t.h = s.h
        ∧ t.mem = s.mem ∧ t.d = s.d)
    ∧ ((s.port p.val).fast = true →
      ∃ t newer, exec (.portTrained p) s = .next t ∧ (t.port p.val).st = .up ∧ (t.port p.val).fast = false
        ∧ (t.port p.val).replay = (s.port p.val).replay ∧ t.sent = newer ++ s.sent
        ∧ List.length newer = (s.port p.val).replay.length
            + ((s.port p.val).replay.filter fun b : BitVec 16 × Option TxFrame => b.2.isSome).length
        ∧ t.fld .aflPortErr p.val 0 8 32 = min (2 ^ 32 - 1) (s.fld .aflPortErr p.val 0 8 32 + (s.port p.val).replay.length)
        ∧ t.h = s.h ∧ t.mem = s.mem ∧ t.d = s.d))
  ∧ (∀ (q : Req) (p : Fin 12) (v w : Word) (s : State), accepts s q 0x21 = true → Memory.wf s = true → bit v 1 = true →
    writeWord .aflPortCtrl s.m.locked (s.reg .aflPortCtrl p.val 0) v = (w, false) →
    ((s.port p.val).st = .down ∨ (s.port p.val).st = .held →
      ∃ t, exec (.aflPortRetrain q p v) s = .next t ∧ (t.port p.val).st = .train ∧ (t.port p.val).fast = false
        ∧ t.reg .aflPortCtrl p.val 0 = w ∧ t.h.log = s.h.log ∧ t.mem = s.mem ∧ Answered s t q 0 [])
    ∧ ((s.port p.val).st = .up →
      ∃ t, exec (.aflPortRetrain q p v) s = .next t ∧ (t.port p.val).st = .train ∧ (t.port p.val).fast = true
        ∧ (t.port p.val).replay = (s.port p.val).replay ∧ t.reg .aflPortCtrl p.val 0 = w
        ∧ LogsOne s t 0x0501 (srcLink p.val) 0 0 0 ∧ t.mem = s.mem ∧ Answered s t q 0 [])
    ∧ ((s.port p.val).st = .off ∨ (s.port p.val).st = .train ∨ (s.port p.val).st = .ident →
      ∃ t, exec (.aflPortRetrain q p v) s = .next t ∧ t.reg .aflPortCtrl p.val 0 = w ∧ t.f = s.f ∧ t.mem = s.mem
        ∧ Answered s t q 0 []))

/-- A failing lane (R410, R418): with a usable spare the port asks for it at version 2 or 3 and stays UP, and at version 1
spares the lane by a fast retrain; while a switch is under way the lane waits for the next (DESIGN CHOICE, log entry 46: R418 does not say
what a second lane does); without a spare it makes a fast retrain, and at a second failure within 1 s enters DOWN. A
granted switch takes effect at a block whose BSEQ is a multiple of 64, and the next waiting lane is then dealt with. -/
def Obligations.FailedLanesAreSpared : Prop :=
  (∀ (p : Fin 12) (lane : Fin 8) (rx : List Frame) (s : State), Memory.wf s = true → (s.port p.val).st = .up →
    (laneWaits (s.port p.val) lane.val = true → exec (.laneFailure p ⟨lane, rx⟩) s = .next s) ∧
    (laneWaits (s.port p.val) lane.val = false →
    (∀ slot spare, freeSpare s p.val = some (slot, spare) →
      (2 ≤ (s.port p.val).version.toNat → (s.port p.val).sparing = none →
        ∃ t, exec (.laneFailure p ⟨lane, rx⟩) s = .next t ∧ (t.port p.val).st = .up
          ∧ (t.port p.val).sparing = some ⟨lane.val, slot, true, false⟩ ∧ (t.port p.val).lanes = (s.port p.val).lanes
          ∧ t.regs = s.regs ∧ t.h = s.h ∧ t.mem = s.mem ∧ t.d = s.d)
      ∧ (2 ≤ (s.port p.val).version.toNat → (s.port p.val).sparing ≠ none →
        ∃ t, exec (.laneFailure p ⟨lane, rx⟩) s = .next t ∧ (t.port p.val).st = .up
          ∧ (t.port p.val).again = (s.port p.val).again ++ [lane.val] ∧ (t.port p.val).sparing = (s.port p.val).sparing
          ∧ t.regs = s.regs ∧ t.h = s.h ∧ t.mem = s.mem ∧ t.d = s.d)
      ∧ ((s.port p.val).version.toNat < 2 →
        ∃ t, exec (.laneFailure p ⟨lane, rx⟩) s = .next t ∧ (t.port p.val).st = .train ∧ (t.port p.val).fast = true
          ∧ (t.port p.val).lanes = (s.port p.val).lanes.set lane.val (8 + spare)
          ∧ t.fld .aflPortErr p.val 0 40 8 = min 255 (s.fld .aflPortErr p.val 0 40 8 + 1)
          ∧ (∃ e ∈ t.h.log, e.code = 0x0503) ∧ (∃ e ∈ t.h.log, e.code = 0x0501) ∧ t.mem = s.mem ∧ t.d = s.d))
    ∧ (freeSpare s p.val = none →
      (sget none (s.port p.val).failed lane.val = none →
        ∃ t, exec (.laneFailure p ⟨lane, rx⟩) s = .next t ∧ (t.port p.val).st = .train ∧ (t.port p.val).fast = true
          ∧ sget none (t.port p.val).failed lane.val = some s.time ∧ (t.port p.val).replay = (s.port p.val).replay
          ∧ LogsOne s t 0x0501 (srcLink p.val) 0 0 0 ∧ t.mem = s.mem ∧ t.d = s.d)
      ∧ (∀ x : Word, sget none (s.port p.val).failed lane.val = some x → s.time.toNat < x.toNat + 1000000000 →
        ∃ t, exec (.laneFailure p ⟨lane, rx⟩) s = .next t ∧ (t.port p.val).st = .down
          ∧ LogsOne s t 0x0502 (srcLink p.val) 3 0 0 ∧ t.mem = s.mem))))
  ∧ (∀ (p : Fin 12) (rx : List Frame) (y : Sparing) (spare : Nat) (s : State), Memory.wf s = true → (s.port p.val).st = .up →
    (s.port p.val).sparing = some y → y.granted = true → (y.slot, spare) ∈ usableSpares s p.val →
    ((s.port p.val).nextSeq.toNat % 64 = 0 → (s.port p.val).again ≠ [] →
      ∃ t, exec (.hitlessSpareSwitch ⟨p, rx⟩) s = .next t ∧ (t.port p.val).lanes = (s.port p.val).lanes.set y.lane (8 + spare)
        ∧ (s.port p.val).lanes.getD y.lane y.lane ∈ (t.port p.val).dead ∧ (t.port p.val).again.length < (s.port p.val).again.length
        ∧ t.mem = s.mem)
    ∧ ((s.port p.val).nextSeq.toNat % 64 = 0 → (s.port p.val).again = [] →
      ∃ t, exec (.hitlessSpareSwitch ⟨p, rx⟩) s = .next t ∧ (t.port p.val).st = .up
        ∧ (t.port p.val).lanes = (s.port p.val).lanes.set y.lane (8 + spare)
        ∧ (s.port p.val).lanes.getD y.lane y.lane ∈ (t.port p.val).dead ∧ (t.port p.val).replay = (s.port p.val).replay
        ∧ (t.port p.val).sparing = none
        ∧ LogsOne s t 0x0503 (srcLink p.val)
          (place 8 4 spare ||| place 4 4 ((s.port p.val).lanes.getD y.lane y.lane) ||| place 0 3 y.lane) 0 0
        ∧ t.mem = s.mem ∧ t.d = s.d)
    ∧ ((s.port p.val).nextSeq.toNat % 64 ≠ 0 →
      exec (.hitlessSpareSwitch ⟨p, rx⟩) s = .refused (.notEnabled "HITLESS_SPARE_SWITCH")))

/-- IDENT and STAMP_UPDATE (Table 11-3, R412 to R414): IDENT goes out with the module's own identity and stamp; a received one
whose neighbour or version does not fit holds the port with its reason, one that fits records the neighbour and its stamp
and with ACCEPT = 1 brings the port UP; a stamp that differs from its complement is ignored and logged, a payload that does
not fit is discarded and counted; an UP port takes the stamp of a STAMP_UPDATE of the neighbour it accepts, and an IDENT or STAMP_UPDATE of another holds it (of a STAMP_UPDATE that is DEDUCED, log entry
69). -/
def Obligations.NeighboursAreJudged : Prop :=
  (∀ (p : Fin 12) (s : State), (s.port p.val).st = .ident ∨ (s.port p.val).st = .held → (s.port p.val).queue = [] →
    ∃ t f, exec (.identSend p) s = .next t ∧ f.kind = 1 ∧ f.payload = wordsBytes (identPayload s p.val (s.port p.val).accepted)
      ∧ (if s.m.gateOpen && !portsLocked s && canStart (s.port p.val) 0 f then
            ∃ ctl, t.sent = .frame p 0 f :: .control p ctl :: s.sent
          else t.sent = s.sent ∧ (t.port p.val).queue = [⟨0, f, none⟩])
      ∧ (t.port p.val).st = (s.port p.val).st ∧ t.regs = s.regs ∧ t.h = s.h ∧ t.mem = s.mem ∧ t.d = s.d)
  ∧ (∀ (p : Fin 12) (f : Frame) (s : State), Memory.wf s = true → f.type = 4 → acceptFrame f = .ok →
    (s.port p.val).nak = false →
    let w := wordAt f.payload 0
    let stamp := wordAt f.payload 8
    let c : Instr := if f.kind = 2 then .stampUpdateReceived p f else .identReceived p f
    let record := fun t : State => t.reg .aflNeighStamp p.val 0 = stamp ∧ t.reg .aflNeighStampInv p.val 0 = ~~~stamp
      ∧ t.fld .aflNeighId p.val 0 0 12 = field w 36 12 ∧ t.fld .aflNeighId p.val 0 12 4 = field w 32 4
      ∧ t.fld .aflNeighId p.val 0 24 1 = 1
      ∧ (stamp ≠ s.reg .aflStamp 0 0 → ∃ e ∈ t.h.log, e.code = 0x0506 ∧ e.p0 = stamp ∧ e.p1 = s.reg .aflStamp 0 0)
    ((s.port p.val).st = .ident → f.kind = 1 → ctrlPayloadFits f = true → complOk stamp (wordAt f.payload 16) = true →
      (neighbourFits s p.val w = false →
        ∃ t, exec c s = .next t ∧ (t.port p.val).st = .held ∧ (t.port p.val).heldReason = 2 ∧ t.mem = s.mem
          ∧ ((s.port p.val).queue = [] → t.regs = s.regs) ∧ (∃ e ∈ t.h.log, e.code = 0x0504))
      ∧ (neighbourFits s p.val w = true → agreeVersion s w = none →
        ∃ t, exec c s = .next t ∧ (t.port p.val).st = .held ∧ (t.port p.val).heldReason = 1 ∧ t.h = s.h
          ∧ ((s.port p.val).queue = [] → t.regs = s.regs) ∧ t.mem = s.mem)
      ∧ (∀ v, neighbourFits s p.val w = true → agreeVersion s w = some v →
        ∃ t, exec c s = .next t ∧ record t ∧ (t.port p.val).accepted = true ∧ t.mem = s.mem
          ∧ (bit w 21 = true → (t.port p.val).st = .up ∧ (t.port p.val).version = BitVec.ofNat 2 v
              ∧ ∃ e ∈ t.h.log, e.code = 0x0500)
          ∧ (bit w 21 = false → (t.port p.val).st = .ident)))
    ∧ ((s.port p.val).st = .up → (f.kind = 1 ∨ f.kind = 2) → ctrlPayloadFits f = true → complOk stamp (wordAt f.payload 16) = true →
      (neighbourFits s p.val w = true → (f.kind = 1 → agreeVersion s w ≠ none) →
        ∃ t, exec c s = .next t ∧ record t ∧ (t.port p.val).st = .up ∧ t.sent.length ≤ s.sent.length + 4 ∧ t.mem = s.mem)
      ∧ (neighbourFits s p.val w = true → f.kind = 1 → agreeVersion s w = none →
        ∃ t, exec c s = .next t ∧ (t.port p.val).st = .held ∧ (t.port p.val).heldReason = 1 ∧ t.h = s.h ∧ t.mem = s.mem)
      ∧ (neighbourFits s p.val w = false →
        ∃ t, exec c s = .next t ∧ (t.port p.val).st = .held ∧ (t.port p.val).heldReason = 2 ∧ t.mem = s.mem
          ∧ ((s.port p.val).queue = [] → t.regs = s.regs) ∧ (∃ e ∈ t.h.log, e.code = 0x0504)))
    ∧ ((s.port p.val).st = .up → (f.kind = 1 ∨ f.kind = 2) → ctrlPayloadFits f = true →
      complOk stamp (wordAt f.payload 16) = false →
      ∃ t, exec c s = .next t ∧ (t.port p.val).st = .up ∧ t.regs = s.regs ∧ t.mem = s.mem
        ∧ LogsOne s t 0x0C00 (srcLink p.val) 8 stamp (wordAt f.payload 16))
    ∧ ((s.port p.val).st = .up → (f.kind ≠ 1 ∧ f.kind ≠ 2 ∨ ctrlPayloadFits f = false) →
      ∃ t, exec c s = .next t ∧ (t.port p.val).st = .up ∧ t.h = s.h ∧ t.mem = s.mem ∧ t.sent = s.sent
        ∧ t.fld .aflCollCnt 0 0 0 16 = min 65535 (s.fld .aflCollCnt 0 0 0 16 + 1)))

/-- Blocks (R415, R416): a bad block sets NAK; the good block that was due clears it, its ACK takes blocks out of the replay
buffer and its CREDIT is the peer's; under NAK everything left is sent again and counted, and the eighth NAK in succession
for one BSEQ makes a fast retrain. That each block received is answered by at most one sent is the model's (DESIGN CHOICE, log entry 17). -/
def Obligations.BlocksAreRetried : Prop :=
  (∀ (p : Fin 12) (ctl : BitVec 80) (s : State), carriesBlocks (s.port p.val) = true →
    ∃ t, exec (.linkBlockReceived p false ctl) s = .next t ∧ (t.port p.val).nak = true
      ∧ (t.port p.val).rxSeq = (s.port p.val).rxSeq ∧ (t.port p.val).peerFreed = (s.port p.val).peerFreed ∧ t.regs = s.regs
      ∧ t.h = s.h ∧ t.mem = s.mem ∧ t.d = s.d ∧ t.f.colls = s.f.colls)
  ∧ (∀ (p : Fin 12) (ctl : BitVec 80) (s : State), Memory.wf s = true → carriesBlocks (s.port p.val) = true →
    (s.port p.val).peerFreed.length = 4 →
    let w : Word := BitVec.setWidth 64 ctl
    let ack := BitVec.ofNat 16 (field w 48 16)
    let left := (s.port p.val).replay.filter fun b : BitVec 16 × Option TxFrame => decide (2 ^ 15 ≤ (ack - b.1).toNat)
    let seq : BitVec 16 := BitVec.ofNat 16 (ctl.toNat / 2 ^ 64)
    (bit w 47 = false →
      ∃ t, exec (.linkBlockReceived p true ctl) s = .next t
        ∧ (seq = (s.port p.val).rxSeq + 1 → (t.port p.val).rxSeq = seq ∧ (t.port p.val).nak = false)
        ∧ (seq ≠ (s.port p.val).rxSeq + 1 → (t.port p.val).rxSeq = (s.port p.val).rxSeq
            ∧ (t.port p.val).nak = (s.port p.val).nak)
        ∧ (∃ own, (t.port p.val).replay = left ++ own ∧ List.length own ≤ 1)
        ∧ ((t.port p.val).peerFreed.getD (field w 44 2) 0).toNat = field w 28 16 ∧ t.regs = s.regs ∧ t.h = s.h
        ∧ t.mem = s.mem ∧ t.d = s.d)
    ∧ (bit w 47 = true → (s.port p.val).st = .up →
      ∃ t, exec (.linkBlockReceived p true ctl) s = .next t
        ∧ t.mem = s.mem ∧ t.d = s.d ∧ (∃ own, (t.port p.val).replay = left ++ own ∧ List.length own ≤ 1)
        ∧ t.fld .aflPortErr p.val 0 8 32 = min (2 ^ 32 - 1) (s.fld .aflPortErr p.val 0 8 32 + left.length)
        ∧ ((s.port p.val).naks = some (ack + 1, 7) →
            (t.port p.val).st = .train ∧ (t.port p.val).fast = true ∧ ∃ e ∈ t.h.log, e.code = 0x0501)
        ∧ ((s.port p.val).naks = none → (t.port p.val).st = .up ∧ (t.port p.val).naks = some (ack + 1, 1) ∧ t.h = s.h)))

/-- A frame leaves on a VC only with credit for the whole frame, and tells whether its member is reined, with a right CRC
(R417, R440); a frame for another member leaves as it came by the link that its route entry names, or waits there, and one
without a way is discarded and counted (R423). The port's step becomes that of the collective frame it handles, and the totals of the step
before are published (R361). That each frame leaves in one block, with one control word, is the model's (DESIGN CHOICE, log entry 17). -/
def Obligations.FramesLeaveAndPass : Prop :=
  (∀ (p : Fin 12) (vc : Fin 4) (x : TxFrame) (s : State), s.m.gateOpen = true → portsLocked s = false →
    firstOn (s.port p.val) vc.val = some x →
    (canStart (s.port p.val) vc.val x.frame = true →
      ∃ t f ctl, exec (.frameTransmit p vc) s = .next t ∧ .frame p vc.val f ∈ t.sent ∧ f.payload = x.frame.payload ∧ f.vc = vc.val
        ∧ field f.w7 0 32 = f.check ∧ bit f.w0 57 = (s.reined && (s.port p.val).version != 1)
        ∧ (x.owner = none → t.sent = .frame p vc.val f :: .control p ctl :: s.sent ∧ t.mem = s.mem ∧ t.d = s.d ∧ t.h = s.h
            ∧ (f.ofColl = false → t.regs = s.regs)
            ∧ (f.ofColl = true → (t.port p.val).step = some f.w1
                ∧ ∀ old, Memory.wf s = true → (s.port p.val).step = some old → old ≠ f.w1 → t.reg .aflPortPtStep p.val 0 = old)
            ∧ (t.port p.val).nextSeq = (s.port p.val).nextSeq + 1
            ∧ (t.port p.val).sentUnits = (s.port p.val).sentUnits.modify vc.val (· + BitVec.ofNat 16 f.units)))
    ∧ (canStart (s.port p.val) vc.val x.frame = false →
      exec (.frameTransmit p vc) s = .refused (.notEnabled "FRAME_TRANSMIT")))
  ∧ (∀ (p : Fin 12) (f : Frame) (s : State), Memory.wf s = true → (s.port p.val).st = .up → (s.port p.val).nak = false →
    f.type ≠ 0 → f.type ≠ 4 → (s.port p.val).transit = [] →
    (∀ o v, passOf s p.val f = .go o v → o < 12 →
      ∃ t g ctl, exec (.frameForward p (some f)) s = .next t
        ∧ t.sent = .frame (Fin.ofNat 12 o) v g :: .control (Fin.ofNat 12 o) ctl :: s.sent
        ∧ g = { f with w0 := setField f.w0 58 2 v } ∧ t.mem = s.mem ∧ t.d = s.d ∧ t.h = s.h ∧ (f.ofColl = false → t.regs = s.regs)
        ∧ (f.ofColl = true → (t.port p.val).step = some f.w1 ∧ (t.port o).step = some f.w1))
    ∧ (passOf s p.val f = .wait →
      ∃ t, exec (.frameForward p (some f)) s = .next t ∧ (t.port p.val).transit = [f] ∧ t.sent = s.sent ∧ t.mem = s.mem
        ∧ t.d = s.d ∧ t.h = s.h ∧ (f.ofColl = false → t.regs = s.regs))
    ∧ (∀ log, passOf s p.val f = .drop log →
      ∃ t, exec (.frameForward p (some f)) s = .next t ∧ t.mem = s.mem ∧ t.d = s.d
        ∧ t.fld .aflCollCnt 0 0 0 16 = min 65535 (s.fld .aflCollCnt 0 0 0 16 + 1)
        ∧ (log = false → t.h = s.h ∧ t.sent = s.sent)
        ∧ (log = true → sget none s.f.dropLog p.val = none →
            LogsOne s t 0x0508 (srcLink p.val) (place 16 12 f.dst ||| place 0 4 p.val) 1 0)))

/-- Mirror copies (R393, R438, R526): a frame from the copy's source is written at its OFFSET of the destination's ranges,
one from any other member waits for the lock, uncredited; each end ends with its digest, or COPY_DIGEST_MISMATCH where the source
finds them to differ; a copy without progress for TIMEOUT ends with COPY_TIMEOUT, and so does one whose frames wait for the lock that
another copy holds: they are discarded and their credits returned. The class and DETAIL of a copy's accesses are
the model's (DESIGN CHOICE, log entry 23). -/
def Obligations.MirrorCopiesMoveTheShard : Prop :=
  (∀ (p : Fin 12) (f : Frame) (mirror : Bool) (s : State), (s.port p.val).st = .up → (s.port p.val).nak = false → f.type = 5 →
    isLocal s p.val f = true → acceptFrame f = .ok → s.f.copyHeld = [] → Memory.wf s = true →
    ((∃ m, s.f.copy = some m ∧ (m.source = true ∨ m.peer ≠ f.src)) ∨ (s.f.copy = none ∧ takeCopy s f.src mirror = none) →
      ∃ t, exec (.mcopyFrameReceived p ⟨f, mirror⟩) s = .next t ∧ t.f.copyHeld = [⟨p.val, f, mirror, s.time⟩] ∧ t.mem = s.mem
        ∧ t.f.copy = s.f.copy ∧ (t.port p.val).freed = (s.port p.val).freed ∧ t.regs = s.regs ∧ t.h = s.h ∧ t.d = s.d)
    ∧ (∀ m a n s1, s.f.copy = some m → m.source = false → m.peer = f.src → copyRanges (returnCredit s p.val f) m.dstMirror = (some [(a, n)], s1) →
      f.offset + f.payload.length ≤ n → 0 < f.payload.length → a + n ≤ 2 ^ 40 →
      denied s1 .ddma true (a + f.offset) f.payload.length = none →
      (∀ l ∈ linesOf (a + f.offset) f.payload.length, s1.lineMeta l = {}) →
      ∃ t c, exec (.mcopyFrameReceived p ⟨f, mirror⟩) s = .next t ∧ BytesAre t (a + f.offset) f.payload
        ∧ BytesKeptBut s1 t (a + f.offset) f.payload.length ∧ t.f.copy = some c
        ∧ c.done = max m.done (f.offset + f.payload.length) ∧ t.d = s.d))
  ∧ (∀ (peer own : Word) (m : MirrorCopy) (rs : List (Nat × Nat)) (s s1 : State), s.f.copy = some m → s.f.copyHeld = [] →
    s.m.rung = .none →
    (copyRanges s (if m.source then m.srcMirror else m.dstMirror)).1 = some rs → totalBytes rs ≤ m.done →
    copyDigest s (if m.source then m.srcMirror else m.dstMirror) = (.ok (some own), s1) →
    ∃ t, exec (.mirrorCopyDone peer) s = .next t ∧ t.f.copy = none ∧ t.mem = s1.mem
      ∧ ∀ (a : Act) (n : BitVec 32), copyAct s = some a → a.ticket = some n → (s.ticket n).isSome = true →
        TicketDone t n (if m.source = true ∧ own ≠ peer then 0x0807 else 0) own)
  ∧ (∀ (m : MirrorCopy) (s : State), s.f.copy = some m → s.f.copyHeld = [] → s.m.rung = .none →
    ∃ t, exec (.copyTimeout m.source) s = .next t ∧ t.f.copy = none ∧ t.mem = s.mem ∧ t.regs = s.regs
      ∧ ∀ (a : Act) (n : BitVec 32), copyAct s = some a → a.ticket = some n → (s.ticket n).isSome = true →
        TicketDone t n 0x0808 0)
  ∧ (∀ (src : Nat) (s : State), s.f.copy = none → s.f.copyHeld ≠ [] → (∀ x ∈ s.f.copyHeld, x.frame.src = src) →
    ∃ t, exec (.copyTimeout false) s = .next t ∧ t.f.copyHeld = [] ∧ t.f.copy = none ∧ t.mem = s.mem ∧ t.regs = s.regs)
  ∧ (∀ (m : MirrorCopy) (x : HeldCopy) (s : State), s.f.copy = some m → firstWaiting s.f.copyHeld = some x →
    (∀ y ∈ s.f.copyHeld, m.source = true ∨ y.frame.src ≠ m.peer) → (m.source = true ∨ x.time.toNat < m.timer.toNat) →
    ∃ t, exec (.copyTimeout false) s = .next t ∧ t.f.copy = some m
      ∧ t.f.copyHeld = (s.f.copyHeld.filter fun y : HeldCopy => y.frame.src != x.frame.src) ∧ t.mem = s.mem ∧ t.regs = s.regs)

/-! Maintenance (14, 07). -/

/-- KST_LOAD, AFL_ROUTE_LOAD, MNT_PPR and MIRROR_COPY (R520 to R525): one that conflicts with nothing running or queued is
judged and starts, with ACCEPTED; one that conflicts waits, with QUEUED, and the seventeenth that would is refused with STATE;
while a rung is waited for or runs every one is refused. A MIRROR_COPY of a member whose CFG_ROLE differs from its complement ends with
COMPLEMENT and starts nothing (R29; DESIGN CHOICE, log entry 65). -/
def Obligations.MaintenanceStartsOrWaits : Prop :=
  ∀ (q : Req) (d : Fin 4) (b : Fin 2) (gen : BitVec 16) (a : BitVec 40) (n : BitVec 20) (m : BitVec 23) (k : Fin 32) (e : Fin 16)
    (x y : Bool) (dest : BitVec 12),
    ∀ z ∈ [(Instr.kstLoad q d b gen a n, 0x60, Activity.kernelLoad d b gen a n), (Instr.aflRouteLoad q a m, 0x61, Activity.routeLoad a m),
        (Instr.mntPpr q k e x, 0x80, Activity.rowRepair k e x), (Instr.mirrorCopy q dest x y, 0x73, Activity.mirrorCopy dest x y)],
    ∀ s : State, accepts s q z.2.1 = true →
    (z.2.1 = 0x73 → regHeld s .cfgRole = false →
      ∃ t, exec z.1 s = .next t ∧ Answered s t q stBrcComplement [] ∧ t.maint = s.maint ∧ DatapathKept s t
        ∧ (∃ e ∈ t.h.log, e.code = 0x0C00))
    ∧ ((z.2.1 = 0x73 → regHeld s .cfgRole = true) →
    (rungComes s = false → clashes s (s.maint.running ++ s.maint.queued) z.2.2 = false →
      (∀ s1, startRefusal (heard s q) z.2.2 = (none, s1) →
        ∃ t, exec z.1 s = .next t ∧ Ticketed s t q 1 ∧ t.maint.queued = s.maint.queued
          ∧ t.maint.running = s.maint.running ++ [⟨some s.h.nextTicket, none, z.2.2, s.time⟩] ∧ t.mem = s1.mem
          ∧ t.a = s1.a ∧ t.regs = s1.regs
          ∧ (∀ c g w h o, z.2.2 = .kernelLoad c g w h o → (t.bank c.val g.val).st = .loading)
          ∧ (∀ c, z.2.2 = .mirrorCopy c x y → ∃ v, t.f.copy = some v ∧ v.source = true ∧ v.peer = c.toNat ∧ v.done = 0))
      ∧ (∀ st s1, startRefusal (heard s q) z.2.2 = (some st, s1) →
        ∃ t, exec z.1 s = .next t ∧ Answered s1 t q st [] ∧ t.maint = s.maint ∧ t.mem = s1.mem ∧ t.regs = s1.regs))
    ∧ (rungComes s = false → clashes s (s.maint.running ++ s.maint.queued) z.2.2 = true → s.maint.queued.length < 16 →
      ∃ t, exec z.1 s = .next t ∧ Ticketed s t q 2 ∧ t.maint.running = s.maint.running
        ∧ t.maint.queued = s.maint.queued ++ [⟨some s.h.nextTicket, none, z.2.2, s.time⟩] ∧ DatapathKept s t ∧ t.regs = s.regs)
    ∧ (rungComes s = true ∨ clashes s (s.maint.running ++ s.maint.queued) z.2.2 = true ∧ 16 ≤ s.maint.queued.length →
      ∃ t, exec z.1 s = .next t ∧ Answered s t q 0x0105 [] ∧ DatapathKept s t ∧ ModuleKept s t ∧ t.regs = s.regs))

/-- The oldest queued activity that clashes with none running starts, or its own checks end it (R522), one that a tack routine
asked for like one of a command; MNT_CANCEL ends a queued one with STATE and DETAIL bit 0, and refuses one that has started
(R524); the tack's KST_LOAD starts a load of its own die, or waits for what it clashes with (R194). The inline arguments of
the tack routine KST_LOAD and the ticket 0 that names a load without one are the model's (DESIGN CHOICE, log entry 22). -/
def Obligations.QueuedActivitiesStartOrEnd : Prop :=
  (∀ (n : BitVec 32) (a : Act) (rest : List Act) (s : State), s.maint.queued = a :: rest → a.ticket.getD 0 = n →
    clashes s s.maint.running a.what = false →
    (∀ s1, startRefusal { s with maint := { s.maint with queued := rest } } a.what = (none, s1) →
      ∃ t, exec (.mntActivityStart n) s = .next t ∧ t.maint.queued = rest
        ∧ t.maint.running = s.maint.running ++ [⟨a.ticket, a.tack, a.what, s.time⟩] ∧ t.mem = s1.mem ∧ t.regs = s1.regs)
    ∧ (∀ st s1, a.ticket = some n → a.tack = none → (s.ticket n).isSome = true → startRefusal { s with maint := { s.maint with queued := rest } } a.what = (some st, s1) →
      ∃ t, exec (.mntActivityStart n) s = .next t ∧ t.maint.queued = rest ∧ t.maint.running = s.maint.running
        ∧ TicketDone t n st 0 ∧ t.mem = s1.mem))
  ∧ (∀ (q : Req) (n : BitVec 32) (s : State), accepts s q 0x81 = true →
    (∀ a, (s.maint.queued.find? fun a : Act => a.ticket == some n) = some a → (s.ticket n).isSome = true → a.tack = none →
      ∃ t, exec (.mntCancel q n) s = .next t ∧ t.maint.queued = s.maint.queued.erase a ∧ t.maint.running = s.maint.running
        ∧ TicketDone t n 0x0105 1 ∧ Answered s t q 0 [] ∧ DatapathKept s t ∧ t.regs = s.regs)
    ∧ (∀ k, (∀ a ∈ s.maint.queued, a.ticket ≠ some n) → s.ticket n = some k → isMaintOpcode k.opcode.toNat = true →
      ∃ t, exec (.mntCancel q n) s = .next t ∧ t.maint = s.maint ∧ Answered s t q 0x0902 [])
    ∧ ((∀ a ∈ s.maint.queued, a.ticket ≠ some n) → s.ticket n = none →
      ∃ t, exec (.mntCancel q n) s = .next t ∧ t.maint = s.maint ∧ Answered s t q 0x0107 []))
  ∧ (∀ (d : Fin 4) (r : TackRun) (s s1 : State), startedRun s d.val rtKstLoad = some r → loadRun s d.val = none →
    rungComes s = false → loadFits (runWords s r) = true →
    let x := loadArgs (runWords s r) d.val
    (clashes s (s.maint.running ++ s.maint.queued) x = false → startRefusal (setRun s r .kernelLoad) x = (none, s1) →
      ∃ t, exec (.tackKstLoad d) s = .next t ∧ t.maint.queued = s.maint.queued ∧ t.mem = s.mem ∧ t.regs = s.regs ∧ t.h = s.h
        ∧ t.maint.running = s.maint.running ++ [⟨none, some d.val, x, s.time⟩] ∧ (loadRun t d.val).isSome = true)
    ∧ (clashes s (s.maint.running ++ s.maint.queued) x = true → s.maint.queued.length < 16 →
      ∃ t, exec (.tackKstLoad d) s = .next t ∧ t.maint.running = s.maint.running ∧ t.mem = s.mem ∧ t.regs = s.regs ∧ t.h = s.h
        ∧ t.maint.queued = s.maint.queued ++ [⟨none, some d.val, x, s.time⟩] ∧ (loadRun t d.val).isSome = true))

/-- A kernel load that ends leaves its bank SEALED with its image and generation, or EMPTY where the image is not good; a
routing load replaces the routing image as a whole, or changes nothing; both recompute the stamp with its complement
(R194, R422, R427; with a value of the stamp that differs from its complement the stamp stays, DESIGN CHOICE, log entry 65). A row repair clears its candidate and spends its resource (R273). Each ends its ticket. -/
def Obligations.MaintenanceEndsWithItsEffect : Prop :=
  (∀ (d : Fin 4) (b : Fin 2) (gen : BitVec 16) (x : BitVec 40) (len : BitVec 20) (n : BitVec 32) (since : Word) (img : Bytes)
    (s s1 : State), s.maint.running = [⟨some n, none, .kernelLoad d b gen x len, since⟩] → s.m.rung = .none → Lists.wf s = true →
    (s.ticket n).isSome = true → memRead s .fetch {} x.toNat len.toNat = (.ok img, s1) → Memory.wf s = true →
    firstUnheld s stampValues = none →
    ∃ t, exec (.kstLoadDone d b) s = .next t ∧ t.maint.running = [] ∧ t.mem = s1.mem
      ∧ t.reg .aflStampInv 0 0 = ~~~(t.reg .aflStamp 0 0)
      ∧ (kernelGood img = true → t.bank d.val b.val = ⟨.sealed, gen, img⟩ ∧ TicketDone t n 0 0)
      ∧ (kernelGood img = false → t.bank d.val b.val = {} ∧ TicketDone t n 0x0703 0))
  ∧ (∀ (x : BitVec 40) (len : BitVec 23) (n : BitVec 32) (since : Word) (img : Bytes) (s s1 : State),
    s.maint.running = [⟨some n, none, .routeLoad x len, since⟩] → s.m.rung = .none → (s.ticket n).isSome = true →
    fabricBusy s = false → memRead s .fetch {} x.toNat len.toNat = (.ok img, s1) → Memory.wf s = true →
    (routeRefusal s1 img = none → firstUnheld s stampValues = none →
      ∃ t, exec .routingLoadDone s = .next t ∧ t.maint.running = [] ∧ t.c.route = img ∧ TicketDone t n 0 0 ∧ t.mem = s1.mem
        ∧ t.reg .aflStampInv 0 0 = ~~~(t.reg .aflStamp 0 0))
    ∧ (∀ st, routeRefusal s1 img = some st →
      ∃ t, exec .routingLoadDone s = .next t ∧ t.maint.running = [] ∧ t.c = s.c ∧ TicketDone t n st 0 ∧ t.mem = s1.mem
        ∧ t.f = s.f ∧ t.regs = s1.regs))
  ∧ (∀ (k : Fin 32) (e : Fin 16) (hard : Bool) (n : BitVec 32) (since : Word) (s : State),
    s.maint.running = [⟨some n, none, .rowRepair k e hard, since⟩] → s.m.rung = .none → (s.ticket n).isSome = true →
    Memory.wf s = true → s.f.copyHeld = [] →
    let l := field (s.reg .hbmPprCand k.val e.val) 6 34
    ∃ t, exec (.pprDone k) s = .next t ∧ t.maint.running = [] ∧ TicketDone t n 0 0 ∧ t.reg .hbmPprCand k.val e.val = 0
      ∧ bit (t.reg .hbmPprAvail k.val 0) (availBit s l) = false
      ∧ (s.mem.lines = [] → ∀ x, t.byte x = s.byte x)
      ∧ (∃ y ∈ t.h.log, y.code = 0x0208 ∧ y.p0 = BitVec.ofNat 64 (64 * l)) ∧ t.d = s.d)

/-- Scrub takes the next line of a stack, writes it back corrected and counted where it can be corrected, poisons one it cannot read, and
counts the pass when it ends (R268 to R271). Temperature reads set refresh multiplier and throttle by Table 7-6, never below MIN_MULT, and the third
failure in a row of a stack sets 4× and the throttle (R275, R277). -/
def Obligations.ScrubAndRefreshFollowTheStack : Prop :=
  (∀ (n : Fin 32) (s : State), Memory.wf s = true → Lists.wf s = true → bit (s.reg .hbmScrubCtrl 0 0) 0 = true → s.domainOn (60 + n.val / 8) = true →
    stackLocked s n.val = false →
    let pos := s.fld .hbmScrubStat n.val 0 0 32
    let l := stackLine s n.val (pos % 2 ^ 29) / 64
    ∃ t, exec (.scrubLine n) s = .next t ∧ t.d = s.d ∧ t.a = s.a
      ∧ t.fld .hbmScrubStat n.val 0 0 32 = (if pos + 1 < 2 ^ 29 then pos + 1 else 0)
      ∧ (pos + 1 < 2 ^ 29 → t.fld .hbmScrubStat n.val 0 32 32 = s.fld .hbmScrubStat n.val 0 32 32)
      ∧ (pos + 1 = 2 ^ 29 → t.fld .hbmScrubStat n.val 0 32 32 = (s.fld .hbmScrubStat n.val 0 32 32 + 1) % 2 ^ 32
          ∧ sget [] t.mem.tracker n.val = [])
      ∧ (s.lineMeta l = {} → s.mem.sbg = [] → (∀ b, t.byte b = s.byte b) ∧ t.mem.lines = s.mem.lines ∧ t.h = s.h)
      ∧ (∀ syms d m, decodeLine (s.line l) (s.lineMeta l) = (.corrected syms, d, m) → s.mem.sbg = [] → s.mem.under = [] →
          let k := stackOf s (64 * l)
          t.line l = d ∧ t.lineMeta l = m
            ∧ t.fld .hbmEccCnt k 0 32 32 = min (2 ^ 32 - 1) (s.fld .hbmEccCnt k 0 32 32 + 1))
      ∧ ((decodeLine (s.line l) (s.lineMeta l)).1 = .uncorrectable → s.mem.sbg = [] → s.mem.under = [] →
          (t.lineMeta l).poison = true ∧ (t.lineMeta l).sym = [] ∧ ∃ e ∈ t.h.log, e.code = 0x0202 ∧ e.p0 = BitVec.ofNat 64 (64 * l)))
  ∧ (∀ (temps : List (Option (BitVec 8))) (s : State), Memory.wf s = true → Lists.wf s = true → temps.length = 32 → (∀ k, k < 4 → s.domainOn (60 + k) = true) →
    ∃ t, exec (.hbmTempRead temps) s = .next t ∧ t.mem = s.mem ∧ t.d = s.d ∧ t.f = s.f
      ∧ (∀ (n : Nat) (v : BitVec 8), temps[n]? = some (some v) →
          t.fld .hbmRefreshMult n 0 0 3 = nextMult (if bit (s.reg .hbmRefreshMult n 0) 4 then 1 else s.fld .hbmRefreshMult n 0 0 3)
            (2 ^ s.fld .hbmRefreshMult n 0 8 2) (celsius v.toNat) % 8
          ∧ t.fld .hbmRefreshMult n 0 16 8 = v.toNat ∧ bit (t.reg .hbmRefreshMult n 0) 4 = false
          ∧ t.fld .hbmRefreshMult n 0 8 2 = s.fld .hbmRefreshMult n 0 8 2)
      ∧ (∀ n, temps[n]? = some none → sget 0 s.m.failedReads n = 2 →
          t.fld .hbmRefreshMult n 0 0 3 = 4 ∧ bit (t.reg .hbmRefreshMult n 0) 3 = true ∧ bit (t.reg .hbmRefreshMult n 0) 4 = true))

/-! Boot, configuration, firmware and rungs (14, 15). -/

/-- Power-on and boot (R505, R506, R531, R532, R568 to R570): input power with MATED seated, MOD_EN high, VIN within its limits for 10 ms and
2 s gone since the last removal powers domains 76 and 79 and starts boot, and no other does; a cause of removal while the stage is off makes
the 2 s begin again; without input power nothing is kept but the non-volatile stores; a slot that fails verification is logged and the other
tried, and with neither valid the module enters FW_RECOVERY, its ports sampling MEDIA_SEL; hardware training ends in WAIT_HOST
with every failed part recorded, the stacks' temperatures read and MEDIA_SEL sampled. Reset starts without power and with empty slots (DESIGN CHOICE, log entry 1). -/
def Obligations.BootEndsInWaitHost : Prop :=
  (∀ s : State, s.m.supplied = true ∨ s.m.input.mated = false ∨ s.m.input.modEn = false ∨ s.m.input.vinHeld < 10000000
      ∨ s.m.input.offFor < 2000000000 → exec .inputQualified s = .refused (.notEnabled "INPUT_QUALIFIED"))
  ∧ (∀ s : State, s.m.supplied = false →
    ∃ t, exec .inputPowerRemoval s = .next t ∧ t.m.supplied = false ∧ t.m.input.offFor = 0 ∧ t.m.input.vinHeld = 0 ∧ t.sec = s.sec
      ∧ t.mem = s.mem ∧ t.regs = s.regs)
  ∧ (∀ s : State, s.m.supplied = false → inputQualifies s.m.input = true → Memory.wf s = true →
    ∃ t, exec .inputQualified s = .next t ∧ t.m.supplied = true ∧ t.m.st = .boot ∧ t.m.bootStage = .verify
      ∧ t.domainOn 76 = true ∧ t.domainOn 79 = true ∧ t.m.lastRung = (if s.m.powerCode then 3 else 0) ∧ t.m.powerCode = false
      ∧ (∀ i w, 1 ≤ i → i < 4 → w < 6 → t.reg .secMeas i w = 0) ∧ t.mem = s.mem ∧ t.d = s.d ∧ t.h = s.h)
  ∧ (∀ s : State, s.m.supplied = true →
    ∃ t, exec .inputPowerRemoval s = .next t ∧ t.m.supplied = false ∧ t.m.input.offFor = 0 ∧ t.m.input.vinHeld = 0 ∧ (∀ k, t.domainOn k = false) ∧ t.d = {} ∧ t.f = {}
      ∧ t.mem.hbm = [] ∧ t.h = {} ∧ t.time = 0 ∧ t.sec.slot0 = s.sec.slot0 ∧ t.sec.slot1 = s.sec.slot1
      ∧ t.sec.sel0 = s.sec.sel0 ∧ t.sec.sel1 = s.sec.sel1 ∧ t.mem.pprHard = s.mem.pprHard ∧ t.mem.pprSoft = [])
  ∧ (∀ s : State, s.m.supplied = true → s.m.st = .boot → s.m.bootStage = .verify → Memory.wf s = true →
    let k := selectedSlot s
    (failingCheck s (s.slot k) = none →
      ∃ t, exec (.fwVerifyDone) s = .next t ∧ t.m.bootStage = .training ∧ t.fld .secStat 0 0 37 1 = k ∧ t.h = s.h)
    ∧ (∀ c, failingCheck s (s.slot k) = some c → failingCheck s (s.slot (1 - k)) = none →
      ∃ t, exec (.fwVerifyDone) s = .next t ∧ t.m.bootStage = .training ∧ t.fld .secStat 0 0 37 1 = 1 - k
        ∧ LogsOne s t 0x0B00 srcModule (BitVec.ofNat 64 k) (BitVec.ofNat 64 c) 0)
    ∧ (∀ c e, failingCheck s (s.slot k) = some c → failingCheck s (s.slot (1 - k)) = some e →
      ∃ t, exec (.fwVerifyDone) s = .next t ∧ t.m.st = .fwRecovery ∧ t.domainOn 77 = true ∧ t.domainOn 78 = true
        ∧ (∀ a, a < 2 → t.fld .ethPortStat a 0 3 1 = if s.m.mediaSel then 1 else 0)
        ∧ LogsOne s t 0x0B00 srcModule (BitVec.ofNat 64 k) (BitVec.ofNat 64 c) 0))
  ∧ (∀ (sf : BitVec 32) (df : BitVec 7) (bf : BitVec 18) (cr : Bool) (temps : List (Option (BitVec 8))) (s : State),
    s.m.supplied = true → s.m.st = .boot → s.m.bootStage = .training → Memory.wf s = true → temps.length = 32 →
    ∃ t, exec (.bootHwTrainingDone sf df bf ⟨cr, temps⟩) s = .next t ∧ t.m.st = .waitHost ∧ t.mem = s.mem
      ∧ (∀ a, a < 2 → t.fld .ethPortStat a 0 3 1 = if cr then 1 else 0)
      ∧ (∀ (n : Nat) (v : BitVec 8), temps[n]? = some (some v) → t.fld .hbmRefreshMult n 0 16 8 = v.toNat)
      ∧ t.reg .cfgBootStat 0 0 = (place 40 18 bf.toNat ||| place 32 7 df.toNat ||| place 0 32 sf.toNat)
      ∧ (t.m.hwFailed = false ↔ sf = 0 ∧ df = 0 ∧ bf = 0)
      ∧ (∀ k, 60 ≤ k → k < 79 → k ≠ 76 → t.domainOn k = true)
      ∧ (∀ n, n < 32 → sf.toNat.testBit n = true → ∃ e ∈ t.h.log, e.code = 0x0A00 ∧ e.srcKind = 4 ∧ e.srcIndex = BitVec.ofNat 12 n))

/-- Loading and committing a configuration (R506, R511 to R515): CFG_LOAD stages its bytes, offset 0 beginning a new image;
CFG_COMMIT enters COMMITTING, or at the first failing check of Table 14-8 returns to WAIT_HOST with its REASON and nothing
applied; a completed application enters RUNNING with the fields locked, counters at 0, LAST_RELEASED and UPD_FRONT at
s₀ − 1, the stirrups of powered domains in RUN at s₀ and the stamp published; a failed one returns to WAIT_HOST with no stirrup started,
HBM and the banks as the orders before the failure left them (R515; DESIGN CHOICE, log entry 71). -/
def Obligations.ConfigurationLoadsAndCommits : Prop :=
  (∀ (q : Req) (o : BitVec 32) (bs : Bytes) (s : State), accepts s q 0x40 = true → 1 ≤ bs.length → bs.length ≤ 8248 →
    o.toNat + bs.length ≤ 2 ^ 32 →
    (s.m.st = .waitHost → s.m.hwFailed = false → Lists.wf s = true →
      ∃ t, exec (.cfgLoad q o bs) s = .next t ∧ Answered s t q 0 [] ∧ t.regs = s.regs ∧ DatapathKept s t ∧ HostKeptBut q.port s t
        ∧ t.m = s.m ∧ (∀ i, i < bs.length → sget 0 t.c.staged (o.toNat + i) = bs.getD i 0
            ∧ sget false t.c.received (o.toNat + i) = true)
        ∧ (∀ x, x < o.toNat ∨ o.toNat + bs.length ≤ x →
            sget 0 t.c.staged x = (if o = 0 then 0 else sget 0 s.c.staged x)
            ∧ sget false t.c.received x = (if o = 0 then false else sget false s.c.received x)))
    ∧ (s.m.st ≠ .waitHost ∨ s.m.hwFailed = true →
      ∃ t, exec (.cfgLoad q o bs) s = .next t ∧ Answered s t q 0x0105 [] ∧ t.c = s.c))
  ∧ (∀ (q : Req) (s : State), accepts s q 0x41 = true → s.m.st = .waitHost → Memory.wf s = true →
    (commitFailure s q.port = none →
      ∃ t, exec (.cfgCommit q) s = .next t ∧ Ticketed s t q 1 ∧ t.m.st = .committing ∧ t.c.commit = some s.h.nextTicket
        ∧ t.regs = s.regs ∧ DatapathKept s t)
    ∧ (∀ r i, commitFailure s q.port = some (r, i) →
      let w := place 56 8 r ||| place 0 32 i
      ∃ t, exec (.cfgCommit q) s = .next t ∧ Ticketed s t q 1 ∧ t.m.st = .waitHost ∧ TicketDone t s.h.nextTicket 0x0500 w
        ∧ t.reg .cfgCommitLast 0 0 = w ∧ (∃ e ∈ t.h.log, e.code = 0x0A01 ∧ e.p0 = BitVec.ofNat 64 r ∧ e.p1 = BitVec.ofNat 64 i)
        ∧ DatapathKept s t ∧ t.c.staged = s.c.staged ∧ t.m.locked = s.m.locked))
  ∧ (∀ (n : BitVec 32) (s : State), s.m.st = .committing → s.c.commit = some n → (s.ticket n).isSome = true → Memory.wf s = true →
    Lists.wf s = true →
    (∃ t, exec (.commitComplete none) s = .next t ∧ t.m.st = .running ∧ t.m.locked = true ∧ TicketDone t n 0 0
      ∧ t.c.commit = none ∧ t.c.staged = [] ∧ t.c.received = []
      ∧ t.reg .aflStampInv 0 0 = ~~~(t.reg .aflStamp 0 0)
      ∧ t.reg .brcLastReleased 0 0 = t.reg .cfgStartStep 0 0 - 1 ∧ t.reg .brcLastReleasedInv 0 0 = ~~~(t.reg .cfgStartStep 0 0 - 1)
      ∧ t.reg .updFront 0 0 = t.reg .cfgStartStep 0 0 - 1 ∧ t.reg .updFrontInv 0 0 = ~~~(t.reg .cfgStartStep 0 0 - 1)
      ∧ (∀ c, c < 4096 → ctrValue t c = 0 ∧ ctrGood t c = true)
      ∧ (∀ n, n < 304 → (t.stir n).st = (if t.domainOn (stirrupDomain n) then .run else .off) ∧ (t.stir n).flight = []
          ∧ t.reg .dspStep n 0 = t.reg .cfgStartStep 0 0 ∧ t.reg .dspStepInv n 0 = ~~~(t.reg .cfgStartStep 0 0)))
    ∧ (∀ i : BitVec 32, ∃ t, exec (.commitComplete (some i)) s = .next t ∧ t.m.st = .waitHost
        ∧ TicketDone t n 0x0500 (place 56 8 0x10 ||| place 0 32 i.toNat) ∧ t.c.staged = s.c.staged ∧ t.m.locked = s.m.locked
        ∧ t.f = s.f ∧ t.sdl = s.sdl ∧ t.vec = s.vec ∧ (∀ k, t.stir k = s.stir k)))

/-- FW_UPDATE writes, checks and clears the slot that is not running and never the one that is (R535, R536); ATTEST sends a
report that starts with Table 15-6 to the session's stream and spends one HSS index (R539 to R541). -/
def Obligations.FirmwareAndAttestationAnswer : Prop :=
  (∀ (q : Req) (s : State), accepts s q 0x42 = true → Lists.wf s = true →
    let k := 1 - runSlot s
    let done := fun (t : State) (st : Nat) => Ticketed s t q 1 ∧ TicketDone t s.h.nextTicket st 0 ∧ t.slot (runSlot s) = s.slot (runSlot s)
      ∧ t.regs = s.regs ∧ DatapathKept s t ∧ t.m = s.m
    (∀ (o : BitVec 32) (bs : Bytes), 1 ≤ bs.length → bs.length ≤ 8192 → o.toNat % 64 = 0 →
      (o.toNat + bs.length ≤ 16777216 →
        ∃ t, exec (.fwUpdateWrite q o bs) s = .next t ∧ done t 0
          ∧ (∀ i, i < bs.length → sget 0 (t.slot k).mem (o.toNat + i) = bs.getD i 0 ∧ sget false (t.slot k).got (o.toNat + i) = true)
          ∧ (o = 0 → (t.slot k).verified = false))
      ∧ (16777216 < o.toNat + bs.length → ∃ t, exec (.fwUpdateWrite q o bs) s = .next t ∧ done t 0x0100 ∧ t.sec = s.sec))
    ∧ (imageComplete (s.slot k) = true → failingCheck s (s.slot k) = none → s.sec.sel0.seq.toNat < 2 ^ 63 →
        s.sec.sel1.seq.toNat < 2 ^ 63 →
        ∃ t, exec (.fwUpdateCommit q) s = .next t ∧ done t 0 ∧ selectedSlot t = k ∧ (t.slot k).verified = true
          ∧ (t.slot k).mem = (s.slot k).mem)
    ∧ (∀ c, imageComplete (s.slot k) = true → failingCheck s (s.slot k) = some c →
        ∃ t, exec (.fwUpdateCommit q) s = .next t ∧ t.sec = s.sec
          ∧ done t (if c = 3 then 0x0502 else if c = 5 then 0x0501 else 0x0100))
    ∧ (imageComplete (s.slot k) = false → ∃ t, exec (.fwUpdateCommit q) s = .next t ∧ done t 0x0100 ∧ t.sec = s.sec)
    ∧ (∃ t, exec (.fwUpdateAbort q) s = .next t ∧ done t 0 ∧ (t.slot k).got = [] ∧ (t.slot k).verified = false
        ∧ (t.slot k).mem = (s.slot k).mem))
  ∧ (∀ (q : Req) (nonce : BitVec 384) (x : Session) (s : State), accepts s q 0x43 = true → s.session q.port = some x →
    Memory.wf s = true →
    (x.egress = none → ∃ t, exec (.attest q nonce) s = .next t ∧ Answered s t q 0x0105 [] ∧ t.regs = s.regs ∧ t.sec = s.sec)
    ∧ (x.egress ≠ none → s.sec.hssSpent = false → s.fld .secHssIndex 0 0 0 20 < 0xFFFFF →
        ∃ t e, exec (.attest q nonce) s = .next t ∧ Ticketed s t q 1 ∧ e ∈ t.h.streams
          ∧ e.producer = .attest s.h.nextTicket ∧ e.more = false ∧ e.data.take 512 = report s nonce
          ∧ t.reg .secHssIndex 0 0 = BitVec.ofNat 64 (s.fld .secHssIndex 0 0 0 20 + 1)
          ∧ t.reg .secHssIndexInv 0 0 = BitVec.ofNat 64 (0xFFFFF - (s.fld .secHssIndex 0 0 0 20 + 1)) ∧ DatapathKept s t)
    ∧ (x.egress ≠ none → s.sec.hssSpent = true →
        ∃ t, exec (.attest q nonce) s = .next t ∧ Ticketed s t q 1 ∧ TicketDone t s.h.nextTicket 0x0105 1 ∧ t.regs = s.regs
          ∧ t.h.streams = s.h.streams))

/-- The recovery ladder (R517 to R519): the FUNCTION rung stops every stirrup and, with nothing left in flight or running, ends
in RUNNING with every stirrup OFF or HALTED, or STOPPED as before where its saddle group is not ON (R483), counters at 0 and
the fabric closed, after 100 ms whatever is in flight; MODULE and POWER answer OK first and start 10 ms later, from boot order
3 and without power. That a rung accepted while another waits starts after it is DESIGN CHOICE, log entry 39. -/
def Obligations.RungsRestoreTheModule : Prop :=
  (∀ (q : Req) (s : State), accepts s q 0x44 = true → Memory.wf s = true → Lists.wf s = true →
    let still := fun t : State => (∀ n, n < 304 → (t.stir n).st = .off ∨ (t.stir n).st = .halted
      ∨ (t.stir n).st = .stopped ∧ (s.stir n).st = .stopped ∧ groupAway s n = true)
    let ended := fun t : State => t.m.st = .running ∧ t.m.rung = .none ∧ still t ∧ t.d.tack = [] ∧ t.f.colls = []
      ∧ t.f.landing = [] ∧ (∀ n, n < 304 → (t.stir n).flight = [])
      ∧ (∀ c, c < 4096 → ctrValue t c = 0 ∧ ctrGood t c = true) ∧ t.mem.hbm = s.mem.hbm ∧ t.c = s.c
    (s.m.st = .running →
      (s.maint.running = [] → s.maint.queued = [] → noneInFlight s = true →
        ∃ t, exec (.moduleResetFunction q) s = .next t ∧ Ticketed s t q 1 ∧ TicketDone t s.h.nextTicket 0 0 ∧ ended t)
      ∧ (s.maint.queued = [] → (s.maint.running ≠ [] ∨ noneInFlight s = false) →
        ∃ t, exec (.moduleResetFunction q) s = .next t ∧ Ticketed s t q 1 ∧ t.m.st = .resetting ∧ t.m.lastRung = 1
          ∧ t.m.rung = .function s.h.nextTicket s.time ∧ still t ∧ t.mem.hbm = s.mem.hbm))
    ∧ (s.m.st ≠ .running →
        ∃ t, exec (.moduleResetFunction q) s = .next t ∧ Answered s t q 0x0105 [] ∧ t.m = s.m ∧ DatapathKept s t)
    ∧ (∀ z ∈ [(Instr.moduleResetModule q, Rung.module), (Instr.moduleResetPower q, Rung.power)],
        (rungAllowed s = true → s.maint.queued = [] →
          ∃ t, exec z.1 s = .next t ∧ Ticketed s t q 1 ∧ TicketDone t s.h.nextTicket 0 0 ∧ t.m.st = s.m.st
            ∧ t.m.delayed = s.m.delayed ++ [(z.2, s.time + 10000000)] ∧ DatapathKept s t ∧ t.regs = s.regs)
        ∧ (rungAllowed s = false →
          ∃ t, exec z.1 s = .next t ∧ Answered s t q 0x0105 [] ∧ t.m = s.m ∧ DatapathKept s t)))
  ∧ (∀ (n : BitVec 32) (since : Word) (s : State), s.m.rung = .function n since → s.maint.running = [] → noneInFlight s = false →
    (s.ticket n).isSome = true → Memory.wf s = true → Lists.wf s = true →
    ∃ t, exec .functionRungDrainTimeout s = .next t ∧ t.m.st = .running ∧ t.m.rung = .none ∧ TicketDone t n 0 0
      ∧ (∀ k, k < 304 → (t.stir k).flight = [] ∧ ((t.stir k).st = .off ∨ (t.stir k).st = .halted
          ∨ (t.stir k).st = .stopped ∧ (s.stir k).st = .stopped ∧ groupAway s k = true)) ∧ t.d.tack = [] ∧ t.f.colls = []
      ∧ (∀ c, c < 4096 → ctrValue t c = 0 ∧ ctrGood t c = true))
  ∧ (∀ (r : Rung) (due : Word) (rest : List (Rung × Word)) (s : State), s.m.delayed = (r, due) :: rest → hardRepair s = false →
    Memory.wf s = true →
    (r = .module →
      ∃ t, exec .rungStart s = .next t ∧ t.m.st = .boot ∧ t.m.bootStage = .verify ∧ t.m.lastRung = 2 ∧ t.m.locked = false
        ∧ t.session 0 = none ∧ t.session 1 = none ∧ t.h.buckle.holder = none ∧ t.d = {} ∧ t.f = {} ∧ t.mem.hbm = []
        ∧ t.mem.pprSoft = s.mem.pprSoft ∧ t.reg .cfgRole 0 0 = 0xFFF ∧ t.reg .omcCtrl 0 0 = s.reg .omcCtrl 0 0
        ∧ t.reg .ethCfg 0 0 = s.reg .ethCfg 0 0 ∧ t.m.delayed = rest)
    ∧ (r = .power →
      ∃ t, exec .rungStart s = .next t ∧ t.m.supplied = false ∧ t.m.powerCode = true ∧ t.d = {} ∧ t.mem.hbm = [] ∧ t.h = {}
        ∧ t.mem.pprSoft = [] ∧ t.sec.slot0 = s.sec.slot0))

/-- The module's state changes only by power, boot, commit, a rung and the trip, beside the end of a FUNCTION rung in
RESETTING (Table 14-1). -/
def Obligations.OnlyTheseEventsChangeModuleState : Prop :=
  ∀ (c : Instr) (s t : State), exec c s = .next t → t.m.st = s.m.st ∨ (∃ n w, s.m.rung = .function n w) ∧ t.m.st = .running
    ∨ c = .inputQualified ∨ c = .inputPowerRemoval ∨ c = .fwVerifyDone
    ∨ (∃ a b d e, c = .bootHwTrainingDone a b d e)
    ∨ (∃ q, c = .cfgCommit q ∨ c = .moduleResetFunction q) ∨ (∃ f, c = .commitComplete f) ∨ c = .rungStart ∨ c = .thermalTrip

/-! Power and thermal control (13). -/

/-- PWR_DOMAIN (R476 to R484): a request is refused for a domain that is not switchable and when two wait; at its turn one for
the present state ends OK, one for the other starts its ramp unless R482 refuses it; during a ramp it waits. A ramp ends in
its state with OK and a log entry, and a saddle group that reaches ON has a void bench; while one of the four ramp-up places is free no
domain waits for one (R484). -/
def Obligations.DomainsRampInTurn : Prop :=
  (∀ (q : Req) (k : Fin 80) (on : Bool) (s : State), accepts s q 0x91 = true → Memory.wf s = true → Lists.wf s = true →
    let c : Instr := if on then .pwrDomainOn q k else .pwrDomainOff q k
    let x := s.domain k.val
    let n := s.h.nextTicket
    (switchable k.val = false ∨ 2 ≤ x.waiting.length →
      ∃ t, exec c s = .next t ∧ Answered s t q 0x0105 [] ∧ t.m = s.m ∧ DatapathKept s t ∧ t.regs = s.regs)
    ∧ (switchable k.val = true → x.waiting = [] → x.st = (if on then .on else .off) →
      ∃ t, exec c s = .next t ∧ Ticketed s t q 1 ∧ TicketDone t n 0 0 ∧ t.m = s.m ∧ DatapathKept s t ∧ t.regs = s.regs)
    ∧ (switchable k.val = true → x.waiting = [] → on = true → x.st = .off →
      ∃ t, exec c s = .next t ∧ Ticketed s t q 1 ∧ (t.domain k.val).st = .rampUp
        ∧ (t.domain k.val).active = decide (rampingUp s < 4) ∧ (t.domain k.val).turn = some ⟨true, n, q.port⟩
        ∧ DatapathKept s t ∧ t.regs = s.regs)
    ∧ (switchable k.val = true → x.waiting = [] → on = false → x.st = .on →
      (offRefusal s k.val ⟨false, n, q.port⟩ = none →
        ∃ t, exec c s = .next t ∧ Ticketed s t q 1 ∧ (t.domain k.val).st = .rampDown
          ∧ (t.domain k.val).turn = some ⟨false, n, q.port⟩
          ∧ (k.val < 64 ∨ 76 < k.val ∨ s.f.colls = [] → t.mem = s.mem ∧ t.sdl = s.sdl ∧ t.vec = s.vec))
      ∧ (∀ st, offRefusal s k.val ⟨false, n, q.port⟩ = some st →
        ∃ t, exec c s = .next t ∧ Ticketed s t q 1 ∧ TicketDone t n st 0 ∧ t.m = s.m ∧ DatapathKept s t))
    ∧ (switchable k.val = true → x.waiting.length < 2 → (x.waiting ≠ [] ∨ x.st = .rampUp ∨ x.st = .rampDown) →
      ∃ t, exec c s = .next t ∧ Ticketed s t q 3 ∧ (t.domain k.val).waiting = x.waiting ++ [⟨on, n, q.port⟩]
        ∧ (t.domain k.val).st = x.st ∧ DatapathKept s t ∧ t.regs = s.regs))
  ∧ (∀ (k : Fin 80) (r : DomReq) (s : State), (s.domain k.val).waiting = [] → (s.domain k.val).turn = some r →
    (s.ticket r.ticket).isSome = true → Memory.wf s = true → Lists.wf s = true →
    ((s.domain k.val).st = .rampUp → (s.domain k.val).active = true →
      ∃ t, exec (.domainRampDone k) s = .next t ∧ (t.domain k.val).st = .on ∧ TicketDone t r.ticket 0 0
        ∧ (∃ e ∈ t.h.log, e.code = 0x0701 ∧ e.srcKind = 7) ∧ (s.domain k.val).due.toNat ≤ t.time.toNat
        ∧ (k.val < 60 → ∀ i o, i < 5 → o < 3145728 → t.sector (5 * k.val + i) o = .void)
        ∧ (rampingUp t < 4 → ∀ j, (t.domain j).st = .rampUp → (t.domain j).active = true))
    ∧ ((s.domain k.val).st = .rampUp → (s.domain k.val).active = false →
      exec (.domainRampDone k) s = .refused (.notEnabled "DOMAIN_RAMP_DONE"))
    ∧ ((s.domain k.val).st = .rampDown →
      ∃ t, exec (.domainRampDone k) s = .next t ∧ (t.domain k.val).st = .off ∧ TicketDone t r.ticket 0 0
        ∧ (∃ e ∈ t.h.log, e.code = 0x0700 ∧ e.srcKind = 7) ∧ DatapathKept s t
        ∧ (rampingUp t < 4 → ∀ j, (t.domain j).st = .rampUp → (t.domain j).active = true)))

/-- The rein (R488 to R493): a cap in range is taken and one out of range refused; at the end of a period VCORE, or at VMIN
GATE, moves as the pseudocode of R489 says, from inside the limits wherever it lay before (R492); after 250 periods above the cap at the
lowest point CAP_UNATTAINABLE is set and logged, and after 250 at or below it is cleared and CAP_ATTAINED logged (R491); the issue gate closes within a window where GATE is below 100 and opens with the
next; the module is reined below REINED_MV or GATE 100 and ceases to be when its exit is due and neither holds. The estimate
(R485), which leaves out the saddle groups that are not ON (R483), takes the part's coefficients, leakage, fixed loads and rounding as free
values (DESIGN CHOICE, log entry 20). -/
def Obligations.ReinFollowsTheCap : Prop :=
  (∀ (q : Req) (cap : BitVec 12) (s : State), accepts s q 0x90 = true → Memory.wf s = true →
    (1000 ≤ cap.toNat → cap.toNat ≤ 3600 →
      ∃ t, exec (.pwrCapSet q cap) s = .next t ∧ Answered s t q 0 [] ∧ t.fld .pwrCap 0 0 0 12 = cap.toNat ∧ DatapathKept s t
        ∧ ModuleKept s t ∧ HostKeptBut q.port s t)
    ∧ (cap.toNat < 1000 ∨ 3600 < cap.toNat →
      ∃ t, exec (.pwrCapSet q cap) s = .next t ∧ Answered s t q 0x0A00 [] ∧ t.regs = s.regs ∧ DatapathKept s t))
  ∧ (∀ (counts : List (Nat × Nat × Nat)) (s : State), reinRuns s = true → Memory.wf s = true → vmin s ≤ vmax s → vmax s ≤ 850 →
    10 ≤ gate s → gate s ≤ 100 →
    let e := estimate s counts
    let c := capWatts s
    let v := min (vmax s) (max (vmin s) (vcore s))
    let g := gate s
    let low := c < e.toNat ∧ v = vmin s ∧ g = 10
    let hyst := s.fld .pwrReinCtrl 0 0 16 4
    ∃ t, exec (.reinPeriod counts) s = .next t ∧ DatapathKept s t ∧ t.fld .pwrStat 0 0 48 16 = e.toNat
      ∧ (c < e.toNat → vmin s < v → vcore t = max (vmin s) (v - min 50 (5 * max 1 (100 * (e.toNat - c) / c))) ∧ gate t = g)
      ∧ (c < e.toNat → vmin s = v → vcore t = v ∧ gate t = max 10 (g - 5))
      ∧ (e.toNat ≤ c → (c * (100 - hyst) ≤ 100 * e.toNat ∨ bit (s.reg .pwrStat 0 0) 3 = true) → vcore t = v ∧ gate t = g)
      ∧ (100 * e.toNat < c * (100 - hyst) → bit (s.reg .pwrStat 0 0) 3 = false →
          (g < 100 → vcore t = v ∧ gate t = min 100 (g + 2)) ∧ (g = 100 → v < vmax s → vcore t = v + 5 ∧ gate t = g)
          ∧ (g = 100 → v = vmax s → vcore t = v ∧ gate t = g))
      ∧ (vcore t < s.fld .pwrReinCtrl 0 0 0 10 ∨ gate t < 100 → t.reined = true)
      ∧ (low → t.m.overPeriods = min 250 (s.m.overPeriods + 1)) ∧ (¬ low → t.m.overPeriods = 0)
      ∧ (e.toNat ≤ c → t.m.underPeriods = min 250 (s.m.underPeriods + 1)) ∧ (c < e.toNat → t.m.underPeriods = 0)
      ∧ (low → 249 ≤ s.m.overPeriods → bit (s.reg .pwrStat 0 0) 2 = false →
          bit (t.reg .pwrStat 0 0) 2 = true ∧ ∃ x ∈ t.h.log, x.code = 0x0702 ∧ x.p0 = BitVec.ofNat 64 c)
      ∧ (e.toNat ≤ c → 249 ≤ s.m.underPeriods → bit (s.reg .pwrStat 0 0) 2 = true →
          bit (t.reg .pwrStat 0 0) 2 = false ∧ ∃ x ∈ t.h.log, x.code = 0x0703 ∧ x.p0 = BitVec.ofNat 64 c)
      ∧ ((low → s.m.overPeriods < 249) → (e.toNat ≤ c → s.m.underPeriods < 249) →
          bit (t.reg .pwrStat 0 0) 2 = bit (s.reg .pwrStat 0 0) 2 ∧ t.h = s.h))
  ∧ (∀ s : State, reinRuns s = true →
    (s.m.gateOpen = true → s.m.gateLevel < 100 →
      ∃ t, exec (.gateWindow true) s = .next t ∧ t.m.gateOpen = false ∧ t.regs = s.regs ∧ DatapathKept s t ∧ t.h = s.h)
    ∧ (∃ t, exec (.gateWindow false) s = .next t ∧ t.m.gateOpen = true ∧ t.m.gateLevel = gate s ∧ t.regs = s.regs
        ∧ DatapathKept s t ∧ t.h = s.h))
  ∧ (∀ (w : Word) (s : State), s.m.reinedEnd = some w → Memory.wf s = true →
    ∃ t, exec .reinedExit s = .next t ∧ t.reined = (reinedNow s && s.reined) ∧ t.m.reinedEnd = none ∧ vcore t = vcore s ∧ gate t = gate s
      ∧ DatapathKept s t ∧ t.h = s.h)

/-- Measurements (R487, R495, R497 to R500): the input and rail samples are reported, a rail below its set point sets GUARD and
one below its minimum UNDER with its event; junction readings are reported, the limit sets THERMAL_LIMITING, and acting on
it lowers VCORE or GATE by one step; the trip leaves TRIPPED with domains 0 to 75 ramping down or off. -/
def Obligations.SensorsLimitAndTrip : Prop :=
  (∀ (v a w : BitVec 16) (s : State), s.m.supplied = true → Memory.wf s = true →
    ∃ t, exec (.inputSample v a w) s = .next t ∧ t.h = s.h ∧ DatapathKept s t ∧ ModuleKept s t
      ∧ t.fld .pwrInput 0 0 32 16 = w.toNat ∧ t.fld .pwrInput 0 0 16 16 = v.toNat ∧ t.fld .pwrInput 0 0 0 16 = a.toNat)
  ∧ (∀ (mv : List (BitVec 14)) (s : State), s.m.supplied = true → Memory.wf s = true → mv.length = 6 →
    ∃ t, exec (.railSample mv) s = .next t ∧ DatapathKept s t ∧ ∀ (i : Nat) (x : BitVec 14), mv[i]? = some x →
      t.fld .pwrRail i 0 0 14 = x.toNat ∧ t.fld .pwrRail i 0 14 14 = min x.toNat (s.fld .pwrRail i 0 14 14)
      ∧ (x.toNat < railMin i + 60 → bit (t.reg .pwrRail i 0) 28 = true)
      ∧ (x.toNat < railMin i → bit (t.reg .pwrRail i 0) 29 = true ∧ ∃ e ∈ t.h.log, e.code = 0x0705 ∧ e.srcIndex = BitVec.ofNat 12 i))
  ∧ (∀ (ts : List (Option (BitVec 8))) (s : State), s.m.supplied = true → Memory.wf s = true → ts.length = 7 →
    ∃ t, exec (.junctionSample ts) s = .next t ∧ DatapathKept s t
      ∧ (∀ (i : Nat) (x : BitVec 8), ts[i]? = some (some x) → t.fld .thmJunc i 0 0 8 = x.toNat)
      ∧ (reinRuns s = true → (s.fld .thmCtrl 0 0 0 8 : Int) ≤ (hottest t).1 → bit (s.reg .pwrStat 0 0) 3 = false →
          bit (t.reg .pwrStat 0 0) 3 = true ∧ ∃ e ∈ t.h.log, e.code = 0x0800)
      ∧ (reinRuns s = true → (hottest t).1 ≤ (s.fld .thmCtrl 0 0 0 8 : Int) - 3 → bit (s.reg .pwrStat 0 0) 3 = true →
          bit (t.reg .pwrStat 0 0) 3 = false ∧ ∃ e ∈ t.h.log, e.code = 0x0801))
  ∧ (∀ s : State, reinRuns s = true → bit (s.reg .pwrStat 0 0) 3 = true → Memory.wf s = true →
    ∃ t, exec .thermalLimitAction s = .next t ∧ DatapathKept s t ∧ t.h = s.h
      ∧ (vmin s < vcore s → vcore t = max (vmin s) (vcore s - 5) ∧ gate t = gate s)
      ∧ (vcore s ≤ vmin s → vcore t = vcore s ∧ gate t = max 10 (gate s - 5)))
  ∧ (∀ (src : Src) (w : Word) (lost : Bool) (s : State), s.m.supplied = true → s.m.st ≠ .tripped → tripCause s = some (src, w, lost) →
    Memory.wf s = true → Lists.wf s = true →
    ∃ t, exec .thermalTrip s = .next t ∧ t.m.st = .tripped
      ∧ ((∀ x ∈ s.maint.running ++ s.maint.queued, x.tack = none) → ∃ e ∈ t.h.log, e.code = 0x0802 ∧ e.p0 = w)
      ∧ bit (t.reg .pwrStat 0 0) 4 = true ∧ (∀ k, k < 76 → (t.domain k).st = .off ∨ (t.domain k).st = .rampDown)
      ∧ (∀ k, 76 ≤ k → k < 80 → (t.domain k).st = (s.domain k).st)
      ∧ (rampingUp t < 4 → ∀ j, (t.domain j).st = .rampUp → (t.domain j).active = true) ∧ t.d = {} ∧ t.f = {} ∧ t.sdl = [] ∧ t.mem.hbm = [])

/-! Dispatch (05). -/

/-- The issue checks (R159, R181, R185, Table 5-10): a fetch brings the next 8 slots; at its stop point a stirrup stops; the
head faults at checks 2 to 4 with the first code that applies, is held by checks 4 and 6 to 8, and else issues: the ring
moves on by one slot, and by one step where it wraps. That the record and event of a DESC_VERSION fault carry the header's OPCODE and KGEN
is DESIGN CHOICE, log entry 68. While the stack that a record goes to is repaired the issue waits (R273). -/
def Obligations.HeadsAreJudgedInOrder : Prop :=
  (∀ (t : Fin 304) (s : State), (s.stir t.val).st = .run → ringSlots s t.val ≠ 0 → (s.stir t.val).fetched.length ≤ 24 →
    Lists.wf s = true → (∀ a n, hbmLocked s a n = false) →
    let at_ := fun (i : Nat) => slotAfter s t.val ((s.stir t.val).fetched.length + i)
    let addr := fun (p : Nat) => (s.reg .dspRingBase t.val 0).toNat + 128 * p
    (∀ i, i < 8 → Readable s .fetch (addr (at_ i)) 128) →
    ∃ u, exec (.ringFetchDone t) s = .next u ∧ u.stir t.val = { s.stir t.val with
        fetched := (s.stir t.val).fetched ++ (List.range 8).map fun i =>
          (⟨at_ i, wordsOfDesc (s.bytesAt (addr (at_ i)) 128), none⟩ : Fetched) }
      ∧ OthersKept s u t.val ∧ RegsKeptBut s u [] ∧ u.h = s.h ∧ ∀ b, u.byte b = s.byte b)
  ∧ (∀ (t : Fin 304) (s : State), (s.stir t.val).st = .run → ringSlots s t.val ≠ 0 → Lists.wf s = true →
    stopsAt s t.val (s.stir t.val).head (s.stepOf t.val) = true →
    ∃ u, exec (.descriptorIssue t) s = .next u ∧ (u.stir t.val).st = .stopped ∧ (u.stir t.val).head = (s.stir t.val).head
      ∧ (u.stir t.val).flight = (s.stir t.val).flight ∧ (u.stir t.val).prefetched = [] ∧ OthersKept s u t.val
      ∧ u.regs = s.regs ∧ u.h = s.h ∧ u.mem.hbm = s.mem.hbm)
  ∧ (∀ (t : Fin 304) (f : Fetched) (s : State), (s.stir t.val).st = .run → (s.stir t.val).fetched.head? = some f →
    stopsAt s t.val (s.stir t.val).head (s.stepOf t.val) = false → f.err = none → dWord f.words 8 ≠ ~~~dWord f.words 0 →
    Writable s .fetch (cplAddr s t.val f.slot) 32 → recordLocked s t.val f.slot = false → Memory.wf s = true → Lists.wf s = true →
    ∃ u, exec (.descriptorIssue t) s = .next u ∧ FaultsAtHead s u t.val f 0 0 0x01 ∧ ∃ e ∈ u.h.log, e.code = 0x0C00)
  ∧ (∀ (t : Fin 304) (f : Fetched) (s : State), HeadIs s t.val f → Writable s .fetch (cplAddr s t.val f.slot) 32 →
    recordLocked s t.val f.slot = false → Memory.wf s = true → Lists.wf s = true →
    (∀ e, checkThree t.val (some f.slot) f.words = some e →
      ∃ u, exec (.descriptorIssue t) s = .next u ∧ FaultsAtHead s u t.val f (dOpcode f.words) (dKgen f.words) e)
    ∧ (checkThree t.val (some f.slot) f.words = none → bankHolds s (dieOf t.val) 0 (dKgen f.words) = false →
      bankHolds s (dieOf t.val) 1 (dKgen f.words) = false → (s.stir t.val).bank ≤ 1 →
      ∃ u, exec (.descriptorIssue t) s = .next u ∧ FaultsAtHead s u t.val f (dOpcode f.words) (dKgen f.words) 0x07)
    ∧ (checkThree t.val (some f.slot) f.words = none → bankHolds s (dieOf t.val) (s.stir t.val).bank (dKgen f.words) = false →
      bankHolds s (dieOf t.val) (1 - (s.stir t.val).bank) (dKgen f.words) = true →
      exec (.descriptorIssue t) s = .next (s.setStir t.val { s.stir t.val with hold := 4, switching := true })))
  ∧ (∀ (t : Fin 304) (f : Fetched) (s : State), HeadReady s t.val f → Memory.wf s = true → Lists.wf s = true →
    let y := s.stir t.val
    let held := fun (n : Nat) => exec (.descriptorIssue t) s = .next (s.setStir t.val { y with hold := n, switching := false })
    (waitsMet s f.words (s.stepOf t.val) = false → held 6)
    ∧ (waitsMet s f.words (s.stepOf t.val) = true → slotFree s t.val f.words = false → held 7)
    ∧ (waitsMet s f.words (s.stepOf t.val) = true → slotFree s t.val f.words = true → s.m.gateOpen = false → held 8)
    ∧ (waitsMet s f.words (s.stepOf t.val) = true → slotFree s t.val f.words = true → s.m.gateOpen = true →
      (∀ code detail s1, ownIssue t.val y.bank f.words s = (some (code, detail), s1) → recordLocked s t.val f.slot = false →
        ∃ u, exec (.descriptorIssue t) s = .next u ∧ (u.stir t.val).st = .halted ∧ ∃ e, u.h.log.head? = some e ∧ e.code = 1
          ∧ e.p0 = (place 8 8 code ||| place 0 8 (dOpcode f.words)) ∧ e.p1 = detail)
      ∧ (∀ s1, ownIssue t.val y.bank f.words s = (none, s1) → (lastSlot s1 t.val = true → phaseLocked s1 t.val (s1.stepOf t.val) = false) →
        ∃ u g, exec (.descriptorIssue t) s = .next u ∧ (u.stir t.val).flight = y.flight ++ [g] ∧ g.slot = f.slot
          ∧ g.step = s.stepOf t.val ∧ g.words = f.words ∧ g.bank = y.bank ∧ g.phase = .issued ∧ g.fault = none
          ∧ (u.stir t.val).fetched = y.fetched.tail ∧ (u.stir t.val).st = .run ∧ u.d.signals = s.d.signals
          ∧ (y.head + 1 < ringSlots s t.val → (u.stir t.val).head = y.head + 1 ∧ u.stepOf t.val = s.stepOf t.val)
          ∧ (ringSlots s t.val ≤ y.head + 1 → (u.stir t.val).head = 0 ∧ u.stepOf t.val = s.stepOf t.val + 1
              ∧ u.reg .dspStepInv t.val 0 = ~~~(s.stepOf t.val + 1)))))

/-- Completion (R173, R178, R183, R185): a descriptor that has ended leaves flight with its record written; without a fault its
counter is signalled and DESC_DONE logged where EVENT is set, and with one it is not, and R185 applies; beside the record only
the phase record of a step that the stirrup has left is written (R363; DESIGN CHOICE, log entry 35). A MATMUL that counted joins its
counts to its saddle's bank, whose snapshot is published with one more SEQ, and writes its histogram record first where it names one (R74).
NOP completes at issue; STEP_BEGIN ends once its step's inputs are complete. A signal adds 1 to its counter. -/
def Obligations.DescriptorsCompleteAndSignal : Prop :=
  (∀ (t : Fin 304) (p : BitVec 24) (f : InFlight) (s : State),
    ((s.stir t.val).flight.find? fun f : InFlight => f.slot == p.toNat && f.phase == .ended) = some f → f.ret = none →
    recordLocked s t.val f.slot = false → histLocked s t.val f = false → pastLocked s t.val f.step = false →
    Writable s .fetch (cplAddr s t.val f.slot) 32 → s.m.rung = .none → Memory.wf s = true → Lists.wf s = true →
    (∀ c counts, f.fault = none → f.counts = some (c, counts) → t.val < 300 →
      let bank := joinBanks (s.saddle t.val).bank counts
      let published := fun u : State => (u.stir t.val).flight = (s.stir t.val).flight.erase f ∧ (u.saddle t.val).bank = bank
        ∧ (u.saddle t.val).snapCtrl = c ∧ (∀ b, b < 64 → u.reg .sdlHistBin t.val b = BitVec.ofNat 64 (sget 0 bank b))
        ∧ u.fld .sdlHistSeq t.val 0 0 32 = (s.fld .sdlHistSeq t.val 0 0 32 + 1) % 2 ^ 32
        ∧ BytesAre u (cplAddr s t.val f.slot) (wordsBytes (recordWords (dOpcode f.words) f.slot (dKgen f.words) 0 f.stf f.step 0))
        ∧ u.d.signals = s.d.signals ++ (dSignal f.words).toList
      ((matOf f.words).histDst = none → ∃ u, exec (.descriptorComplete t p) s = .next u ∧ published u)
      ∧ (∀ a, (matOf f.words).histDst = some a → Writable s .sdma a 272 → StepHeld s t.val f →
          a + 272 ≤ cplAddr s t.val f.slot ∨ cplAddr s t.val f.slot + 32 ≤ a →
          ∃ u, exec (.descriptorComplete t p) s = .next u ∧ published u ∧ BytesAre u a (histRecord u t.val)))
    ∧ (f.fault = none → f.counts = none →
      ∃ u, exec (.descriptorComplete t p) s = .next u ∧ (u.stir t.val).flight = (s.stir t.val).flight.erase f
        ∧ BytesAre u (cplAddr s t.val f.slot) (wordsBytes (recordWords (dOpcode f.words) f.slot (dKgen f.words) 0 f.stf f.step 0))
        ∧ CompletionKept s u t.val f ∧ (u.stir t.val).st = (s.stir t.val).st ∧ (StepHeld s t.val f → RegsKeptBut s u [])
        ∧ u.d.signals = s.d.signals ++ (dSignal f.words).toList ∧ OthersKept s u t.val
        ∧ (dEvent f.words = true → ∃ e, u.h.log.head? = some e ∧ e.code = 2 ∧ e.step = f.step)
        ∧ (dEvent f.words = false → StepHeld s t.val f → u.h = s.h))
    ∧ (∀ code detail, f.fault = some (code, detail) → (s.stir t.val).st ≠ .off →
      ∃ u, exec (.descriptorComplete t p) s = .next u ∧ (u.stir t.val).flight = (s.stir t.val).flight.erase f
        ∧ HaltedOn s u t.val f.slot (dOpcode f.words) code f.step detail
        ∧ BytesAre u (cplAddr s t.val f.slot) (wordsBytes (recordWords (dOpcode f.words) f.slot (dKgen f.words) code f.stf f.step detail))
        ∧ CompletionKept s u t.val f))
  ∧ (∀ (t : Fin 304) (f : InFlight) (s : State), oldest s t.val 0x00 .issued = some f → recordLocked s t.val f.slot = false →
    pastLocked s t.val f.step = false → Writable s .fetch (cplAddr s t.val f.slot) 32 → s.m.rung = .none → Memory.wf s = true → Lists.wf s = true →
    ∃ u, exec (.nop t) s = .next u ∧ (u.stir t.val).flight = (s.stir t.val).flight.erase f
      ∧ BytesAre u (cplAddr s t.val f.slot) (wordsBytes (recordWords 0 f.slot (dKgen f.words) 0 f.stf f.step 0))
      ∧ CompletionKept s u t.val f ∧ u.d.signals = s.d.signals ++ (dSignal f.words).toList
      ∧ OthersKept s u t.val ∧ (StepHeld s t.val f → RegsKeptBut s u []) ∧ u.sdl = s.sdl ∧ u.vec = s.vec)
  ∧ (∀ (t : Fin 304) (f : InFlight) (s : State), oldest s t.val 0x01 .issued = some f → Lists.wf s = true →
    (s.role ≠ 0xFFF → regHeld s .cfgRole = true → regHeld s .brcLastReleased = true → 1 ≤ stepDiff f.step (lastReleased s) →
      stepDiff f.step (lastReleased s) ≤ depth s → inputsComplete s f.step = true →
      ∃ u, exec (.stepBegin t) s = .next u ∧ EndedAs u t.val f none f.ret ∧ OthersKept s u t.val ∧ u.mem = s.mem
        ∧ u.regs = s.regs ∧ u.h = s.h)
    ∧ (inputsComplete s f.step = false → exec (.stepBegin t) s = .refused (.notEnabled "STEP_BEGIN")))
  ∧ (∀ (c : Fin 4096) (s : State), c.val ∈ s.d.signals → Memory.wf s = true →
    ∃ u, exec (.counterSignal c) s = .next u ∧ ctrValue u c.val = (ctrValue s c.val + 1) % 2 ^ 24
      ∧ (ctrGood s c.val = true → ctrGood u c.val = true) ∧ (∀ b, b ≠ c.val → u.reg .dspCtr b 0 = s.reg .dspCtr b 0)
      ∧ u.d.signals = s.d.signals.erase c.val ∧ u.d.stirrups = s.d.stirrups ∧ u.mem = s.mem ∧ u.h = s.h)

/-- Bank switches, run-ahead, quiescence, stops and snapshots (R184, R188 to R190, R195, R206, R207, R209 to R212, R581): a
stirrup held by check 4 takes the other bank once its kernel work has drained; quiescence is logged once; a prefetch writes
speculative bench lines only; DSP_HALT asks every running stirrup to stop, and a request that arrives stops or halts its
stirrup; DSP_RESUME returns a STOPPED stirrup, or with 0x1FF every one, to RUN with its stop point cleared and is refused for a HALTED one and for
one of a group that is not ON; DSP_STOP_AT
sets a stop point; DSP_SNAPSHOT needs quiescence, changes nothing of the datapath, and sends the stream of R211. That it is refused with
NOT_QUIESCENT before ADDR_RANGE and PROTECT, and is accepted and fails where no session has an egress destination, is DESIGN CHOICE, log
entry 57. -/
def Obligations.DispatchPausesAndResumes : Prop :=
  (∀ (t : Fin 304) (s : State), (s.stir t.val).switching = true → (s.stir t.val).st = .run → headCheck s t.val = .hold 4 →
    ((s.stir t.val).flight.all fun f : InFlight => !fetches (s.stir t.val).bank f) = true →
    exec (.bankSwitch t) s
      = .next (s.setStir t.val { s.stir t.val with bank := 1 - (s.stir t.val).bank, switching := false, hold := 0 }))
  ∧ (∀ s : State, s.d.quiescent = false → isQuiescent s = true →
    ∃ u, exec .quiescent s = .next u ∧ u.d = { s.d with quiescent := true } ∧ u.mem = s.mem ∧ u.regs = s.regs
      ∧ LogsOne s u 0x0003 srcModule (BitVec.ofNat 64 (waitingRoutines s).length) ((waitingRoutines s).getD 0 0)
          ((waitingRoutines s).getD 1 0))
  ∧ (∀ (t : Fin 304) (f : Fetched) (i : Nat) (mode : StoreMode) (s : State), (s.stir t.val).st = .run →
    ((s.stir t.val).fetched.zipIdx.find? fun z : Fetched × Nat => eligible s t.val z.2 z.1) = some (f, i) →
    (∀ a n, hbmLocked s a n = false) → storeModeOf s f.words (stepAfter s t.val i) = .ok mode → Lists.wf s = true →
    Memory.wf s = true → (∀ l, (s.lineMeta l).sym = []) →
    ∃ u, exec (.runAheadPrefetch t) s = .next u ∧ RegsKeptBut s u [] ∧ u.h = s.h ∧ (∀ b, u.byte b = s.byte b)
      ∧ (u.stir t.val).flight = (s.stir t.val).flight ∧ (u.stir t.val).fetched = (s.stir t.val).fetched
      ∧ (u.stir t.val).prefetched = (s.stir t.val).prefetched ++ [f.slot] ∧ OthersKept s u t.val ∧ u.d.signals = s.d.signals
      ∧ u.d.banks = s.d.banks ∧ u.sdl = s.sdl ∧ u.vec = s.vec
      ∧ (∀ n o, n ≠ t.val → o < benchSize → u.benchByte n o = s.benchByte n o)
      ∧ (∀ o, o < benchSize → u.benchByte t.val o ≠ s.benchByte t.val o →
          u.sector t.val (o / 32 * 32) = .void ∨ u.sector t.val (o / 32 * 32) = .speculative f.slot))
  ∧ (∀ (q : Req) (s : State), accepts s q 0x50 = true → Lists.wf s = true →
    ∃ u, exec (.dspHalt q) s = .next u ∧ Answered s u q 0 []
      ∧ (∀ t, (s.stir t).st = .run → (u.stir t).request = some (decide ((s.stir t).request = some true)))
      ∧ (∀ t, { u.stir t with request := none } = { s.stir t with request := none }) ∧ u.mem = s.mem ∧ u.regs = s.regs
      ∧ u.sdl = s.sdl ∧ u.vec = s.vec ∧ ModuleKept s u ∧ HostKeptBut q.port s u)
  ∧ (∀ (t : Fin 304) (h : Bool) (s : State), (s.stir t.val).st = .run → (s.stir t.val).request = some h → Lists.wf s = true →
    ∃ u, exec (.haltRequestArrival t) s = .next u ∧ (u.stir t.val).st = (if h then .halted else .stopped)
      ∧ (u.stir t.val).request = none ∧ (u.stir t.val).flight = (s.stir t.val).flight ∧ (u.stir t.val).prefetched = []
      ∧ (∀ o slot, o < benchSize → u.sector t.val o ≠ .speculative slot) ∧ OthersKept s u t.val ∧ u.mem.hbm = s.mem.hbm ∧ u.regs = s.regs
      ∧ u.h = s.h)
  ∧ (∀ (q : Req) (n : BitVec 9) (s : State), accepts s q 0x51 = true → Memory.wf s = true → Lists.wf s = true → n.toNat < 304 →
    ((s.stir n.toNat).st = .stopped → s.domainOn (stirrupDomain n.toNat) = true → s.a.dry = none →
      ∃ u, exec (.dspResume q n) s = .next u ∧ Answered s u q 0 [] ∧ (u.stir n.toNat).st = .run
        ∧ (u.stir n.toNat).fetched = [] ∧ (u.stir n.toNat).head = (s.stir n.toNat).head
        ∧ (u.stir n.toNat).flight = (s.stir n.toNat).flight ∧ bit (u.reg .dspStopSlot n.toNat 0) 31 = false
        ∧ OthersKept s u n.toNat ∧ u.mem = s.mem ∧ ModuleKept s u)
    ∧ (groupAway s n.toNat = true →
      ∃ u, exec (.dspResume q n) s = .next u ∧ Answered s u q 0x0105 [] ∧ u.d = s.d ∧ u.regs = s.regs ∧ u.mem = s.mem)
    ∧ ((s.stir n.toNat).st = .halted → groupAway s n.toNat = false →
      ∃ u, exec (.dspResume q n) s = .next u ∧ Answered s u q 0x0601 [] ∧ u.d = s.d ∧ u.regs = s.regs ∧ u.mem = s.mem))
  ∧ (∀ (q : Req) (s : State), accepts s q 0x51 = true → Memory.wf s = true → Lists.wf s = true → (∀ t, t < 304 → groupAway s t = false) →
    ((∀ t, t < 304 → (s.stir t).st ≠ .halted) → s.a.dry = none →
      ∃ u, exec (.dspResume q 0x1FF) s = .next u ∧ Answered s u q 0 [] ∧ u.mem = s.mem ∧ ModuleKept s u
        ∧ ∀ t, t < 304 → ((s.stir t).st = .stopped → (u.stir t).st = .run ∧ (u.stir t).fetched = [] ∧ (u.stir t).head = (s.stir t).head
            ∧ (u.stir t).flight = (s.stir t).flight ∧ bit (u.reg .dspStopSlot t 0) 31 = false)
          ∧ ((s.stir t).st ≠ .stopped → u.stir t = s.stir t))
    ∧ (∀ t, t < 304 → (s.stir t).st = .halted →
      ∃ u, exec (.dspResume q 0x1FF) s = .next u ∧ Answered s u q 0x0601 [] ∧ u.d = s.d ∧ u.regs = s.regs ∧ u.mem = s.mem))
  ∧ (∀ (q : Req) (n : BitVec 9) (step : Word) (slot : BitVec 24) (en : Bool) (s : State), accepts s q 0x52 = true →
    Memory.wf s = true → n.toNat < 304 →
    ∃ u, exec (.dspStopAt q n step slot en) s = .next u ∧ Answered s u q 0 [] ∧ u.reg .dspStopStep n.toNat 0 = step
      ∧ u.reg .dspStopSlot n.toNat 0 = placeBit 31 en ||| place 0 24 slot.toNat
      ∧ (∀ b, b ≠ regAddr .dspStopStep n.toNat 0 → b ≠ regAddr .dspStopSlot n.toNat 0 → sget 0 u.regs b = sget 0 s.regs b)
      ∧ DatapathKept s u ∧ ModuleKept s u ∧ HostKeptBut q.port s u)
  ∧ (∀ (q : Req) (classes : Word) (ranges : List Word) (s : State), accepts s q 0x53 = true →
    let rs := snapRanges (field (ranges.headD 0) 0 7) ranges.tail
    snapFits classes ranges rs = true →
    (isQuiescent s = false →
      ∃ u, exec (.dspSnapshot q classes ranges) s = .next u ∧ Answered s u q 0x0600 [] ∧ DatapathKept s u ∧ u.regs = s.regs)
    ∧ (isQuiescent s = true → rs.any snapPast = false → rs.findSome? (snapDenied s) = none →
      let secs := (plainSections classes s).1 ++ rangeSections classes rs s
      let n := BitVec.ofNat 64 (List.length secs)
      let body := wordsBytes [place 48 16 1 ||| place 36 12 (s.fld .cfgMemberId 0 0 0 12) ||| place 0 8 (field classes 0 8),
        s.reg .dspStep 300 0, ~~~(s.reg .dspStep 300 0), s.time, n, 0, 0, 0] ++ List.flatten secs
      ∃ u, exec (.dspSnapshot q classes ranges) s = .next u ∧ Ticketed s u q 1 ∧ DatapathKept s u ∧ u.regs = s.regs
        ∧ u.m = s.m ∧ u.c = s.c
        ∧ (destinations s ≠ [] → ∃ e ∈ u.h.streams, e.num = s.h.nextStream ∧ e.producer = .snapshot s.h.nextTicket ∧ e.more = false
            ∧ e.data = body ++ wordBytes n ++ sha384 body ++ wordBytes 1)
        ∧ (destinations s = [] → TicketDone u s.h.nextTicket stEgressFailed 0)))

/-! Saddles (03, 04). -/

/-- MATMUL and the welt (R72, R73, R77, R81, R84 to R87, R91, R94, R97, R98, R125, R126, R131): a tile fault leaves every tile as it was; else
the run latches its controls, begins its histogram and loads its first chunk of B into the shadow registers of every quadrant,
each lane with its expanded element or, in a narrow pair, its codes with their scales; a group switches to its shadow registers
and leaves the others; after the last group, each cell of the pass, in the order of rows, columns and quadrants, holds its group
sums added in increasing order of group: the tree's sums, or the narrow group values. That SKIVED, GROUP and QUAD of SDL_STAT
change with a MATMUL that begins is the model's (DESIGN CHOICE, log entry 27); the sign of a zero narrow value is that of log
entry 26 (DESIGN CHOICE). -/
def Obligations.SaddlesMultiplyInFixedOrder : Prop :=
  (∀ (n : Fin 300) (f : InFlight) (s : State), oldest s n.val 0x10 .issued = some f → matMayStart s n.val f = true →
    SoleFlight s n.val f → Memory.wf s = true → Lists.wf s = true →
    let x := matOf f.words
    (∀ c, tileFault s n.val x = some c →
      ∃ u, exec (.matmul n) s = .next u ∧ EndedAs u n.val f (some (c, 0)) f.ret ∧ u.sdl = s.sdl ∧ u.regs = s.regs
        ∧ u.mem = s.mem ∧ u.h = s.h ∧ OthersKept s u n.val)
    ∧ (tileFault s n.val x = none → dHist f.words = 0 → x.quad = false → x.narrow = false → x.b.space = 2 →
      isBlock x.b.fmt = false → BenchGood s n.val x.b.addr x.bChunk →
      ∃ u r, exec (.matmul n) s = .next u ∧ (u.saddle n.val).runs = (s.saddle n.val).runs ++ [r] ∧ r.slot = f.slot
        ∧ r.step = f.step ∧ r.guard = BitVec.ofNat 8 (s.fld .sdlCtrl n.val 0 0 8) ∧ r.narrow = s.reg .sdlNarrowCtrl n.val 0
        ∧ r.pass = 0 ∧ r.groups = 0 ∧ (u.saddle n.val).tiles = (s.saddle n.val).tiles
        ∧ (u.saddle n.val).active = (s.saddle n.val).active
        ∧ (∀ i c, i < 32 → c < 32 → sget 0 (u.saddle n.val).shadow (32 * i + c) =
            if i < x.k ∧ c < x.n then BitVec.ofNat 64 (fround .fp64 (valueOf x.b.fmt
              (packedCode x.b.fmt (s.benchRaw n.val x.b.addr x.bChunk) (32 * i + c)))) else 0)
        ∧ u.fld .sdlStat n.val 0 11 1 = (if x.skived then 1 else 0) ∧ u.fld .sdlStat n.val 0 9 2 = x.group
        ∧ u.fld .sdlStat n.val 0 8 1 = 0 ∧ SaddlesKeptBut s u n.val ∧ u.mem = s.mem ∧ u.h = s.h ∧ OthersKept s u n.val)
    ∧ (let ranges := fun q => chunkRanges x 0 q
      let c := s.reg .sdlHistCtrl n.val 0
      tileFault s n.val x = none → (s.saddle n.val).slips = [] → (∀ q, q < x.quads → RangesGood s n.val (ranges q)) →
      (∀ q, q < x.quads → reservedIn x 0 0 (rangeBytes s n.val (ranges q) 0) = none) →
      ∃ u r, exec (.matmul n) s = .next u ∧ (u.saddle n.val).runs = (s.saddle n.val).runs ++ [r] ∧ r.slot = f.slot
        ∧ r.step = f.step ∧ r.pass = 0 ∧ r.groups = 0 ∧ r.hist = c ∧ r.bank = [] ∧ (u.saddle n.val).tiles = (s.saddle n.val).tiles
        ∧ (u.saddle n.val).active = (s.saddle n.val).active
        ∧ (∀ q i j, q < x.quads → i < x.w → j < x.w → sget 0 (u.saddle n.val).shadow (laneIndex x q i j) =
            if x.b.space = 3 then
              if i < x.k ∧ j < x.n then BitVec.ofNat 64 (fround .fp64 (tileValue s n.val x.b.addr (x.row q i) (x.col q j))) else 0
            else laneWord x 0 i j (rangeBytes s n.val (ranges q) 0) (rangeBytes s n.val (ranges q) 1)
              (rangeBytes s n.val (ranges q) 2))
        ∧ (dHist f.words = 0 → (u.saddle n.val).bank = (s.saddle n.val).bank)
        ∧ (dHist f.words = 1 → (u.saddle n.val).bank = [] ∧ (u.saddle n.val).bankCtrl = c)
        ∧ (dHist f.words = 2 → (u.saddle n.val).bankCtrl = c
          ∧ (u.saddle n.val).bank = if (s.saddle n.val).bankCtrl = c then (s.saddle n.val).bank else [])
        ∧ u.fld .sdlStat n.val 0 11 1 = (if x.skived then 1 else 0) ∧ u.fld .sdlStat n.val 0 9 2 = x.group
        ∧ u.fld .sdlStat n.val 0 8 1 = (if x.quad then 1 else 0) ∧ SaddlesKeptBut s u n.val ∧ u.mem = s.mem ∧ u.h = s.h
        ∧ OthersKept s u n.val))
  ∧ (∀ (n : Fin 300) (j : Fin 32) (r : MatRun) (s : State), streaming s n.val = some r → Memory.wf s = true → Lists.wf s = true →
    let x := matOf (matWords s n.val r)
    (s.m.gateOpen = true → r.groups = j.val → j.val + 1 < x.q →
      ∃ u, exec (.weltSwitch n j) s = .next u
        ∧ (∀ q i c, q < x.quads → i < x.w → c < x.w → sget 0 (u.saddle n.val).active (laneIndex x q i c) =
            if i / x.g = j.val then sget 0 (s.saddle n.val).shadow (laneIndex x q i c)
            else sget 0 (s.saddle n.val).active (laneIndex x q i c))
        ∧ (u.saddle n.val).shadow = (s.saddle n.val).shadow
        ∧ runNow u n.val r = some { r with groups := j.val + 1, loadedReserved := r.loadedReserved && j.val != 0 }
        ∧ (j.val ≠ 0 → (u.saddle n.val).tiles = (s.saddle n.val).tiles ∧ u.regs = s.regs ∧ u.d = s.d)
        ∧ (j.val = 0 → shapeBad x = false → r.pass % x.kc = 0 → ∀ z ∈ passCells x (r.pass / x.kc),
            let t := x.a0 + r.pass / x.kc * x.mt + z.1 / x.w
            let key := 1024 * t + 32 * x.row z.2.1 (z.1 % x.w) + x.col z.2.1 z.2.2
            tileFlag u n.val t 4 = true ∧ sget 0 (u.saddle n.val).tiles key = if x.accum then sget 0 (s.saddle n.val).tiles key else 0)
        ∧ SaddlesKeptBut s u n.val ∧ u.mem = s.mem ∧ u.h = s.h)
    ∧ (let streams := fun q => streamRanges x r.pass 0 x.aCount q
      s.m.gateOpen = true → r.groups = j.val → j.val + 1 = x.q → r.slips = [] → shapeBad x = false →
      (x.a.space = 3 → x.a.addr < 8 ∧ x.a.addr ∉ x.outTiles) → (∀ q, q < x.quads → RangesGood s n.val (streams q)) →
      (x.passes ≤ r.pass + 1 ∨ badLoadRow s n.val x (r.pass + 1) = none) →
      let acc := x.acc.getD .fp64
      let k0 := x.depth * (r.pass % x.kc)
      let st := fun q => (⟨rangeBytes s n.val (streams q) 0, rangeBytes s n.val (streams q) 1, rangeBytes s n.val (streams q) 2⟩ : Streamed)
      let now := switchGroup s n.val x j.val
      ∃ u, exec (.weltSwitch n j) s = .next u
        ∧ (∀ m q c, (m, q, c) ∈ passCells x (r.pass / x.kc) →
            let t := x.a0 + r.pass / x.kc * x.mt + m / x.w
            let guard := r.guard.toNat.testBit t
            let key := 1024 * t + 32 * x.row q (m % x.w) + x.col q c
            let start := if j.val = 0 ∧ r.pass % x.kc = 0 ∧ x.accum = false then 0 else sget 0 (s.saddle n.val).tiles key
            let sum := fun i => if x.narrow then (narrowGroup acc guard x.a.fmt x.b.fmt (groupPairs now n.val x q k0 m c i (st q))).1
              else (groupTree acc guard (x.group + 2) (groupProducts now n.val x q k0 m c i (st q))).1
            sget 0 (u.saddle n.val).tiles key =
              BitVec.ofNat 64 (accCode acc ((List.range x.q).foldl (fun v i => (chainAdd acc guard v (sum i)).1) (acc.value start.toNat))))
        ∧ u.fld .sdlStat n.val 0 32 32 = (s.fld .sdlStat n.val 0 32 32 + 1) % 2 ^ 32 ∧ SaddlesKeptBut s u n.val
        ∧ u.mem.hbm = s.mem.hbm)
    ∧ ((s.m.gateOpen = false ∨ r.groups ≠ j.val) → exec (.weltSwitch n j) s = .refused (.notEnabled "WELT_SWITCH")))

/-- Drains, shadow checks and scale loads (R71, R97, R109 to R113, R138, R139, R142 to R147, R150 to R152, R172, R585): a drain
writes the tile's elements, scaled or requantised as the descriptor says and converted, at their places of each quadrant's M × N
array; blocks with their scales, captured magnitudes and fused rows are written too, a destination tile takes the elements and
its format, and the histogram counts them; an invalid tile or a malformed entry ends it with nothing written (that a malformed
entry is found before any element is written is the model's: DESIGN CHOICE, log entry 48); a verdict is
counted, a mismatch logged and, with ACTION = FAULT, the run's fault; tags of the checker's streams that differ stop the run
with SCALE_SKEW (R133, R134, R149); SCALE_LOAD writes its entries and no other. -/
def Obligations.DrainsChecksAndScaleLoads : Prop :=
  (∀ (n : Fin 300) (r : MatRun) (f : InFlight) (s : State), drainable s n.val = some r → matFlight s n.val r = some f →
    let x := matOf f.words
    let t := r.drained
    let element := fun (q m c : Nat) => drainValue s n.val x q c (tileValue s n.val (x.a0 + t) (x.row q (m % x.w)) (x.col q (c % x.w)))
    scalePending s n.val f x t = false → Memory.wf s = true → Lists.wf s = true → shapeBad x = false →
    (matRanges f.words).all rangeFits = true →
    (∀ mode, tileFlag s n.val (x.a0 + t) 3 = false → srfBad s n.val x t = false → storeModeOf s f.words r.step = .ok mode →
      x.d.space = 2 → isBlock x.d.fmt = false → x.fused = 0 → x.amaxDst = none →
      let w := elemBytes x.d.fmt
      (x.quad = true → x.m * x.n * w ≤ 32 * x.qsD) →
      ∃ u, exec (.tileDrain n) s = .next u
        ∧ (∀ q m c, q < x.quads → m / x.w = t % x.mt → m < x.m → c / x.w = t / x.mt → c < x.n →
            u.benchRaw n.val (x.d.addr + 32 * q * x.qsD + (m * x.n + c) * w) w =
              leBytes w (drainCode s n.val x (mode.at (m * x.n + c)) q c (element q m c).1).1)
        ∧ BenchKeptBut s u n.val x.d.addr (32 * (x.quads - 1) * x.qsD + x.m * x.n * w)
        ∧ (u.saddle n.val).tiles = (s.saddle n.val).tiles ∧ SaddlesKeptBut s u n.val ∧ (s.mem.benchErr = [] → u.regs = s.regs)
        ∧ u.h = s.h ∧ u.mem.hbm = s.mem.hbm)
    ∧ (∀ mode, tileFlag s n.val (x.a0 + t) 3 = false → srfBad s n.val x t = false → storeModeOf s f.words r.step = .ok mode →
      let rows := drainRows s n.val x t
      let acc := x.acc.getD .fp64
      let fused := rows.foldl (fuseRow x acc (r.guard.toNat.testBit (x.a0 + t)) (decide (t < x.mt))) (r.rowMax, r.rowSum, {})
      let puts := rows.flatMap (fun y : Row => (rowOut s n.val x mode t y).1) ++ amaxPuts x t rows
        ++ if x.nt ≤ t / x.mt + 1 then fusedPuts x acc rows fused.1 fused.2.1 else []
      let bank := histCount (signedOf 12 (field r.hist 0 12)) (field r.hist 12 2) (rows.flatMap fun y : Row => y.ys) r.bank
      matGood f.words = true → List.Pairwise PutsApart puts →
      ∃ u, exec (.tileDrain n) s = .next u ∧ (∀ p ∈ puts, u.benchRaw n.val p.1 p.2.length = p.2)
        ∧ (∀ m b, b < benchSize → s.sector m b ≠ .void → (m = n.val → ∀ p ∈ puts, b < p.1 ∨ p.1 + p.2.length ≤ b) →
            u.benchByte m b = s.benchByte m b)
        ∧ (x.d.space ≠ 3 → (u.saddle n.val).tiles = (s.saddle n.val).tiles)
        ∧ (x.d.space = 3 → x.d.addr < 8 → isBlock x.d.fmt = false →
            (∀ q m c, q < x.quads → m < x.m → c < x.n → sget 0 (u.saddle n.val).tiles (1024 * x.d.addr + 32 * x.row q m + x.col q c) =
              BitVec.ofNat 64 (drainCode s n.val x (mode.at (m * x.n + c)) q c (element q m c).1).1)
            ∧ ∀ a, accFmtOf x.d.fmt = some a → tileFmt u n.val x.d.addr = a ∧ tileFlag u n.val x.d.addr 3 = false)
        ∧ (dHist f.words ≠ 0 → (∃ y, runNow u n.val r = some y ∧ y.drained = t + 1 ∧ y.bank = bank)
            ∨ ∃ g ∈ (u.stir n.val).flight, g.slot = f.slot ∧ g.step = f.step ∧ g.phase = .ended ∧ g.fault = none
                ∧ g.counts = some (r.hist, bank))
        ∧ SaddlesKeptBut s u n.val ∧ u.h = s.h ∧ u.mem.hbm = s.mem.hbm)
    ∧ (tileFlag s n.val (x.a0 + t) 3 = true →
      ∃ u, exec (.tileDrain n) s = .next u ∧ EndedAs u n.val f (some (0x14, 0)) f.ret ∧ u.mem = s.mem)
    ∧ (tileFlag s n.val (x.a0 + t) 3 = false → srfBad s n.val x t = true →
      ∃ u, exec (.tileDrain n) s = .next u ∧ EndedAs u n.val f (some (0x1C, 0)) f.ret ∧ u.mem = s.mem
        ∧ ∀ i ∈ x.outTiles, i < 8 → tileFlag u n.val i 3 = true))
  ∧ (∀ (n : Fin 300) (r : MatRun) (c : ShadowCheck) (rest : List ShadowCheck) (s : State),
    ((s.saddle n.val).runs.find? fun r : MatRun => !r.checks.isEmpty) = some r → r.checks = c :: rest → Memory.wf s = true →
    Lists.wf s = true →
    let x := matOf (matWords s n.val r)
    let bad := mismatch (x.acc.getD .fp64).float (field r.narrow 12 4) c.narrow c.checked
    (checkerSkew x r c = none → bad = false →
      ∃ u, exec (.shadowCheckVerdict n) s = .next u ∧ u.fld .sdlShadowCnt n.val 0 0 40 = (s.fld .sdlShadowCnt n.val 0 0 40 + 1) % 2 ^ 40
        ∧ u.fld .sdlShadowCnt n.val 0 40 24 = s.fld .sdlShadowCnt n.val 0 40 24 ∧ u.h = s.h
        ∧ (u.saddle n.val).tiles = (s.saddle n.val).tiles ∧ SaddlesKeptBut s u n.val)
    ∧ (checkerSkew x r c = none → bad = true → bit r.narrow 9 = false →
      ∃ u, exec (.shadowCheckVerdict n) s = .next u ∧ u.fld .sdlShadowCnt n.val 0 0 40 = (s.fld .sdlShadowCnt n.val 0 0 40 + 1) % 2 ^ 40
        ∧ u.fld .sdlShadowCnt n.val 0 40 24 = (s.fld .sdlShadowCnt n.val 0 40 24 + 1) % 2 ^ 24
        ∧ (∃ e ∈ u.h.log, e.code = 0x0102 ∧ e.p1 = BitVec.ofNat 64 c.narrow ∧ e.p2 = BitVec.ofNat 64 c.checked)
        ∧ (u.saddle n.val).tiles = (s.saddle n.val).tiles ∧ SaddlesKeptBut s u n.val)
    ∧ (∀ f, checkerSkew x r c = none → bad = true → bit r.narrow 9 = true → rest = [] → matFlight s n.val r = some f →
      ∃ u, exec (.shadowCheckVerdict n) s = .next u ∧ EndedAs u n.val f (some (0x1E, 0)) f.ret
        ∧ (∃ e ∈ u.h.log, e.code = 0x0102) ∧ ∀ i ∈ x.spoilt r.drained, i < 8 → tileFlag u n.val i 3 = true)
    ∧ (∀ f k, checkerSkew x r c = some k → rest = [] → matFlight s n.val r = some f →
      ∃ u, exec (.shadowCheckVerdict n) s = .next u ∧ EndedAs u n.val f (some (0x1D, 0)) f.ret
        ∧ (∃ e ∈ u.h.log, e.code = 0x0101 ∧ e.p1 = tagsWord k.a ∧ e.p2 = tagsWord k.b)
        ∧ ∀ i ∈ x.spoilt r.drained, i < 8 → tileFlag u n.val i 3 = true))
  ∧ (∀ (n : Fin 300) (f : InFlight) (s : State), oldest s n.val 0x11 .issued = some f → scaleHeld s n.val f = false →
    Memory.wf s = true → Lists.wf s = true →
    let a := (dRef f.words 40).addr
    let first := dField f.words 48 32 10
    let count := dField f.words 48 0 11
    BenchGood s n.val a (8 * count) →
    ∃ u, exec (.scaleLoad n) s = .next u ∧ EndedAs u n.val f none f.ret
      ∧ (∀ i, i < count → u.reg .sdlSrf n.val (first + i) = BitVec.ofNat 64 (leNat (s.benchRaw n.val (a + 8 * i) 8)))
      ∧ (∀ b, (∀ i, i < count → b ≠ regAddr .sdlSrf n.val (first + i)) → sget 0 u.regs b = sget 0 s.regs b)
      ∧ u.mem = s.mem ∧ u.sdl = s.sdl ∧ u.h = s.h ∧ OthersKept s u n.val)

/-! Vector units (06). -/

/-- The lane-wise opcodes (R225 to R229, R233 to R235): a legal one writes its result in the active lanes and leaves the
others, every other register and the module as they were: arithmetic, compare, select, predicate logic, reductions over
groups of lanes, and draws. An illegal one has no effect but its fault. That a vector row given by itself runs in the unit's
last context is the model's choice (DESIGN CHOICE, log entry 28). -/
def Obligations.VectorLanesCompute : Prop :=
  ∀ (c : Instr) (op : Nat) (u : VecUnit) (vs : Bool) (f : BitVec 56) (s : State), vecRow c = some (op, u, vs, f) → unitFree s u →
    Lists.wf s = true →
    let i := vecInstrOf op vs f
    let x := s.vecOf u
    let act := activeLanes u x i
    let n := unitLanes u
    let lane := fun (ws : List Word) (e : Nat) => ws.getD e 0
    let code := fun (ws : List Word) (e : Nat) => laneCode i.ty (lane ws e)
    let gives := fun (P : Vec → Prop) => ∃ t, exec c s = .next t ∧ OnlyUnit s t u ∧ P (t.vecOf u)
    let lanes := fun (y : Vec) (e : Nat) (w : Word) =>
      (act.getD e false = true → lane (vreg u y i.vd) e = w) ∧ (act.getD e false = false → lane (vreg u y i.vd) e = lane (vreg u x i.vd) e)
    let bits := fun (y : Vec) (e : Nat) (b : Bool) =>
      (act.getD e false = true → (preg u y i.vd).getD e false = b)
        ∧ (act.getD e false = false → (preg u y i.vd).getD e false = (preg u x i.vd).getD e false)
    let grp := fun (e : Nat) => (List.range (groupSize i)).map fun k => e / groupSize i * groupSize i + k
    (∀ k, illegal s u (inBody s u) i = some k → op ≠ 0x3E → gives fun y => y.fault = some ⟨k, 0, 0⟩ ∧ y.v = x.v ∧ y.p = x.p ∧ y.sr = x.sr
      ∧ y.ar = x.ar ∧ y.stage = x.stage)
    ∧ (illegal s u (inBody s u) i = none →
      (0x10 ≤ op → op ≤ 0x27 → gives fun y => UnitRegsBut u x y [i.vd] [] [] [] ∧ ∀ e r fl, e < n →
        laneOp op i.ty i.imm (lane (vreg u x i.va) e).toNat (lane (secondSource u x i) e).toNat (lane (vreg u x i.vc) e).toNat
          = (some r, fl) → lanes y e (BitVec.ofNat 64 r))
      ∧ (op = 0x30 → gives fun y => UnitRegsBut u x y [] [i.vd] [] [] ∧ ∀ e, e < n →
        bits y e (laneCompare i.ty i.imm (code (vreg u x i.va) e) (code (vreg u x i.vb) e)))
      ∧ (op = 0x31 → gives fun y => UnitRegsBut u x y [i.vd] [] [] [] ∧ ∀ e, e < n →
        lanes y e (BitVec.ofNat 64 (if (preg u x i.imm).getD e false then code (vreg u x i.va) e else code (vreg u x i.vb) e)))
      ∧ (op = 0x32 ∨ op = 0x33 ∨ op = 0x34 → gives fun y => UnitRegsBut u x y [] [i.vd] [] [] ∧ ∀ e, e < n →
        let a := (preg u x i.va).getD e false
        let b := (preg u x i.vb).getD e false
        bits y e (if op = 0x32 then a && b else if op = 0x33 then a || b else !a))
      ∧ (0x38 ≤ op → op ≤ 0x3A → gives fun y => UnitRegsBut u x y [i.vd] [] [] [] ∧ ∀ e r b, e < n →
        reduceGroup op i.ty ((grp e).map fun k => if act.getD k false then some (code (vreg u x i.va) k) else none) = some (r, b) →
        lanes y e (BitVec.ofNat 64 r) ∧ (b = true → act.getD e false = true → y.stf &&& 1 = 1))
      ∧ (op = 0x3B → gives fun y => UnitRegsBut u x y [i.vd] [] [] [] ∧ ∀ e, e < n →
        lanes y e (BitVec.ofNat 64 (sadGroup i.ty ((grp e).map fun k =>
          if act.getD k false then some (code (vreg u x i.va) k, code (vreg u x i.vb) k) else none) (code (vreg u x i.vc) e)).1))
      ∧ (op = 0x3C → ∀ seed, seedFor s i.imm x.ctx.mirror = .ok seed →
        gives fun y => UnitRegsBut u x y [i.vd] [] [] [] ∧ ∀ e, e < n →
          lanes y e (BitVec.ofNat 64 (draw32 (draw64 seed i.imm x.ctx.step x.ctx.layer (elemTerm u x + e))))))

/-- Moves, scalars, memory and whole kernels (R217, R221, R222, R225, R230, R231, R238): a saddle unit's loads and stores
reach the bench at their addresses, or fault with nothing written; a REP gathers its L instructions, which run C times; a
kernel starts from its own context, runs its prologue, its body once for each trip and its epilogue, and ends its descriptor
with the fault of the instruction that met one, or without a fault where none did; a kernel of legal instructions on registers
meets none, and its trips add their increments to a0 to a5; a held instruction runs again while the issue gate is open (R488)
and its tiles are free (R115). That a vector row
given by itself runs in the unit's last context is the model's choice (DESIGN CHOICE, log entry 28). -/
def Obligations.VectorUnitsMoveAndRun : Prop :=
  (∀ (c : Instr) (op : Nat) (u : VecUnit) (f : BitVec 56) (s : State), vecRow c = some (op, u, false, f) → unitFree s u →
    Lists.wf s = true →
    let i := vecInstrOf op false f
    let x := s.vecOf u
    let act := activeLanes u x i
    let n := unitLanes u
    let gives := fun (P : Vec → Prop) => ∃ t, exec c s = .next t ∧ OnlyUnit s t u ∧ P (t.vecOf u)
    let lanes := fun (y : Vec) (e : Nat) (w : Word) => (vreg u y i.vd).getD e 0 = if act.getD e false then w else (vreg u x i.vd).getD e 0
    illegal s u (inBody s u) i = none →
    (op = 0x04 → gives fun y => UnitRegsBut u x y [i.vd] [] [] [] ∧ ∀ e, e < n →
      lanes y e (BitVec.ofNat 64 (laneCode i.ty (BitVec.ofNat 64 ((if unitUpdate u then n * x.trip else 0) + e)))))
    ∧ (op = 0x05 → gives fun y => UnitRegsBut u x y [i.vd] [] [] [] ∧ ∀ e, e < n →
      lanes y e (BitVec.ofNat 64 (laneCode i.ty (sreg x i.va))))
    ∧ (op = 0x06 → gives fun y => UnitRegsBut u x y [] [] [i.vd] []
      ∧ sreg y i.vd = BitVec.ofNat 64 (laneCode i.ty ((vreg u x i.va).getD i.imm 0)))
    ∧ (op = 0x07 ∨ op = 0x08 → gives fun y => UnitRegsBut u x y [] [] [i.vd] [] ∧ ∀ r fl,
      laneOp (if op = 0x07 then 0x10 else 0x12) i.ty 0 (sreg x i.va).toNat (sreg x i.vb).toNat 0 = (some r, fl) →
      sreg y i.vd = BitVec.ofNat 64 r)
    ∧ (op = 0x09 → gives fun y => UnitRegsBut u x y [] [] [] [i.vd] ∧ areg y i.vd = (BitVec.ofInt 64 (areg x i.vd + signedOf 25 i.imm)).toInt)
    ∧ (op = 0x0A → gives fun y => UnitRegsBut u x y [] [] [i.vd] [] ∧ sreg y i.vd = BitVec.ofNat 64 x.trip)
    ∧ (op = 0x3E → 0 < repLen (BitVec.setWidth 64 f) → gives fun y => y.need = repLen (BitVec.setWidth 64 f) ∧ y.v = x.v ∧ y.p = x.p
      ∧ y.sr = x.sr ∧ y.ar = x.ar ∧ y.fault = none))
  ∧ (∀ (u : VecUnit) (f : BitVec 56) (r : Word) (s : State), (s.vecOf u).running = false → (s.vecOf u).wait = none →
    (s.vecOf u).need = 1 → (s.vecOf u).block = [r] → (s.vecOf u).done = 0 → (s.vecOf u).restarts = 0 → (s.vecOf u).fault = none →
    s.m.gateOpen = true → Lists.wf s = true → isRep r = true → repLen r = 1 →
    let i := vecInstrOf 0x09 false f
    illegal s u (inBody s u) (vinstrOf r) = none → illegal s u (inBody s u) i = none →
    ∃ t, exec (.aadd u false f) s = .next t ∧ OnlyUnit s t u ∧ (t.vecOf u).need = 0
      ∧ areg (t.vecOf u) i.vd = (BitVec.ofInt 64 (areg (s.vecOf u) i.vd + repCount r * signedOf 25 i.imm)).toInt)
  ∧ (∀ (n : Fin 300) (f : BitVec 56) (s : State), unitFree s (.saddle n) → Memory.wf s = true → Lists.wf s = true →
    let u := VecUnit.saddle n
    let x := s.vecOf u
    let raw := fun (i : VInstr) (e : Nat) => leNat (s.benchRaw n.val (benchAddr x i e).toNat (elemBytes i.mfmt))
    (
      let i := vecInstrOf 0x01 false f
      illegal s u (inBody s u) i = none → i.space = 0 →
      ((∀ e ∈ activeList (activeLanes u x i), elementFault s n.val x i e = none ∧ needsFix s n.val x i e = false) →
        ∃ t, exec (.vld u false f) s = .next t ∧ OnlyUnit s t u ∧ UnitRegsBut u x (t.vecOf u) [i.vd] [] [] [] ∧ ∀ e, e < 1024 →
          (vreg u (t.vecOf u) i.vd).getD e 0 = if (activeLanes u x i).getD e false
            then BitVec.ofNat 64 (loadCode i.ty i.mfmt (raw i e)) else (vreg u x i.vd).getD e 0)
      ∧ (∀ e es, activeList (activeLanes u x i) = e :: es → inRanges x i false (benchAddr x i e) = false →
        ∃ t, exec (.vld u false f) s = .next t ∧ OnlyUnit s t u ∧ (t.vecOf u).fault = some ⟨0x2B, 0, e⟩
          ∧ (t.vecOf u).v = x.v))
    ∧ (
      let i := vecInstrOf 0x03 false f
      illegal s u (inBody s u) i = none → i.space = 0 → elementFault s n.val x i 0 = none → needsFix s n.val x i 0 = false →
      ∃ t, exec (.sld u false f) s = .next t ∧ OnlyUnit s t u ∧ UnitRegsBut u x (t.vecOf u) [] [] [i.vd] []
        ∧ sreg (t.vecOf u) i.vd = BitVec.ofNat 64 (loadCode i.ty i.mfmt (raw i 0)))
    ∧ (
      let i := vecInstrOf 0x02 false f
      illegal s u (inBody s u) i = none → i.space = 0 → i.smode = false → x.ctx.mode = 0 →
      (x.ctx.ranges.all fun r : Nat × Nat × Bool => decide (r.1 + r.2.1 ≤ benchSize)) = true →
      ((∀ e ∈ activeList (activeLanes u x i), inRanges x i true (benchAddr x i e) = true) →
        ∃ t, exec (.vst u false f) s = .next t ∧ UnitRegsBut u x (t.vecOf u) [] [] [] [] ∧ (s.mem.benchErr = [] → t.regs = s.regs) ∧ t.h = s.h
          ∧ t.mem.hbm = s.mem.hbm ∧ t.sdl = s.sdl
          ∧ (∀ e ∈ activeList (activeLanes u x i), t.benchRaw n.val (benchAddr x i e).toNat (elemBytes i.mfmt) =
              leBytes (elemBytes i.mfmt)
                (convertCode i.mfmt .rne (laneValue i.ty (laneCode i.ty ((vreg u x i.va).getD e 0)))).1)
          ∧ ∀ m b, b < benchSize → s.sector m b ≠ .void → (m = n.val → ∀ e ∈ activeList (activeLanes u x i),
              b < (benchAddr x i e).toNat ∨ (benchAddr x i e).toNat + elemBytes i.mfmt ≤ b) → t.benchByte m b = s.benchByte m b)
      ∧ (∀ e, ((activeList (activeLanes u x i)).find? fun e => !inRanges x i true (benchAddr x i e)) = some e →
        ∃ t, exec (.vst u false f) s = .next t ∧ OnlyUnit s t u ∧ (t.vecOf u).fault = some ⟨0x2B, 0, e⟩)))
  ∧ (∀ (n : Fin 300) (f : InFlight) (e : KernelEntry) (s : State), oldest s n.val 0x18 .issued = some f → vecMayStart s n f = true →
    (dRef f.words 120).space = 0 → findKernel (kernelImage s n.val f.bank) (dKernel f.words) = some e → Lists.wf s = true →
    ((dRanges f.words).all fun r : Nat × Nat × Bool => decide (r.1 + r.2.1 ≤ benchSize)) = true →
    ∃ t, exec (.vecKernel n) s = .next t ∧ (t.vecOf (.saddle n)).ctx = vecCtxOf f
      ∧ ((t.vecOf (.saddle n)).running = false ∧ (∃ fault, EndedAs t n.val f fault f.ret)
          ∨ (t.vecOf (.saddle n)).running = true ∧ (t.vecOf (.saddle n)).wait ≠ none)
      ∧ t.mem.hbm = s.mem.hbm ∧ SaddlesKeptBut s t n.val ∧ OthersKept s t n.val
      ∧ ∀ m b, m ≠ n.val → b < benchSize → t.benchByte m b = s.benchByte m b)
  ∧ (∀ (n : Fin 300) (f : InFlight) (e : KernelEntry) (s : State), oldest s n.val 0x18 .issued = some f → vecMayStart s n f = true →
    findKernel (kernelImage s n.val f.bank) (dKernel f.words) = some e → Lists.wf s = true →
    let u := VecUnit.saddle n
    let o := dRef f.words 120
    let args := if o.space = 0 then [] else bytesWords 16 (if o.space = 4 then paramBytes s o.addr 128 else s.benchRaw n.val o.addr 128)
    let bases := (List.range 6).map fun i => match dRange f.words i with
      | some r => r.1
      | none => 0
    let c := codeOf (kernelImage s n.val f.bank) e
    let x := startVec (vecCtxOf f) args bases
    let run := runKernel u c x (putFlight s n.val f { f with phase := .executing })
    let fine := fun (sect : Nat) (w : Word) => illegal s u { x with sect := sect } (vinstrOf w) = none ∧ 3 < (vinstrOf w).base
      ∧ (vinstrOf w).base ≠ 0x3E ∧ ((vinstrOf w).base = 0x3C → ∃ seed, seedFor s (vinstrOf w).imm false = .ok seed)
    (o.space = 0 ∨ o.space = 4 ∨ o.space = 2 ∧ BenchGood s n.val o.addr 128) →
    (run.x.wait = none →
      ∃ t, exec (.vecKernel n) s = .next t
        ∧ EndedAs t n.val f (run.x.fault.map fun z : VecFault => (z.code, vecDetail run.x z)) f.ret
        ∧ t.vecOf u = { run.x with running := false } ∧ t.mem = run.s.mem ∧ t.sdl = run.s.sdl ∧ t.regs = run.s.regs
        ∧ OthersKept s t n.val)
    ∧ ((∀ w ∈ c.pro, fine 0 w) → (∀ w ∈ c.body, fine 1 w) → (∀ w ∈ c.epi, fine 2 w) →
      ∃ t, exec (.vecKernel n) s = .next t ∧ EndedAs t n.val f none f.ret ∧ (t.vecOf u).running = false ∧ (t.vecOf u).fault = none
        ∧ t.mem = s.mem ∧ t.sdl = s.sdl ∧ t.regs = s.regs ∧ t.h = s.h ∧ OthersKept s t n.val
        ∧ ((∀ w ∈ c.pro ++ c.body ++ c.epi, (vinstrOf w).base ≠ 0x09) → ∀ j, j < 6 →
            areg (t.vecOf u) j = (BitVec.ofInt 64 (bases.getD j 0 + dTrips f.words * (dIncs f.words).getD j 0)).toInt)))
  ∧ (∀ (u : VecUnit) (w : Word) (s : State), (s.vecOf u).wait = some w → Memory.wf s = true → Lists.wf s = true →
    ((s.vecOf u).running = true → ∃ n, u = .saddle n ∧ vecFlight s n.val ≠ none) →
    (s.m.gateOpen = false ∨ ((s.vecOf u).running = false ∧ blockFree s u (s.vecOf u) (s.vecOf u).block = false) →
      exec (.vecRestart u) s = .refused (.notEnabled "VEC_RESTART"))
    ∧ (s.m.gateOpen = true → ((s.vecOf u).running = false → blockFree s u (s.vecOf u) (s.vecOf u).block = true) → ∃ t, exec (.vecRestart u) s = .next t
      ∧ (t.reg .sdlVecRestart (unitSaddle u) 0) = s.reg .sdlVecRestart (unitSaddle u) 0 + 1
      ∧ t.mem.hbm = s.mem.hbm ∧ ((s.vecOf u).running = false → (s.vecOf u).block = [w] → (t.vecOf u).wait = none)))

/-! DMA engines (06, 07). -/

/-- COPY and GATHER (R242 to R246, R286 to R289): a COPY of HBM to a bench lands every row, converted, or with SKEW the line
stream that a MATMUL reads; a tile it may not read ends it with nothing written. A GATHER lands the element each index names, ends at the first
index that is out of range, and a held group runs again. -/
def Obligations.CopiesAndGathersMoveData : Prop :=
  (∀ (t : Fin 304) (f : InFlight) (s : State), oldest s t.val 0x20 .issued = some f → copyMayStart s t.val f = true →
    dmaCopyGood t.val f.words = true → copyIssue f.words = none → Memory.wf s = true → Lists.wf s = true →
    let c := copyOf f.words
    let row := fun i : Nat => ((c.src.addr : Int) + i * c.ss).toNat
    let out := fun i : Nat => ((c.dst.addr : Int) + i * c.ds).toNat
    let good := fun u : State => EndedAs u t.val f none f.ret ∧ u.mem.hbm = s.mem.hbm ∧ u.sdl = s.sdl ∧ u.vec = s.vec ∧ u.h = s.h
      ∧ OthersKept s u t.val
    (∀ code, copyTileFault s t.val c = some code →
      ∃ u, exec (.copy t) s = .next u ∧ EndedAs u t.val f (some (code, 0)) f.ret ∧ u.mem = s.mem ∧ u.sdl = s.sdl ∧ u.regs = s.regs
        ∧ u.vec = s.vec ∧ u.h = s.h ∧ OthersKept s u t.val)
    ∧ (∀ mode, c.src.space = 1 → c.dst.space = 2 → (hintOf c.src.hint).discard = false → storeModeOf s f.words f.step = .ok mode →
      (∀ i, i < c.rows → Readable s (dmaClass t.val) (row i) c.srcRow) →
      (c.skew = 0 → (∀ i j, i < j → j < c.rows → out i + c.dstRow ≤ out j ∨ out j + c.dstRow ≤ out i) →
        ∃ u, exec (.copy t) s = .next u ∧ good u
          ∧ (∀ i, i < c.rows → u.benchRaw t.val (out i) c.dstRow =
              (convertRow c mode (i * c.cols) (s.bytesAt (row i) c.srcRow)).1)
          ∧ ∀ m b, b < benchSize → (m = t.val → ∀ i, i < c.rows → b < out i ∨ out i + c.dstRow ≤ b) →
              s.sector m b ≠ .void → u.benchByte m b = s.benchByte m b)
      ∧ (c.skew = 1 ∨ c.skew = 2 →
        ∃ u, exec (.copy t) s = .next u ∧ good u
          ∧ (∀ l r, l < c.lines → r < c.w →
              let v := l - r / c.g
              let m := v % c.mp
              let k0 := c.depth * (v / c.mp % c.kc) + c.n * r
              let n := c.n * elemBits c.dst.fmt / 8
              u.benchRaw t.val (c.dst.addr + l * c.lineBytes + r * n) n =
                if r / c.g ≤ l ∧ v < c.pm ∧ m < c.rows ∧ k0 < c.k then
                  padTo n (convertRow c mode (m * c.cols + k0) (((s.bytesAt (row m) c.srcRow).drop
                    (k0 * elemBits c.src.fmt / 8)).take (c.n * elemBits c.src.fmt / 8))).1
                else List.replicate n 0)
          ∧ BenchKeptBut s u t.val c.dst.addr (c.lines * c.lineBytes))))
  ∧ (∀ (t : Fin 304) (f : InFlight) (s : State), oldest s t.val 0x21 .issued = some f → gatherGood f.words = true →
    gatherIssue t.val f.words = none → (∀ x ∈ s.gathersOf t.val, ¬ (x.slot = f.slot ∧ x.step = f.step)) → Memory.wf s = true →
    Lists.wf s = true → (∀ o a n, rangeLocked s o a n = false) → s.mem.bridgeErr = [] →
    let g := gatherOf f.words
    let index := fun i : Nat => leNat (s.bytesAt (g.idx.addr + 4 * i) 4)
    let fine := fun i : Nat => index i < g.sources ∧ Readable s (dmaClass t.val) (g.src.addr + index i * g.bytes) g.bytes
    let lands := fun (u : State) (i : Nat) => u.benchRaw t.val (g.dst.addr + i * g.bytes) g.bytes =
      s.bytesAt (g.src.addr + index i * g.bytes) g.bytes
    g.src.space = 1 → g.idx.space = 1 → g.dst.space = 2 → (hintOf g.src.hint).discard = false → (hintOf g.idx.hint).discard = false →
    Readable s (dmaClass t.val) g.idx.addr (4 * g.count) →
    ((∀ i, i < g.count → fine i) →
      ∃ u, exec (.gather t) s = .next u ∧ EndedAs u t.val f none f.ret ∧ (∀ i, i < g.count → lands u i)
        ∧ BenchKeptBut s u t.val g.dst.addr (g.count * g.bytes)
        ∧ u.fld .dspGatherStat t.val 0 0 40 = (s.fld .dspGatherStat t.val 0 0 40 + ceilDiv g.count 16) % 2 ^ 40
        ∧ u.gathersOf t.val = s.gathersOf t.val ∧ u.mem.hbm = s.mem.hbm ∧ u.h = s.h ∧ OthersKept s u t.val)
    ∧ (∀ i, i < g.count → (∀ k, k < i → fine k) → g.sources ≤ index i →
      ∃ u, exec (.gather t) s = .next u ∧ EndedAs u t.val f (some (0x2F, place 56 8 3 ||| place 0 32 i)) f.ret
        ∧ (∀ k, k < i / 16 * 16 → lands u k) ∧ BenchKeptBut s u t.val g.dst.addr (g.count * g.bytes)
        ∧ (s.mem.lines = [] → u.mem.hbm = s.mem.hbm) ∧ OthersKept s u t.val))
  ∧ (∀ (t : Fin 304) (r : GatherRun) (f : InFlight) (j tries : Nat) (s : State), readyGroup s t.val = some (r, f, j, tries) →
    Memory.wf s = true → Lists.wf s = true →
    (∃ u, exec (.gatherGroupRestart t) s = .next u
      ∧ u.fld .dspGatherStat t.val 0 40 24 = (s.fld .dspGatherStat t.val 0 40 24 + 1) % 2 ^ 24 ∧ u.vec = s.vec ∧ u.sdl = s.sdl
      ∧ OthersKept s u t.val)
    ∧ (let g := gatherOf f.words
      let index := fun i : Nat => leNat (s.bytesAt (g.idx.addr + 4 * i) 4)
      gatherGood f.words = true → gatherIssue t.val f.words = none → (∀ o a n, rangeLocked s o a n = false) → r.held = [(j, tries)] →
      r.bad = none → ceilDiv g.count 16 ≤ r.next → 16 * j < g.count → g.src.space = 1 → g.idx.space = 1 → g.dst.space = 2 →
      (hintOf g.src.hint).discard = false → (hintOf g.idx.hint).discard = false →
      Readable s (dmaClass t.val) g.idx.addr (4 * g.count) →
      (∀ i, 16 * j ≤ i → i < 16 * j + 16 → i < g.count →
        index i < g.sources ∧ Readable s (dmaClass t.val) (g.src.addr + index i * g.bytes) g.bytes) →
      ∃ u, exec (.gatherGroupRestart t) s = .next u ∧ EndedAs u t.val f none f.ret ∧ u.mem.hbm = s.mem.hbm
        ∧ ∀ i, 16 * j ≤ i → i < 16 * j + 16 → i < g.count → u.benchRaw t.val (g.dst.addr + i * g.bytes) g.bytes =
            s.bytesAt (g.src.addr + index i * g.bytes) g.bytes))

/-! Solver (08). -/

/-- LATIGO_ASSEMBLE (R296, R300, R301): it always ends, and writes its destination alone; a LINEAR assembly writes the header with STEP and NOT STEP and every gathered row scaled by σ (zeros where masked);
an index out of range ends it with OBS_INDEX. -/
def Obligations.LatigoAssemblesItsRows : Prop :=
  ∀ (d : Fin 4) (f : InFlight) (s : State), oldest s (300 + d.val) 0x30 .issued = some f → s.m.gateOpen = true →
    Memory.wf s = true → Lists.wf s = true →
    let x := assembleOf f.words
    let kept := fun u : State => u.sdl = s.sdl ∧ u.vec = s.vec ∧ u.mem.bench = s.mem.bench ∧ u.d.signals = s.d.signals ∧ u.f = s.f
      ∧ u.u = s.u ∧ u.a = s.a ∧ OthersKept s u (300 + d.val)
    areasLocked s (x.out :: x.ins) = false → assembleGood f.words = true → assembleIssue f.words = none →
    (∃ u fault, exec (.latigoAssemble d) s = .next u ∧ EndedAs u (300 + d.val) f fault f.ret ∧ kept u
      ∧ (s.mem.lines = [] → (∀ z ∈ x.ins, (hintOf z.o.hint).discard = false) → BytesKeptBut s u x.out.a x.out.n))
    ∧ (x.kind = 0 → (∀ z ∈ x.ins, (hintOf z.o.hint).discard = false ∧ Readable s .solv z.a z.n) →
      Writable s .solv x.out.a x.out.n →
      let total := x.count * x.m
      let index := fun p : Nat => leNat (s.bytesAt (x.src2.addr + 4 * p) 4)
      let code := fun (o : Operand) (i : Nat) => fround .fp64 (fdecode ((elemFmt o.fmt).getD .fp64)
        (leNat (s.bytesAt (o.addr + i * elemBytes o.fmt) (elemBytes o.fmt))))
      let scaled := fun (p c : Nat) => match sigmaOf (if x.src3.absent then one64 else code x.src3 p) with
        | some g => mul64 g c
        | none => 0
      ((∀ p, p < total → index p < x.rows) →
        ∃ u, exec (.latigoAssemble d) s = .next u ∧ EndedAs u (300 + d.val) f none f.ret ∧ kept u
          ∧ BytesAre u x.dst.addr (wordBytes (place 40 16 x.count ||| place 20 20 x.m ||| place 0 20 x.n))
          ∧ BytesAre u (x.dst.addr + 8) (wordsBytes [f.step, ~~~f.step])
          ∧ BytesAre u (x.dst.addr + 32) (wordsBytes [0, 0, 0, BitVec.ofNat 64 x.batchBytes])
          ∧ (∀ k i, k < x.count → i < x.m →
              let sys := x.dst.addr + 64 + 8 * k * x.m * (x.n + 1)
              let p := k * x.m + i
              (∀ c, c < x.n → u.bytesAt (sys + 8 * (i * x.n + c)) 8 = leBytes 8 (scaled p (code x.src0 (index p * x.n + c))))
              ∧ u.bytesAt (sys + 8 * (x.m * x.n + i)) 8 = leBytes 8 (scaled p (code x.src1 p)))
          ∧ BytesKeptBut s u x.out.a x.out.n)
      ∧ (∀ p, p < total → (∀ k, k < p → index k < x.rows) → x.rows ≤ index p →
        ∃ u, exec (.latigoAssemble d) s = .next u
          ∧ EndedAs u (300 + d.val) f (some (0x33, cinDetail (p / x.m) (p % x.m))) f.ret ∧ kept u
          ∧ BytesKeptBut s u x.out.a x.out.n))

/-- CINCH_SOLVE and CINCH_ADJOINT (R297, R305, R317, R322, R323): each always ends. It checks the header first: a STEP that
differs from its complement is logged and ends it with SYS_STALE, one of another step with SYS_STALE, a reserved field or a
KIND that does not suit with SYS_MALFORMED, and nothing is written. Else LINEAR systems are solved in order into X and STAT,
a system with an input that is not finite gives the NaN of R317 alone; an adjoint whose factor is not the batch's ends
with 0x35 and writes nothing, and one whose factor fits, or of a bundle, writes the words of Table 8-10 of every system and
counts the zeroed ones. That the die is the source of COMPLEMENT_ERROR is the model's (DESIGN CHOICE, log entry 54). -/
def Obligations.CinchChecksThenSolves : Prop :=
  (∀ (d : Fin 4) (f : InFlight) (s : State) (z : Instr × Nat × Cinch × List Area),
    z = (.cinchSolve d, 0x31, solveOf f.words,
        let b := storedBatch s (solveOf f.words); solveIns f.words b ++ solveOuts f.words b)
      ∨ z = (.cinchAdjoint d, 0x32, adjointOf f.words,
        let b := storedBatch s (adjointOf f.words); adjointOut f.words b :: adjointIns f.words b) →
    oldest s (300 + d.val) z.2.1 .issued = some f → s.m.gateOpen = true → areasLocked s z.2.2.2 = false →
    Memory.wf s = true → Lists.wf s = true →
    let b := storedBatch s z.2.2.1
    let kept := fun u : State => u.sdl = s.sdl ∧ u.vec = s.vec ∧ u.mem.bench = s.mem.bench ∧ u.d.signals = s.d.signals ∧ u.f = s.f
      ∧ u.u = s.u ∧ u.a = s.a ∧ OthersKept s u (300 + d.val)
    let ends := fun (code : Nat) (P : State → Prop) => ∃ u, exec z.1 s = .next u ∧ EndedAs u (300 + d.val) f (some (code, 0)) f.ret
      ∧ kept u ∧ u.mem.hbm = s.mem.hbm ∧ P u
    (∃ u fault, exec z.1 s = .next u ∧ EndedAs u (300 + d.val) f fault f.ret ∧ kept u)
    ∧ (Readable s .solv z.2.2.1.sys.addr 64 →
      (complOk b.step b.stepInv = false → ends 0x31 fun u => LogsOne s u 0x0C00 (srcDie d.val) 5 b.step b.stepInv)
      ∧ (complOk b.step b.stepInv = true → b.step ≠ f.step → ends 0x31 fun u => u.h = s.h)
      ∧ (complOk b.step b.stepInv = true → b.step = f.step → b.reserved = true ∨ b.kind ≠ (if z.2.2.1.lm then 1 else 0) →
        ends 0x32 fun u => u.h = s.h)))
  ∧ (∀ (d : Fin 4) (f : InFlight) (s : State), oldest s (300 + d.val) 0x31 .issued = some f → s.m.gateOpen = true →
    Memory.wf s = true → Lists.wf s = true → s.mem.cinErr = [] →
    let x := solveOf f.words
    let b := storedBatch s x
    let body := codesOf 8 (s.bytesAt (x.sys.addr + 64) (b.bytes false - 64))
    let out := (List.range b.count).map fun k =>
      solveLinear x (sRidge f.words) b.n (linearSystem b body k).1 (linearSystem b body k).2
    let xs := bytesOf 8 (out.flatMap fun r : Solved => r.x)
    let stats := wordsBytes (out.flatMap fun r : Solved => r.stat)
    areasLocked s (solveIns f.words b ++ solveOuts f.words b) = false → x.lm = false → (sWarmIn f.words).absent = true →
    (sWarmOut f.words).absent = true → (sFact f.words).absent = true → (sX f.words).absent = false →
    (sStat f.words).absent = false → x.sys.absent = false → complOk b.step b.stepInv = true → b.step = f.step → b.reserved = false →
    b.kind = 0 → 1 ≤ b.m → 1 ≤ b.n → 1 ≤ b.count → (hintOf x.sys.hint).discard = false →
    Readable s .solv x.sys.addr (b.bytes false) → xs.length = 8 * b.count * b.n → stats.length = 32 * b.count →
    Writable s .solv (sX f.words).addr xs.length → Writable s .solv (sStat f.words).addr stats.length →
    ((sX f.words).addr + xs.length ≤ (sStat f.words).addr ∨ (sStat f.words).addr + stats.length ≤ (sX f.words).addr) →
    ∃ u, exec (.cinchSolve d) s = .next u ∧ EndedAs u (300 + d.val) f none f.ret ∧ BytesAre u (sX f.words).addr xs
      ∧ BytesAre u (sStat f.words).addr stats
      ∧ (∀ a, (a < (sX f.words).addr ∨ (sX f.words).addr + xs.length ≤ a) →
          (a < (sStat f.words).addr ∨ (sStat f.words).addr + stats.length ≤ a) → u.byte a = s.byte a)
      ∧ u.fld .cinCntExcluded d.val 0 0 64 =
          (s.fld .cinCntExcluded d.val 0 0 64 + (out.filter fun r : Solved => r.marks.excluded).length) % 2 ^ 64)
  ∧ (∀ (q : Cinch) (ridge n : Nat) (rows : List (List Nat)) (r : List Nat),
    ((∃ l ∈ rows, ∃ v ∈ l, fin64 v = false) ∨ ∃ v ∈ r, fin64 v = false) →
    let y := solveLinear q ridge n rows r
    (∀ v ∈ y.x, v = 0x7FF8400000000000) ∧ y.marks.excluded = true ∧ bit (y.stat.getD 0 0) 63 = false ∧ bit (y.stat.getD 0 0) 59 = true)
  ∧ (∀ (d : Fin 4) (f : InFlight) (s : State), oldest s (300 + d.val) 0x32 .issued = some f → s.m.gateOpen = true →
    Memory.wf s = true → Lists.wf s = true → s.mem.cinErr = [] →
    let x := adjointOf f.words
    let b := storedBatch s x
    areasLocked s (adjointOut f.words b :: adjointIns f.words b) = false → x.lm = false → complOk b.step b.stepInv = true →
    b.step = f.step → b.reserved = false → b.kind = 0 → Readable s .solv x.sys.addr 64 →
    (∀ z ∈ adjointIns f.words b, Readable s .solv z.a z.n) → (sFact f.words).absent = false →
    factFits x b f.step (s.bytesAt (sFact f.words).addr 32) = false →
    ∃ u, exec (.cinchAdjoint d) s = .next u ∧ EndedAs u (300 + d.val) f (some (0x35, 0)) f.ret
      ∧ ∀ a, u.byte a = s.byte a)
  ∧ (∀ (d : Fin 4) (f : InFlight) (s : State), oldest s (300 + d.val) 0x32 .issued = some f → s.m.gateOpen = true →
    Memory.wf s = true → Lists.wf s = true → s.mem.cinErr = [] →
    let x := adjointOf f.words
    let b := storedBatch s x
    let ins := adjointIns f.words b
    let o := adjointOut f.words b
    let area := fun (i : Nat) => let z := ins.getD i o; s.bytesAt z.a z.n
    let part := fun (ws : List Nat) (n k : Nat) => (ws.drop (k * n)).take n
    let sol := part (widen (sX f.words).fmt (area 1)) (b.unknowns x.lm)
    let stat := part (codesOf 8 (area 2)) 4
    let fact := part (codesOf 8 ((area 3).drop 32)) (b.n * (b.n + 1) / 2)
    let g := part (widen (aGbar f.words).fmt (area 4)) (b.unknowns x.lm)
    let cbar := fun (k : Nat) => (widen (aCbar f.words).fmt (area 5)).getD k 0
    let out := if x.lm then [bundleAdjoint x b (bundleOf b (area 0)) (sol 0) (stat 0) (g 0) (cbar 0)]
      else (List.range b.count).map fun k =>
        let z := linearSystem b (codesOf 8 ((area 0).drop 64)) k
        linearAdjoint x b.n z.1 z.2 (sol k) (stat k) (fact k) (g k) (cbar k)
    let data := bytesOf 8 (out.flatMap fun r : Adjoined => r.words)
    areasLocked s (o :: ins) = false → complOk b.step b.stepInv = true → b.step = f.step → b.reserved = false →
    b.kind = (if x.lm then 1 else 0) → (x.lm = true → (bundleOf b (area 0)).indexed = true) →
    (x.lm = false → factFits x b f.step (area 3) = true) → Readable s .solv x.sys.addr 64 →
    (∀ z ∈ ins, (hintOf z.o.hint).discard = false ∧ (z.n = 0 ∨ Readable s .solv z.a z.n)) → o.n ≠ 0 → data.length = o.n →
    Writable s .solv o.a o.n →
    ∃ u, exec (.cinchAdjoint d) s = .next u ∧ EndedAs u (300 + d.val) f none f.ret ∧ BytesAre u o.a data ∧ BytesKeptBut s u o.a o.n
      ∧ u.fld .cinCntAdjZero d.val 0 0 64 =
          (s.fld .cinCntAdjZero d.val 0 0 64 + (out.filter fun r : Adjoined => r.zeroed).length) % 2 ^ 64)

/-- CINCH_DRIVE (R328): it waits while a descriptor occupies the latigo or the cinch (R295) or a stack of its arguments is locked (R273); a malformed argument block, or any inline argument, ends the call with TACK_FAILED and nothing
written; a list whose entries all pass signals its counter once for each and returns 0; the first entry that fails ends the
call with its fault and its number. That bad or inline arguments end the call with STATUS 0x42 and that SLOT is not judged
are the model's (DESIGN CHOICE, log entry 34). -/
def Obligations.CinchDriveRunsItsList : Prop :=
  ∀ (d : Fin 4) (r : TackRun) (f : InFlight) (s : State), startedRun s d.val rtCinchDrive = some r → runFlight s r = some f →
    Memory.wf s = true → Lists.wf s = true →
    (s.m.gateOpen = false ∨ solverBusy s (300 + d.val) = true ∨ argsLocked s r 16 = true →
      exec (.cinchDrive d) s = .refused (.notEnabled "CINCH_DRIVE"))
    ∧ (s.m.gateOpen = true → solverBusy s (300 + d.val) = false → argsLocked s r 16 = false →
    let ends := fun (u : State) (fault : Option (Nat × Word)) (status : Word) => EndedAs u (300 + d.val) f fault (some status)
      ∧ startedRun u d.val rtCinchDrive ≠ some r ∧ OthersKept s u (300 + d.val)
    ((∃ k, inlineBad f.words 0 = some k) →
      ∃ u, exec (.cinchDrive d) s = .next u ∧ ends u (some (0x42, 0x42)) 0x42 ∧ u.mem = s.mem ∧ u.regs = s.regs)
    ∧ (∀ h s1, inlineBad f.words 0 = none → readArgs s r 16 = some (.ok h, s1) → driveHeader (wordAt h 0) (wordAt h 8) = false →
      ∃ u, exec (.cinchDrive d) s = .next u ∧ ends u (some (0x42, 0x42)) 0x42 ∧ u.mem = s1.mem ∧ u.d.signals = s.d.signals)
    ∧ (∀ h bs s1 s2, inlineBad f.words 0 = none → readArgs s r 16 = some (.ok h, s1) →
      driveHeader (wordAt h 0) (wordAt h 8) = true → argsLocked s1 r (16 + 256 * (wordAt h 0).toNat) = false → readArgs s1 r (16 + 256 * (wordAt h 0).toNat) = some (.ok bs, s2) →
      let xs := driveList (wordAt h 0).toNat bs
      let ctr := if bit (wordAt h 8) 12 then some (field (wordAt h 8) 0 12) else none
      (xs.any fun x => areasLocked s2 (imageAreas s2 x.2.1 ++ imageAreas s2 x.2.2)) = false →
      (∀ s3, driveEntries (300 + d.val) f.bank r.step r.slot ctr xs s2 = (none, s3) →
        ∃ u, exec (.cinchDrive d) s = .next u ∧ ends u none 0 ∧ u.mem = s3.mem
          ∧ u.d.signals = s.d.signals ++ List.replicate (if ctr.isSome then (wordAt h 0).toNat else 0) (ctr.getD 0))
      ∧ (∀ c e s3, driveEntries (300 + d.val) f.bank r.step r.slot ctr xs s2 = (some (c, e), s3) →
        ∃ u, exec (.cinchDrive d) s = .next u ∧ ends u (some (c, place 8 8 e ||| place 0 8 c)) (place 8 8 e ||| place 0 8 c)
          ∧ u.mem = s3.mem
          ∧ u.d.signals = s.d.signals ++ List.replicate (if ctr.isSome then e else 0) (ctr.getD 0))
      ∧ (∀ c, imageFault (300 + d.val) (s2.bank d.val f.bank).gen.toNat [0x30] (wordsOfDesc ((bs.drop 16).take 128)) = some c →
        ∃ u, exec (.cinchDrive d) s = .next u ∧ ends u (some (c, place 0 8 c)) (place 0 8 c) ∧ u.mem = s2.mem
          ∧ u.d.signals = s.d.signals)))

/-! Update units (09). -/

/-- UPDATE (R343, R336): its list is read and each binding queued, in list order, at the burnisher of the stack that holds T0;
a denied list ends it. A burnisher's trip (R339, R344, R345, R352): it waits while a lock, the gate or a digest that has not read
its ranges holds it (R386); a binding that may not open ends its UPDATE with the code
and DETAIL of R352 and takes every binding of it off the queues; a trip that runs is counted, and the last one of the last
binding ends the UPDATE; in a dry replay tensors keep their bytes (R390). A girth starts no trip before its gradient has landed and the
step before has passed (R347); a trip whose kernel's instructions are legal and whose windows it may access runs and is counted,
the binding stays open until the chunk's last trip, and only the windows of its tensors and its norm words change; a binding
that may not open ends the collective's routine with its code (R348). -/
def Obligations.UpdateUnitsRunTheirTrips : Prop :=
  (∀ (d : Fin 4) (f : InFlight) (s : State), oldest s (300 + d.val) 0x38 .issued = some f → Memory.wf s = true →
    Lists.wf s = true →
    let o := dBind f.words
    let n := dBindCount f.words
    hbmLocked s o.addr (128 * n) = false → (hintOf o.hint).discard = false →
    (Readable s .upd o.addr (128 * n) →
      let work := (List.range n).map fun i => ({ die := d.val, slot := f.slot, index := i, bind := o.addr + 128 * i
                                                 bytes := s.bytesAt (o.addr + 128 * i) 128, step := f.step } : UpdWork)
      ∃ u, exec (.update d) s = .next u
        ∧ (∀ k, u.updQueue k = s.updQueue k ++ work.filter fun w : UpdWork =>
            stackOf s ((bindingOf w.bytes).tensors.getD 0 ⟨0, 0, 0, 0⟩).addr == k)
        ∧ (∃ g ∈ (u.stir (300 + d.val)).flight, g = { f with phase := .executing }) ∧ u.mem.hbm = s.mem.hbm ∧ RegsKeptBut s u []
        ∧ u.h = s.h ∧ u.sdl = s.sdl ∧ u.vec = s.vec ∧ u.f = s.f ∧ u.d.signals = s.d.signals ∧ OthersKept s u (300 + d.val))
    ∧ (∀ a rg, o.addr + 128 * n ≤ hbmSize → denied s .upd false o.addr (128 * n) = some (a, rg) →
      ∃ u, exec (.update d) s = .next u ∧ EndedAs u (300 + d.val) f (some (0x24, errDetail (.protect a rg false))) f.ret ∧ u.u = s.u
        ∧ u.mem = s.mem ∧ OthersKept s u (300 + d.val)))
  ∧ (∀ (n : Fin 32) (w : UpdWork) (rest : List UpdWork) (s : State), s.updQueue n.val = w :: rest → Memory.wf s = true →
    Lists.wf s = true →
    let b := bindingOf w.bytes
    let code := fun bank : Nat => bindCode (s.bank (n.val / 8) bank).image b
    let gone := fun u : State => ∀ k, ∀ y ∈ u.updQueue k, sameUpdate y w = false
    let alone := ∀ m, m ≠ n.val → ∀ y ∈ s.updQueue m, sameUpdate y w = true → y.trips = 0
    (s.m.gateOpen = false ∨ mirrorLocked s = true ∨ stackLocked s n.val = true ∨ rangeUnread s w.step b = true →
      exec (.updTripStart n) s = .refused (.notEnabled "UPD_TRIP_START"))
    ∧ (s.m.gateOpen = true → mirrorLocked s = false → stackLocked s n.val = false → rangeUnread s w.step b = false →
      (∃ u, exec (.updTripStart n) s = .next u ∧ u.sdl = s.sdl ∧ u.f = s.f ∧ u.d.signals = s.d.signals ∧ u.mem.bench = s.mem.bench
        ∧ OthersKept s u (300 + w.die)
        ∧ (u.fld .updBurnStat n.val 0 24 40 = (s.fld .updBurnStat n.val 0 24 40 + 1) % 2 ^ 40
          ∨ gone u ∧ ∀ f, updFlight s w = some f → ∃ c i e, EndedAs u (300 + w.die) f (some (c, updDetail i e)) f.ret))
      ∧ (∀ f c, alone → w.trips = 0 → updFlight s w = some f →
        burnRefuses s n.val ((s.stir (300 + n.val / 8)).bank) b = some c →
        ∃ u, exec (.updTripStart n) s = .next u ∧ EndedAs u (300 + w.die) f (some (c, place 40 8 w.index)) f.ret ∧ gone u
          ∧ u.mem = s.mem ∧ ∀ v, u.vecOf v = s.vecOf v ∨ u.vecOf v = { s.vecOf v with running := false })
      ∧ (∀ k s2, w.trips ≠ 0 → code w.bank = some k → runTrip (.burnisher n) b k w.bind w.step w.trips none s = (.ok (), s2) →
        ((w.trips + 1) * 256 < b.count →
          ∃ u, exec (.updTripStart n) s = .next u ∧ u.updQueue n.val = { w with trips := w.trips + 1 } :: rest ∧ u.mem = s2.mem
            ∧ u.vec = s2.vec)
        ∧ (∀ f s3, b.count ≤ (w.trips + 1) * 256 → closeBinding (.burnisher n) k (s2.countWrap .updBurnStat n.val 0 24 40 1) =
            (.ok (), s3) → (∀ m, ∀ y ∈ s.updQueue m, sameUpdate y w = true → m = n.val ∧ y = w) → rest = [] →
          updFlight s w = some f →
          ∃ u, exec (.updTripStart n) s = .next u ∧ EndedAs u (300 + w.die) f none f.ret ∧ u.updQueue n.val = [] ∧ u.mem = s3.mem))
      ∧ (alone → s.a.dry.isSome = true → s.mem.lines = [] → b.norm.absent = true →
        (∀ z ∈ bindRanges b, (hintOf z.1.hint).discard = false) →
        ∃ u, exec (.updTripStart n) s = .next u ∧ u.mem.hbm = s.mem.hbm)))
  ∧ (∀ (p : Fin 12) (x : Landing) (c : Coll) (s : State), girthChunk s p.val = some (x, c) → Memory.wf s = true → Lists.wf s = true →
      (tripLanded x = false ∨ priorPassed s x.step = false ∨ s.m.gateOpen = false ∨ mirrorLocked s = true →
        exec (.girthTripStart p) s = .refused (.notEnabled "GIRTH_TRIP_START"))
      ∧ (let b := bindingOf (s.bytesAt x.bind 128)
        tripLanded x = true → priorPassed s x.step = true → s.m.gateOpen = true → mirrorLocked s = false →
        hbmLocked s x.bind 128 = false → bindLocked s b = false → rangeUnread s x.step b = false → Readable s .upd x.bind 128 →
        let v := VecUnit.girth p
        let trip := x.first / 1024 + x.trips
        let grad := (List.range (chunkNext x)).map fun k =>
          leNat ((List.range x.width).map fun j => sget 0 x.grad ((1024 * x.trips + k) * x.width + j))
        let counted := fun u : State => u.fld .updGirthStat p.val 0 24 40 = (s.fld .updGirthStat p.val 0 24 40 + 1) % 2 ^ 40
        (∀ k s1 s2, x.trips ≠ 0 → bindCode (s.bank c.die x.bank).image b = some k →
          memRead s .upd {} x.bind 128 = (.ok (s.bytesAt x.bind 128), s1) →
          runTrip v b k x.bind x.step trip (some grad) s1 = (.ok (), s2) → s.f.buffer = [] → 1024 * (x.trips + 1) < x.count →
          ∃ u, exec (.girthTripStart p) s = .next u ∧ counted u ∧ u.mem = s2.mem ∧ u.vec = s2.vec ∧ u.d = s2.d ∧ u.f.colls = s.f.colls
            ∧ { x with trips := x.trips + 1 } ∈ u.f.landing)
        ∧ (∀ k, x.trips = 0 → bindCode (s.bank c.die (collBank s c)).image b = some k → girthRefuses s x b (some k) = none →
          let y := startUpd (updCtx b c.slot x.step 1024) []
          let fine := fun (sect : Nat) (w : Word) => illegal s v { y with sect := sect } (vinstrOf w) = none ∧ (vinstrOf w).base ≠ 3
            ∧ (vinstrOf w).base ≠ 0x3E ∧ ((vinstrOf w).base = 0x3C → ∃ seed, seedFor s (vinstrOf w).imm b.mirror = .ok seed)
          let at' := fun z : Window => z.1.addr + z.2.2.2.1 * z.2.1
          let size := fun z : Window => z.2.2.2.2 * z.2.1
          (∀ w ∈ k.pro, fine 0 w) → (∀ w ∈ k.body, fine 1 w) → (∀ w ∈ k.epi, fine 2 w) → b.storeMode ≠ 1 →
          (b.hyper.absent = true ∨ (hintOf b.hyper.hint).discard = false ∧ Readable s .upd b.hyper.addr 112) →
          (∀ z ∈ tripWindows b 1024 trip, z.1.absent = true ∨ size z = 0
            ∨ (hintOf z.1.hint).discard = false ∧ Readable s .upd (at' z) (size z)) →
          (∀ z ∈ (tripWindows b 1024 trip).take 6, z.1.absent = true ∨ size z = 0 ∨ denied s .upd true (at' z) (size z) = none) →
          (b.norm.absent = true ∨ Writable s .upd b.norm.addr (8 * ceilDiv b.count 4096)) → s.f.buffer = [] →
          ∃ u, exec (.girthTripStart p) s = .next u ∧ counted u
            ∧ (1024 < x.count → { x with trips := 1, bank := collBank s c } ∈ u.f.landing ∧ u.f.colls = s.f.colls ∧ u.d = s.d
              ∧ u.fld .updGirthStat p.val 0 16 8 = x.index % 256 ∧ u.fld .updGirthStat p.val 0 0 1 = 1
              ∧ (s.a.dry.isSome = true → b.norm.absent = true → u.mem.hbm = s.mem.hbm)
              ∧ ∀ a, (∀ z ∈ (tripWindows b 1024 trip).take 6, z.1.absent = true ∨ a < at' z ∨ at' z + size z ≤ a) →
                  (b.norm.absent = true ∨ a < b.norm.addr ∨ b.norm.addr + 8 * ceilDiv b.count 4096 ≤ a) → u.byte a = s.byte a)
            ∧ (x.count ≤ 1024 → u.fld .updGirthStat p.val 0 0 1 = 0))
        ∧ (∃ u, exec (.girthTripStart p) s = .next u ∧ (s.f.buffer = [] → u.sdl = s.sdl ∧ u.mem.bench = s.mem.bench
          ∧ u.u.queues = s.u.queues
          ∧ (u.fld .updGirthStat p.val 0 24 40 = (s.fld .updGirthStat p.val 0 24 40 + 1) % 2 ^ 40 ∨ u.coll c.id = none)))
        ∧ (∀ e, x.trips = 0 → girthRefuses s x b (bindCode (s.bank c.die (collBank s c)).image b) = some e →
          ∃ u, exec (.girthTripStart p) s = .next u ∧ u.coll c.id = none ∧ u.mem.hbm = s.mem.hbm
            ∧ ∀ r f, collRun s c = some r → runFlight s r = some f →
                ∃ status, EndedAs u (300 + r.die) f (some (e, status)) (some status))))

/-! The plain completion of commands of several chapters. -/

/-- Twenty commands complete with their own effect under conditions on the state and the operands alone: the buckle is taken, renewed, read and
expires (R464); a packet of small records is judged (R468); an image is loaded, committed and applied (R511 to R514); a mirror
copy's frame is stored, the copy ends, or times out (R393, R526); the cap is set (R490), a period of the rein ends (R489), the
gate closes and opens (R488) and the module ceases to be reined (R493); the input, the rails and the junctions are measured
(R487, R495, R497); the limit lowers the operating point (R498) and the trip acts (R500). -/
def Obligations.LeasesImagesCopiesAndSensorsComplete : Prop :=
  (∀ (q : Req) (lease : BitVec 32) (ms : Nat) (s : State), leaseMs s lease = some ms →
    (accepts s q 0x10 = true → s.h.buckle.holder = none →
      ∃ t, exec (.bklAcquire q lease) s = .next t ∧ t.h.buckle.holder = some (q.port, q.session)
        ∧ t.h.buckle.expiry = s.time + BitVec.ofNat 64 (ms * 1000000))
    ∧ (accepts s q 0x11 = true → s.h.buckle.holder = some (q.port, q.session) →
      ∃ t, exec (.bklRenew q lease) s = .next t ∧ t.h.buckle.expiry = s.time + BitVec.ofNat 64 (ms * 1000000)))
  ∧ (∀ (q : Req) (s : State), accepts s q 0x13 = true → ∃ t, exec (.bklQuery q) s = .next t ∧ t.h.buckle = s.h.buckle
    ∧ Answered s t q 0 (bucklePayload s))
  ∧ (∀ (h : Fin 2 × BitVec 16) (s : State), s.h.buckle.holder = some h → s.h.buckle.pins = [] →
    ∃ t, exec .bklExpired s = .next t ∧ t.h.buckle.holder = none)
  ∧ (∀ (q : Req) (step stepInv : Word) (es : Bytes) (s : State), accepts s q 0x31 = true → multiFits s es.length = true →
    multiWaits step stepInv es s = false →
    ∃ t sts, exec (.dataPutMulti q step stepInv es) s = .next t ∧ t.d = s.d ∧ List.length sts = es.length / (16 + recBytes s)
      ∧ (∀ i st, i < List.length sts → recordRefusal s step stepInv (wordAt es (i * (16 + recBytes s)))
          (wordAt es (i * (16 + recBytes s) + 8)) = some st → sts[i]? = some st)
      ∧ (q.replyReq = true ∨ (∃ st ∈ sts, st ≠ 0) → Answered s t q 0 (sts.flatMap (leBytes 2))))
  ∧ (∀ (q : Req) (o : BitVec 32) (bs : Bytes) (s : State), accepts s q 0x40 = true → 1 ≤ bs.length → bs.length ≤ 8248 →
    o.toNat + bs.length ≤ 2 ^ 32 → s.m.st = .waitHost → s.m.hwFailed = false → Lists.wf s = true →
    ∃ t, exec (.cfgLoad q o bs) s = .next t ∧ t.m = s.m ∧ ∀ i, i < bs.length → sget 0 t.c.staged (o.toNat + i) = bs.getD i 0)
  ∧ (∀ (q : Req) (s : State), accepts s q 0x41 = true → s.m.st = .waitHost → commitFailure s q.port = none →
    ∃ t, exec (.cfgCommit q) s = .next t ∧ t.m.st = .committing ∧ t.c.commit = some s.h.nextTicket)
  ∧ (∀ (n : BitVec 32) (s : State), s.m.st = .committing → s.c.commit = some n →
    (∃ t, exec (.commitComplete none) s = .next t ∧ t.m.st = .running ∧ t.m.locked = true)
    ∧ ∀ i, ∃ t, exec (.commitComplete (some i)) s = .next t ∧ t.m.st = .waitHost)
  ∧ (∀ (p : Fin 12) (f : Frame) (mirror : Bool) (m : MirrorCopy) (a n : Nat) (s s1 : State), (s.port p.val).st = .up →
    (s.port p.val).nak = false → f.type = 5 → isLocal s p.val f = true → acceptFrame f = .ok → s.f.copyHeld = [] →
    Memory.wf s = true → s.f.copy = some m → m.source = false → m.peer = f.src →
    copyRanges (returnCredit s p.val f) m.dstMirror = (some [(a, n)], s1) → f.offset + f.payload.length ≤ n →
    0 < f.payload.length → a + n ≤ 2 ^ 40 → denied s1 .ddma true (a + f.offset) f.payload.length = none →
    (∀ l ∈ linesOf (a + f.offset) f.payload.length, s1.lineMeta l = {}) →
    ∃ t, exec (.mcopyFrameReceived p ⟨f, mirror⟩) s = .next t ∧ BytesAre t (a + f.offset) f.payload)
  ∧ (∀ (peer own : Word) (m : MirrorCopy) (rs : List (Nat × Nat)) (s s1 : State), s.f.copy = some m → s.f.copyHeld = [] →
    s.m.rung = .none → (copyRanges s (if m.source then m.srcMirror else m.dstMirror)).1 = some rs → totalBytes rs ≤ m.done →
    copyDigest s (if m.source then m.srcMirror else m.dstMirror) = (.ok (some own), s1) →
    ∃ t, exec (.mirrorCopyDone peer) s = .next t ∧ t.f.copy = none)
  ∧ (∀ (m : MirrorCopy) (s : State), s.f.copy = some m → s.f.copyHeld = [] → s.m.rung = .none →
    ∃ t, exec (.copyTimeout m.source) s = .next t ∧ t.f.copy = none)
  ∧ (∀ (q : Req) (cap : BitVec 12) (s : State), accepts s q 0x90 = true → 1000 ≤ cap.toNat → cap.toNat ≤ 3600 →
    Memory.wf s = true → ∃ t, exec (.pwrCapSet q cap) s = .next t ∧ capWatts t = cap.toNat)
  ∧ (∀ s : State, reinRuns s = true → Memory.wf s = true →
    (∀ counts, ∃ t, exec (.reinPeriod counts) s = .next t ∧ t.fld .pwrStat 0 0 48 16 = (estimate s counts).toNat)
    ∧ (s.m.gateOpen = true → s.m.gateLevel < 100 → ∃ t, exec (.gateWindow true) s = .next t ∧ t.m.gateOpen = false)
    ∧ (∃ t, exec (.gateWindow false) s = .next t ∧ t.m.gateOpen = true ∧ t.m.gateLevel = gate s)
    ∧ (bit (s.reg .pwrStat 0 0) 3 = true → vmin s < vcore s →
      ∃ t, exec .thermalLimitAction s = .next t ∧ vcore t = max (vmin s) (vcore s - 5)))
  ∧ (∀ (w : Word) (s : State), s.m.reinedEnd = some w → Memory.wf s = true → reinedNow s = false →
    ∃ t, exec .reinedExit s = .next t ∧ t.reined = false)
  ∧ (∀ s : State, s.m.supplied = true → Memory.wf s = true →
    (∀ v a w : BitVec 16, ∃ t, exec (.inputSample v a w) s = .next t ∧ t.fld .pwrInput 0 0 32 16 = w.toNat)
    ∧ (∀ (mv : List (BitVec 14)) (i : Nat) (x : BitVec 14), mv.length = 6 → mv[i]? = some x →
      ∃ t, exec (.railSample mv) s = .next t ∧ t.fld .pwrRail i 0 0 14 = x.toNat)
    ∧ (∀ (ts : List (Option (BitVec 8))) (i : Nat) (x : BitVec 8), ts.length = 7 → ts[i]? = some (some x) →
      ∃ t, exec (.junctionSample ts) s = .next t ∧ t.fld .thmJunc i 0 0 8 = x.toNat)
    ∧ (∀ c, s.m.st ≠ .tripped → tripCause s = some c → ∃ t, exec .thermalTrip s = .next t ∧ t.m.st = .tripped))
end

