-- ==== Sys2Proof/Laws/Sparse.lean ====
section
/-! SUPPORT. The sparse stores: a read after a write, and that every write keeps the canonical form. -/

namespace Sys2Proof

variable {α : Type}

theorem sget_sput_same (d : α) : ∀ (m : List (Nat × α)) (k : Nat) (x : α), sget d (sput m k x) k = x
  | [], k, x => by simp [sput, sget]
  | (j, v) :: m, k, x => by
    unfold sput
    split
    · simp [sget]
    · split
      · simp [sget]
      · rename_i h1 h2
        simp [sget, h1, h2, sget_sput_same d m k x]

theorem sget_sput_other (d : α) : ∀ (m : List (Nat × α)) (k l : Nat) (x : α), k ≠ l → sget d (sput m k x) l = sget d m l
  | [], k, l, x, h => by simp [sput, sget, h]
  | (j, v) :: m, k, l, x, h => by
    unfold sput
    split
    · rename_i e; subst e; simp [sget, h]
    · split
      · simp only [sget, h, if_false]
        by_cases hl : l < k
        · have h1 : j ≠ l := by omega
          have h2 : l < j := by omega
          simp [hl, h1, h2]
        · simp [hl]
      · simp only [sget, sget_sput_other d m k l x h]

section Canonical
variable [DecidableEq α] (d : α)

/-- Below the first key of a store in canonical form nothing is listed. -/
theorem sget_of_swfFrom : ∀ (m : List (Nat × α)) (b k : Nat), swfFrom d b m = true → k < b → sget d m k = d
  | [], _, _, _, _ => rfl
  | (j, v) :: m, b, k, h, hk => by
    simp only [swfFrom, Bool.and_eq_true, decide_eq_true_eq] at h
    have h1 : j ≠ k := by omega
    have h2 : k < j := by omega
    simp [sget, h1, h2]

/-- A lower bound on the keys may be taken lower. -/
theorem swfFrom_mono {m : List (Nat × α)} {b c : Nat} (hb : c ≤ b) (h : swfFrom d b m = true) : swfFrom d c m = true := by
  cases m with
  | nil => rfl
  | cons e m =>
    obtain ⟨j, v⟩ := e
    simp only [swfFrom, Bool.and_eq_true, decide_eq_true_eq] at h ⊢
    exact ⟨by omega, h.2⟩

theorem sget_sdel_same : ∀ (m : List (Nat × α)) (b k : Nat), swfFrom d b m = true → sget d (sdel m k) k = d
  | [], _, _, _ => rfl
  | (j, v) :: m, b, k, h => by
    simp only [swfFrom, Bool.and_eq_true, decide_eq_true_eq] at h
    unfold sdel
    split
    · exact sget_of_swfFrom d m (j + 1) k h.2.2 (by omega)
    · rename_i h1
      split
      · rename_i h2; simp [sget, h1, h2]
      · rename_i h2; simp [sget, h1, h2, sget_sdel_same m (j + 1) k h.2.2]

theorem sget_sdel_other : ∀ (m : List (Nat × α)) (b k l : Nat), swfFrom d b m = true → k ≠ l → sget d (sdel m k) l = sget d m l
  | [], _, _, _, _, _ => rfl
  | (j, v) :: m, b, k, l, h, hk => by
    simp only [swfFrom, Bool.and_eq_true, decide_eq_true_eq] at h
    unfold sdel
    split
    · rename_i e; subst e
      by_cases hl : l < j
      · simp [sget, hk, hl, sget_of_swfFrom d m (j + 1) l h.2.2 (by omega)]
      · simp [sget, hk, hl]
    · split
      · rfl
      · simp only [sget, sget_sdel_other m (j + 1) k l h.2.2 hk]

/-- A key reads as what was written to it last. -/
theorem sget_sset_same (m : List (Nat × α)) (k : Nat) (x : α) (h : swf d m = true) : sget d (sset d m k x) k = x := by
  unfold sset
  split
  · rename_i e; rw [e]; exact sget_sdel_same d m 0 k h
  · exact sget_sput_same d m k x

/-- A write leaves every other key alone. -/
theorem sget_sset_other (m : List (Nat × α)) {k l : Nat} (x : α) (h : swf d m = true) (hk : k ≠ l) :
    sget d (sset d m k x) l = sget d m l := by
  unfold sset
  split
  · exact sget_sdel_other d m 0 k l h hk
  · exact sget_sput_other d m k l x hk

theorem swfFrom_sdel : ∀ (m : List (Nat × α)) (b k : Nat), swfFrom d b m = true → swfFrom d b (sdel m k) = true
  | [], _, _, _ => rfl
  | (j, v) :: m, b, k, h => by
    have h0 := h
    simp only [swfFrom, Bool.and_eq_true, decide_eq_true_eq] at h
    unfold sdel
    split
    · exact swfFrom_mono d (by omega) h.2.2
    · split
      · exact h0
      · simp only [swfFrom, Bool.and_eq_true, decide_eq_true_eq]
        exact ⟨h.1, h.2.1, swfFrom_sdel m (j + 1) k h.2.2⟩

theorem swfFrom_sput : ∀ (m : List (Nat × α)) (b k : Nat) (x : α), x ≠ d → b ≤ k → swfFrom d b m = true →
    swfFrom d b (sput m k x) = true
  | [], b, k, x, hx, hb, _ => by simp [sput, swfFrom, hx, hb]
  | (j, v) :: m, b, k, x, hx, hb, h => by
    simp only [swfFrom, Bool.and_eq_true, decide_eq_true_eq] at h
    unfold sput
    split
    · rename_i e; subst e
      simp [swfFrom, hx, h.1, h.2.2]
    · split
      · simp only [swfFrom, Bool.and_eq_true, decide_eq_true_eq]
        exact ⟨hb, hx, by omega, h.2⟩
      · simp only [swfFrom, Bool.and_eq_true, decide_eq_true_eq]
        exact ⟨h.1, h.2.1, swfFrom_sput m (j + 1) k x hx (by omega) h.2.2⟩

/-- A write keeps the canonical form. -/
theorem swf_sset (m : List (Nat × α)) (k : Nat) (x : α) (h : swf d m = true) : swf d (sset d m k x) = true := by
  unfold sset
  split
  · exact swfFrom_sdel d m 0 k h
  · rename_i e; exact swfFrom_sput d m 0 k x e (Nat.zero_le k) h

end Canonical

end Sys2Proof
end

