-- ==== Sys2Proof/Laws/State.lean ====
section
/-! SUPPORT. What each named update of the state leaves alone: one lemma for each field and update. -/

namespace Sys2Proof.Machine

/-! `State.setReg` changes `regs` only. -/

@[simp] theorem State.setReg_pending (s : State) (k : RegKind) (i j : Nat) (v : Word) : (s.setReg k i j v).pending = s.pending := rfl
@[simp] theorem State.setReg_freeCount (s : State) (k : RegKind) (i j : Nat) (v : Word) : (s.setReg k i j v).freeCount = s.freeCount := rfl
@[simp] theorem State.setReg_time (s : State) (k : RegKind) (i j : Nat) (v : Word) : (s.setReg k i j v).time = s.time := rfl
@[simp] theorem State.setReg_phases (s : State) (k : RegKind) (i j : Nat) (v : Word) : (s.setReg k i j v).phases = s.phases := rfl
@[simp] theorem State.setReg_sent (s : State) (k : RegKind) (i j : Nat) (v : Word) : (s.setReg k i j v).sent = s.sent := rfl
@[simp] theorem State.setReg_m (s : State) (k : RegKind) (i j : Nat) (v : Word) : (s.setReg k i j v).m = s.m := rfl
@[simp] theorem State.setReg_h (s : State) (k : RegKind) (i j : Nat) (v : Word) : (s.setReg k i j v).h = s.h := rfl
@[simp] theorem State.setReg_cfgInv (s : State) (k : RegKind) (i j : Nat) (v : Word) : (s.setReg k i j v).cfgInv = s.cfgInv := rfl
@[simp] theorem State.setReg_c (s : State) (k : RegKind) (i j : Nat) (v : Word) : (s.setReg k i j v).c = s.c := rfl
@[simp] theorem State.setReg_sec (s : State) (k : RegKind) (i j : Nat) (v : Word) : (s.setReg k i j v).sec = s.sec := rfl
@[simp] theorem State.setReg_maint (s : State) (k : RegKind) (i j : Nat) (v : Word) : (s.setReg k i j v).maint = s.maint := rfl
@[simp] theorem State.setReg_mem (s : State) (k : RegKind) (i j : Nat) (v : Word) : (s.setReg k i j v).mem = s.mem := rfl
@[simp] theorem State.setReg_d (s : State) (k : RegKind) (i j : Nat) (v : Word) : (s.setReg k i j v).d = s.d := rfl
@[simp] theorem State.setReg_sdl (s : State) (k : RegKind) (i j : Nat) (v : Word) : (s.setReg k i j v).sdl = s.sdl := rfl
@[simp] theorem State.setReg_vec (s : State) (k : RegKind) (i j : Nat) (v : Word) : (s.setReg k i j v).vec = s.vec := rfl
@[simp] theorem State.setReg_f (s : State) (k : RegKind) (i j : Nat) (v : Word) : (s.setReg k i j v).f = s.f := rfl
@[simp] theorem State.setReg_u (s : State) (k : RegKind) (i j : Nat) (v : Word) : (s.setReg k i j v).u = s.u := rfl
@[simp] theorem State.setReg_a (s : State) (k : RegKind) (i j : Nat) (v : Word) : (s.setReg k i j v).a = s.a := rfl

/-! `State.setInv` changes `cfgInv` only. -/

@[simp] theorem State.setInv_pending (s : State) (k : RegKind) (i j : Nat) (v : Word) : (s.setInv k i j v).pending = s.pending := rfl
@[simp] theorem State.setInv_freeCount (s : State) (k : RegKind) (i j : Nat) (v : Word) : (s.setInv k i j v).freeCount = s.freeCount := rfl
@[simp] theorem State.setInv_time (s : State) (k : RegKind) (i j : Nat) (v : Word) : (s.setInv k i j v).time = s.time := rfl
@[simp] theorem State.setInv_phases (s : State) (k : RegKind) (i j : Nat) (v : Word) : (s.setInv k i j v).phases = s.phases := rfl
@[simp] theorem State.setInv_sent (s : State) (k : RegKind) (i j : Nat) (v : Word) : (s.setInv k i j v).sent = s.sent := rfl
@[simp] theorem State.setInv_regs (s : State) (k : RegKind) (i j : Nat) (v : Word) : (s.setInv k i j v).regs = s.regs := rfl
@[simp] theorem State.setInv_m (s : State) (k : RegKind) (i j : Nat) (v : Word) : (s.setInv k i j v).m = s.m := rfl
@[simp] theorem State.setInv_h (s : State) (k : RegKind) (i j : Nat) (v : Word) : (s.setInv k i j v).h = s.h := rfl
@[simp] theorem State.setInv_c (s : State) (k : RegKind) (i j : Nat) (v : Word) : (s.setInv k i j v).c = s.c := rfl
@[simp] theorem State.setInv_sec (s : State) (k : RegKind) (i j : Nat) (v : Word) : (s.setInv k i j v).sec = s.sec := rfl
@[simp] theorem State.setInv_maint (s : State) (k : RegKind) (i j : Nat) (v : Word) : (s.setInv k i j v).maint = s.maint := rfl
@[simp] theorem State.setInv_mem (s : State) (k : RegKind) (i j : Nat) (v : Word) : (s.setInv k i j v).mem = s.mem := rfl
@[simp] theorem State.setInv_d (s : State) (k : RegKind) (i j : Nat) (v : Word) : (s.setInv k i j v).d = s.d := rfl
@[simp] theorem State.setInv_sdl (s : State) (k : RegKind) (i j : Nat) (v : Word) : (s.setInv k i j v).sdl = s.sdl := rfl
@[simp] theorem State.setInv_vec (s : State) (k : RegKind) (i j : Nat) (v : Word) : (s.setInv k i j v).vec = s.vec := rfl
@[simp] theorem State.setInv_f (s : State) (k : RegKind) (i j : Nat) (v : Word) : (s.setInv k i j v).f = s.f := rfl
@[simp] theorem State.setInv_u (s : State) (k : RegKind) (i j : Nat) (v : Word) : (s.setInv k i j v).u = s.u := rfl
@[simp] theorem State.setInv_a (s : State) (k : RegKind) (i j : Nat) (v : Word) : (s.setInv k i j v).a = s.a := rfl

/-! `State.setFld` changes `regs` only. -/

@[simp] theorem State.setFld_pending (s : State) (k : RegKind) (i j lo n v : Nat) : (s.setFld k i j lo n v).pending = s.pending := rfl
@[simp] theorem State.setFld_freeCount (s : State) (k : RegKind) (i j lo n v : Nat) : (s.setFld k i j lo n v).freeCount = s.freeCount := rfl
@[simp] theorem State.setFld_time (s : State) (k : RegKind) (i j lo n v : Nat) : (s.setFld k i j lo n v).time = s.time := rfl
@[simp] theorem State.setFld_phases (s : State) (k : RegKind) (i j lo n v : Nat) : (s.setFld k i j lo n v).phases = s.phases := rfl
@[simp] theorem State.setFld_sent (s : State) (k : RegKind) (i j lo n v : Nat) : (s.setFld k i j lo n v).sent = s.sent := rfl
@[simp] theorem State.setFld_m (s : State) (k : RegKind) (i j lo n v : Nat) : (s.setFld k i j lo n v).m = s.m := rfl
@[simp] theorem State.setFld_h (s : State) (k : RegKind) (i j lo n v : Nat) : (s.setFld k i j lo n v).h = s.h := rfl
@[simp] theorem State.setFld_cfgInv (s : State) (k : RegKind) (i j lo n v : Nat) : (s.setFld k i j lo n v).cfgInv = s.cfgInv := rfl
@[simp] theorem State.setFld_c (s : State) (k : RegKind) (i j lo n v : Nat) : (s.setFld k i j lo n v).c = s.c := rfl
@[simp] theorem State.setFld_sec (s : State) (k : RegKind) (i j lo n v : Nat) : (s.setFld k i j lo n v).sec = s.sec := rfl
@[simp] theorem State.setFld_maint (s : State) (k : RegKind) (i j lo n v : Nat) : (s.setFld k i j lo n v).maint = s.maint := rfl
@[simp] theorem State.setFld_mem (s : State) (k : RegKind) (i j lo n v : Nat) : (s.setFld k i j lo n v).mem = s.mem := rfl
@[simp] theorem State.setFld_d (s : State) (k : RegKind) (i j lo n v : Nat) : (s.setFld k i j lo n v).d = s.d := rfl
@[simp] theorem State.setFld_sdl (s : State) (k : RegKind) (i j lo n v : Nat) : (s.setFld k i j lo n v).sdl = s.sdl := rfl
@[simp] theorem State.setFld_vec (s : State) (k : RegKind) (i j lo n v : Nat) : (s.setFld k i j lo n v).vec = s.vec := rfl
@[simp] theorem State.setFld_f (s : State) (k : RegKind) (i j lo n v : Nat) : (s.setFld k i j lo n v).f = s.f := rfl
@[simp] theorem State.setFld_u (s : State) (k : RegKind) (i j lo n v : Nat) : (s.setFld k i j lo n v).u = s.u := rfl
@[simp] theorem State.setFld_a (s : State) (k : RegKind) (i j lo n v : Nat) : (s.setFld k i j lo n v).a = s.a := rfl

/-! `State.countWrap` changes `regs` only. -/

@[simp] theorem State.countWrap_pending (s : State) (k : RegKind) (i j lo n v : Nat) : (s.countWrap k i j lo n v).pending = s.pending := rfl
@[simp] theorem State.countWrap_freeCount (s : State) (k : RegKind) (i j lo n v : Nat) : (s.countWrap k i j lo n v).freeCount = s.freeCount := rfl
@[simp] theorem State.countWrap_time (s : State) (k : RegKind) (i j lo n v : Nat) : (s.countWrap k i j lo n v).time = s.time := rfl
@[simp] theorem State.countWrap_phases (s : State) (k : RegKind) (i j lo n v : Nat) : (s.countWrap k i j lo n v).phases = s.phases := rfl
@[simp] theorem State.countWrap_sent (s : State) (k : RegKind) (i j lo n v : Nat) : (s.countWrap k i j lo n v).sent = s.sent := rfl
@[simp] theorem State.countWrap_m (s : State) (k : RegKind) (i j lo n v : Nat) : (s.countWrap k i j lo n v).m = s.m := rfl
@[simp] theorem State.countWrap_h (s : State) (k : RegKind) (i j lo n v : Nat) : (s.countWrap k i j lo n v).h = s.h := rfl
@[simp] theorem State.countWrap_cfgInv (s : State) (k : RegKind) (i j lo n v : Nat) : (s.countWrap k i j lo n v).cfgInv = s.cfgInv := rfl
@[simp] theorem State.countWrap_c (s : State) (k : RegKind) (i j lo n v : Nat) : (s.countWrap k i j lo n v).c = s.c := rfl
@[simp] theorem State.countWrap_sec (s : State) (k : RegKind) (i j lo n v : Nat) : (s.countWrap k i j lo n v).sec = s.sec := rfl
@[simp] theorem State.countWrap_maint (s : State) (k : RegKind) (i j lo n v : Nat) : (s.countWrap k i j lo n v).maint = s.maint := rfl
@[simp] theorem State.countWrap_mem (s : State) (k : RegKind) (i j lo n v : Nat) : (s.countWrap k i j lo n v).mem = s.mem := rfl
@[simp] theorem State.countWrap_d (s : State) (k : RegKind) (i j lo n v : Nat) : (s.countWrap k i j lo n v).d = s.d := rfl
@[simp] theorem State.countWrap_sdl (s : State) (k : RegKind) (i j lo n v : Nat) : (s.countWrap k i j lo n v).sdl = s.sdl := rfl
@[simp] theorem State.countWrap_vec (s : State) (k : RegKind) (i j lo n v : Nat) : (s.countWrap k i j lo n v).vec = s.vec := rfl
@[simp] theorem State.countWrap_f (s : State) (k : RegKind) (i j lo n v : Nat) : (s.countWrap k i j lo n v).f = s.f := rfl
@[simp] theorem State.countWrap_u (s : State) (k : RegKind) (i j lo n v : Nat) : (s.countWrap k i j lo n v).u = s.u := rfl
@[simp] theorem State.countWrap_a (s : State) (k : RegKind) (i j lo n v : Nat) : (s.countWrap k i j lo n v).a = s.a := rfl

/-! `State.countHold` changes `regs` only. -/

@[simp] theorem State.countHold_pending (s : State) (k : RegKind) (i j lo n v : Nat) : (s.countHold k i j lo n v).pending = s.pending := rfl
@[simp] theorem State.countHold_freeCount (s : State) (k : RegKind) (i j lo n v : Nat) : (s.countHold k i j lo n v).freeCount = s.freeCount := rfl
@[simp] theorem State.countHold_time (s : State) (k : RegKind) (i j lo n v : Nat) : (s.countHold k i j lo n v).time = s.time := rfl
@[simp] theorem State.countHold_phases (s : State) (k : RegKind) (i j lo n v : Nat) : (s.countHold k i j lo n v).phases = s.phases := rfl
@[simp] theorem State.countHold_sent (s : State) (k : RegKind) (i j lo n v : Nat) : (s.countHold k i j lo n v).sent = s.sent := rfl
@[simp] theorem State.countHold_m (s : State) (k : RegKind) (i j lo n v : Nat) : (s.countHold k i j lo n v).m = s.m := rfl
@[simp] theorem State.countHold_h (s : State) (k : RegKind) (i j lo n v : Nat) : (s.countHold k i j lo n v).h = s.h := rfl
@[simp] theorem State.countHold_cfgInv (s : State) (k : RegKind) (i j lo n v : Nat) : (s.countHold k i j lo n v).cfgInv = s.cfgInv := rfl
@[simp] theorem State.countHold_c (s : State) (k : RegKind) (i j lo n v : Nat) : (s.countHold k i j lo n v).c = s.c := rfl
@[simp] theorem State.countHold_sec (s : State) (k : RegKind) (i j lo n v : Nat) : (s.countHold k i j lo n v).sec = s.sec := rfl
@[simp] theorem State.countHold_maint (s : State) (k : RegKind) (i j lo n v : Nat) : (s.countHold k i j lo n v).maint = s.maint := rfl
@[simp] theorem State.countHold_mem (s : State) (k : RegKind) (i j lo n v : Nat) : (s.countHold k i j lo n v).mem = s.mem := rfl
@[simp] theorem State.countHold_d (s : State) (k : RegKind) (i j lo n v : Nat) : (s.countHold k i j lo n v).d = s.d := rfl
@[simp] theorem State.countHold_sdl (s : State) (k : RegKind) (i j lo n v : Nat) : (s.countHold k i j lo n v).sdl = s.sdl := rfl
@[simp] theorem State.countHold_vec (s : State) (k : RegKind) (i j lo n v : Nat) : (s.countHold k i j lo n v).vec = s.vec := rfl
@[simp] theorem State.countHold_f (s : State) (k : RegKind) (i j lo n v : Nat) : (s.countHold k i j lo n v).f = s.f := rfl
@[simp] theorem State.countHold_u (s : State) (k : RegKind) (i j lo n v : Nat) : (s.countHold k i j lo n v).u = s.u := rfl
@[simp] theorem State.countHold_a (s : State) (k : RegKind) (i j lo n v : Nat) : (s.countHold k i j lo n v).a = s.a := rfl

/-! `State.setPair` changes `regs` only. -/

@[simp] theorem State.setPair_pending (s : State) (k ki : RegKind) (i : Nat) (v : Word) : (s.setPair k ki i v).pending = s.pending := rfl
@[simp] theorem State.setPair_freeCount (s : State) (k ki : RegKind) (i : Nat) (v : Word) : (s.setPair k ki i v).freeCount = s.freeCount := rfl
@[simp] theorem State.setPair_time (s : State) (k ki : RegKind) (i : Nat) (v : Word) : (s.setPair k ki i v).time = s.time := rfl
@[simp] theorem State.setPair_phases (s : State) (k ki : RegKind) (i : Nat) (v : Word) : (s.setPair k ki i v).phases = s.phases := rfl
@[simp] theorem State.setPair_sent (s : State) (k ki : RegKind) (i : Nat) (v : Word) : (s.setPair k ki i v).sent = s.sent := rfl
@[simp] theorem State.setPair_m (s : State) (k ki : RegKind) (i : Nat) (v : Word) : (s.setPair k ki i v).m = s.m := rfl
@[simp] theorem State.setPair_h (s : State) (k ki : RegKind) (i : Nat) (v : Word) : (s.setPair k ki i v).h = s.h := rfl
@[simp] theorem State.setPair_cfgInv (s : State) (k ki : RegKind) (i : Nat) (v : Word) : (s.setPair k ki i v).cfgInv = s.cfgInv := rfl
@[simp] theorem State.setPair_c (s : State) (k ki : RegKind) (i : Nat) (v : Word) : (s.setPair k ki i v).c = s.c := rfl
@[simp] theorem State.setPair_sec (s : State) (k ki : RegKind) (i : Nat) (v : Word) : (s.setPair k ki i v).sec = s.sec := rfl
@[simp] theorem State.setPair_maint (s : State) (k ki : RegKind) (i : Nat) (v : Word) : (s.setPair k ki i v).maint = s.maint := rfl
@[simp] theorem State.setPair_mem (s : State) (k ki : RegKind) (i : Nat) (v : Word) : (s.setPair k ki i v).mem = s.mem := rfl
@[simp] theorem State.setPair_d (s : State) (k ki : RegKind) (i : Nat) (v : Word) : (s.setPair k ki i v).d = s.d := rfl
@[simp] theorem State.setPair_sdl (s : State) (k ki : RegKind) (i : Nat) (v : Word) : (s.setPair k ki i v).sdl = s.sdl := rfl
@[simp] theorem State.setPair_vec (s : State) (k ki : RegKind) (i : Nat) (v : Word) : (s.setPair k ki i v).vec = s.vec := rfl
@[simp] theorem State.setPair_f (s : State) (k ki : RegKind) (i : Nat) (v : Word) : (s.setPair k ki i v).f = s.f := rfl
@[simp] theorem State.setPair_u (s : State) (k ki : RegKind) (i : Nat) (v : Word) : (s.setPair k ki i v).u = s.u := rfl
@[simp] theorem State.setPair_a (s : State) (k ki : RegKind) (i : Nat) (v : Word) : (s.setPair k ki i v).a = s.a := rfl

/-! `State.send` changes `sent` only. -/

@[simp] theorem State.send_pending (s : State) (x : Sent) : (s.send x).pending = s.pending := rfl
@[simp] theorem State.send_freeCount (s : State) (x : Sent) : (s.send x).freeCount = s.freeCount := rfl
@[simp] theorem State.send_time (s : State) (x : Sent) : (s.send x).time = s.time := rfl
@[simp] theorem State.send_phases (s : State) (x : Sent) : (s.send x).phases = s.phases := rfl
@[simp] theorem State.send_regs (s : State) (x : Sent) : (s.send x).regs = s.regs := rfl
@[simp] theorem State.send_cfgInv (s : State) (x : Sent) : (s.send x).cfgInv = s.cfgInv := rfl
@[simp] theorem State.send_m (s : State) (x : Sent) : (s.send x).m = s.m := rfl
@[simp] theorem State.send_h (s : State) (x : Sent) : (s.send x).h = s.h := rfl
@[simp] theorem State.send_c (s : State) (x : Sent) : (s.send x).c = s.c := rfl
@[simp] theorem State.send_sec (s : State) (x : Sent) : (s.send x).sec = s.sec := rfl
@[simp] theorem State.send_maint (s : State) (x : Sent) : (s.send x).maint = s.maint := rfl
@[simp] theorem State.send_mem (s : State) (x : Sent) : (s.send x).mem = s.mem := rfl
@[simp] theorem State.send_d (s : State) (x : Sent) : (s.send x).d = s.d := rfl
@[simp] theorem State.send_sdl (s : State) (x : Sent) : (s.send x).sdl = s.sdl := rfl
@[simp] theorem State.send_vec (s : State) (x : Sent) : (s.send x).vec = s.vec := rfl
@[simp] theorem State.send_f (s : State) (x : Sent) : (s.send x).f = s.f := rfl
@[simp] theorem State.send_u (s : State) (x : Sent) : (s.send x).u = s.u := rfl
@[simp] theorem State.send_a (s : State) (x : Sent) : (s.send x).a = s.a := rfl

/-! `State.bump` changes `m` only. -/

@[simp] theorem State.bump_pending (s : State) (i n : Nat) : (s.bump i n).pending = s.pending := rfl
@[simp] theorem State.bump_freeCount (s : State) (i n : Nat) : (s.bump i n).freeCount = s.freeCount := rfl
@[simp] theorem State.bump_time (s : State) (i n : Nat) : (s.bump i n).time = s.time := rfl
@[simp] theorem State.bump_phases (s : State) (i n : Nat) : (s.bump i n).phases = s.phases := rfl
@[simp] theorem State.bump_sent (s : State) (i n : Nat) : (s.bump i n).sent = s.sent := rfl
@[simp] theorem State.bump_regs (s : State) (i n : Nat) : (s.bump i n).regs = s.regs := rfl
@[simp] theorem State.bump_cfgInv (s : State) (i n : Nat) : (s.bump i n).cfgInv = s.cfgInv := rfl
@[simp] theorem State.bump_h (s : State) (i n : Nat) : (s.bump i n).h = s.h := rfl
@[simp] theorem State.bump_c (s : State) (i n : Nat) : (s.bump i n).c = s.c := rfl
@[simp] theorem State.bump_sec (s : State) (i n : Nat) : (s.bump i n).sec = s.sec := rfl
@[simp] theorem State.bump_maint (s : State) (i n : Nat) : (s.bump i n).maint = s.maint := rfl
@[simp] theorem State.bump_mem (s : State) (i n : Nat) : (s.bump i n).mem = s.mem := rfl
@[simp] theorem State.bump_d (s : State) (i n : Nat) : (s.bump i n).d = s.d := rfl
@[simp] theorem State.bump_sdl (s : State) (i n : Nat) : (s.bump i n).sdl = s.sdl := rfl
@[simp] theorem State.bump_vec (s : State) (i n : Nat) : (s.bump i n).vec = s.vec := rfl
@[simp] theorem State.bump_f (s : State) (i n : Nat) : (s.bump i n).f = s.f := rfl
@[simp] theorem State.bump_u (s : State) (i n : Nat) : (s.bump i n).u = s.u := rfl
@[simp] theorem State.bump_a (s : State) (i n : Nat) : (s.bump i n).a = s.a := rfl

/-! `State.setSession` changes `h` only. -/

@[simp] theorem State.setSession_pending (s : State) (p : Fin 2) (x : Option Session) : (s.setSession p x).pending = s.pending := rfl
@[simp] theorem State.setSession_freeCount (s : State) (p : Fin 2) (x : Option Session) : (s.setSession p x).freeCount = s.freeCount := rfl
@[simp] theorem State.setSession_time (s : State) (p : Fin 2) (x : Option Session) : (s.setSession p x).time = s.time := rfl
@[simp] theorem State.setSession_phases (s : State) (p : Fin 2) (x : Option Session) : (s.setSession p x).phases = s.phases := rfl
@[simp] theorem State.setSession_sent (s : State) (p : Fin 2) (x : Option Session) : (s.setSession p x).sent = s.sent := rfl
@[simp] theorem State.setSession_regs (s : State) (p : Fin 2) (x : Option Session) : (s.setSession p x).regs = s.regs := rfl
@[simp] theorem State.setSession_cfgInv (s : State) (p : Fin 2) (x : Option Session) : (s.setSession p x).cfgInv = s.cfgInv := rfl
@[simp] theorem State.setSession_m (s : State) (p : Fin 2) (x : Option Session) : (s.setSession p x).m = s.m := rfl
@[simp] theorem State.setSession_c (s : State) (p : Fin 2) (x : Option Session) : (s.setSession p x).c = s.c := rfl
@[simp] theorem State.setSession_sec (s : State) (p : Fin 2) (x : Option Session) : (s.setSession p x).sec = s.sec := rfl
@[simp] theorem State.setSession_maint (s : State) (p : Fin 2) (x : Option Session) : (s.setSession p x).maint = s.maint := rfl
@[simp] theorem State.setSession_mem (s : State) (p : Fin 2) (x : Option Session) : (s.setSession p x).mem = s.mem := rfl
@[simp] theorem State.setSession_d (s : State) (p : Fin 2) (x : Option Session) : (s.setSession p x).d = s.d := rfl
@[simp] theorem State.setSession_sdl (s : State) (p : Fin 2) (x : Option Session) : (s.setSession p x).sdl = s.sdl := rfl
@[simp] theorem State.setSession_vec (s : State) (p : Fin 2) (x : Option Session) : (s.setSession p x).vec = s.vec := rfl
@[simp] theorem State.setSession_f (s : State) (p : Fin 2) (x : Option Session) : (s.setSession p x).f = s.f := rfl
@[simp] theorem State.setSession_u (s : State) (p : Fin 2) (x : Option Session) : (s.setSession p x).u = s.u := rfl
@[simp] theorem State.setSession_a (s : State) (p : Fin 2) (x : Option Session) : (s.setSession p x).a = s.a := rfl

/-! `State.setDomain` changes `m` only. -/

@[simp] theorem State.setDomain_pending (s : State) (k : Nat) (x : Domain) : (s.setDomain k x).pending = s.pending := rfl
@[simp] theorem State.setDomain_freeCount (s : State) (k : Nat) (x : Domain) : (s.setDomain k x).freeCount = s.freeCount := rfl
@[simp] theorem State.setDomain_time (s : State) (k : Nat) (x : Domain) : (s.setDomain k x).time = s.time := rfl
@[simp] theorem State.setDomain_phases (s : State) (k : Nat) (x : Domain) : (s.setDomain k x).phases = s.phases := rfl
@[simp] theorem State.setDomain_sent (s : State) (k : Nat) (x : Domain) : (s.setDomain k x).sent = s.sent := rfl
@[simp] theorem State.setDomain_regs (s : State) (k : Nat) (x : Domain) : (s.setDomain k x).regs = s.regs := rfl
@[simp] theorem State.setDomain_cfgInv (s : State) (k : Nat) (x : Domain) : (s.setDomain k x).cfgInv = s.cfgInv := rfl
@[simp] theorem State.setDomain_h (s : State) (k : Nat) (x : Domain) : (s.setDomain k x).h = s.h := rfl
@[simp] theorem State.setDomain_c (s : State) (k : Nat) (x : Domain) : (s.setDomain k x).c = s.c := rfl
@[simp] theorem State.setDomain_sec (s : State) (k : Nat) (x : Domain) : (s.setDomain k x).sec = s.sec := rfl
@[simp] theorem State.setDomain_maint (s : State) (k : Nat) (x : Domain) : (s.setDomain k x).maint = s.maint := rfl
@[simp] theorem State.setDomain_mem (s : State) (k : Nat) (x : Domain) : (s.setDomain k x).mem = s.mem := rfl
@[simp] theorem State.setDomain_d (s : State) (k : Nat) (x : Domain) : (s.setDomain k x).d = s.d := rfl
@[simp] theorem State.setDomain_sdl (s : State) (k : Nat) (x : Domain) : (s.setDomain k x).sdl = s.sdl := rfl
@[simp] theorem State.setDomain_vec (s : State) (k : Nat) (x : Domain) : (s.setDomain k x).vec = s.vec := rfl
@[simp] theorem State.setDomain_f (s : State) (k : Nat) (x : Domain) : (s.setDomain k x).f = s.f := rfl
@[simp] theorem State.setDomain_u (s : State) (k : Nat) (x : Domain) : (s.setDomain k x).u = s.u := rfl
@[simp] theorem State.setDomain_a (s : State) (k : Nat) (x : Domain) : (s.setDomain k x).a = s.a := rfl

/-! `State.setMod` changes `m` only. -/

@[simp] theorem State.setMod_pending (s : State) (x : ModState) : (s.setMod x).pending = s.pending := rfl
@[simp] theorem State.setMod_freeCount (s : State) (x : ModState) : (s.setMod x).freeCount = s.freeCount := rfl
@[simp] theorem State.setMod_time (s : State) (x : ModState) : (s.setMod x).time = s.time := rfl
@[simp] theorem State.setMod_phases (s : State) (x : ModState) : (s.setMod x).phases = s.phases := rfl
@[simp] theorem State.setMod_sent (s : State) (x : ModState) : (s.setMod x).sent = s.sent := rfl
@[simp] theorem State.setMod_regs (s : State) (x : ModState) : (s.setMod x).regs = s.regs := rfl
@[simp] theorem State.setMod_cfgInv (s : State) (x : ModState) : (s.setMod x).cfgInv = s.cfgInv := rfl
@[simp] theorem State.setMod_h (s : State) (x : ModState) : (s.setMod x).h = s.h := rfl
@[simp] theorem State.setMod_c (s : State) (x : ModState) : (s.setMod x).c = s.c := rfl
@[simp] theorem State.setMod_sec (s : State) (x : ModState) : (s.setMod x).sec = s.sec := rfl
@[simp] theorem State.setMod_maint (s : State) (x : ModState) : (s.setMod x).maint = s.maint := rfl
@[simp] theorem State.setMod_mem (s : State) (x : ModState) : (s.setMod x).mem = s.mem := rfl
@[simp] theorem State.setMod_d (s : State) (x : ModState) : (s.setMod x).d = s.d := rfl
@[simp] theorem State.setMod_sdl (s : State) (x : ModState) : (s.setMod x).sdl = s.sdl := rfl
@[simp] theorem State.setMod_vec (s : State) (x : ModState) : (s.setMod x).vec = s.vec := rfl
@[simp] theorem State.setMod_f (s : State) (x : ModState) : (s.setMod x).f = s.f := rfl
@[simp] theorem State.setMod_u (s : State) (x : ModState) : (s.setMod x).u = s.u := rfl
@[simp] theorem State.setMod_a (s : State) (x : ModState) : (s.setMod x).a = s.a := rfl

/-! `State.setStir` changes `d` only. -/

@[simp] theorem State.setStir_pending (s : State) (t : Nat) (x : Stirrup) : (s.setStir t x).pending = s.pending := rfl
@[simp] theorem State.setStir_freeCount (s : State) (t : Nat) (x : Stirrup) : (s.setStir t x).freeCount = s.freeCount := rfl
@[simp] theorem State.setStir_time (s : State) (t : Nat) (x : Stirrup) : (s.setStir t x).time = s.time := rfl
@[simp] theorem State.setStir_phases (s : State) (t : Nat) (x : Stirrup) : (s.setStir t x).phases = s.phases := rfl
@[simp] theorem State.setStir_sent (s : State) (t : Nat) (x : Stirrup) : (s.setStir t x).sent = s.sent := rfl
@[simp] theorem State.setStir_regs (s : State) (t : Nat) (x : Stirrup) : (s.setStir t x).regs = s.regs := rfl
@[simp] theorem State.setStir_cfgInv (s : State) (t : Nat) (x : Stirrup) : (s.setStir t x).cfgInv = s.cfgInv := rfl
@[simp] theorem State.setStir_m (s : State) (t : Nat) (x : Stirrup) : (s.setStir t x).m = s.m := rfl
@[simp] theorem State.setStir_h (s : State) (t : Nat) (x : Stirrup) : (s.setStir t x).h = s.h := rfl
@[simp] theorem State.setStir_c (s : State) (t : Nat) (x : Stirrup) : (s.setStir t x).c = s.c := rfl
@[simp] theorem State.setStir_sec (s : State) (t : Nat) (x : Stirrup) : (s.setStir t x).sec = s.sec := rfl
@[simp] theorem State.setStir_maint (s : State) (t : Nat) (x : Stirrup) : (s.setStir t x).maint = s.maint := rfl
@[simp] theorem State.setStir_mem (s : State) (t : Nat) (x : Stirrup) : (s.setStir t x).mem = s.mem := rfl
@[simp] theorem State.setStir_sdl (s : State) (t : Nat) (x : Stirrup) : (s.setStir t x).sdl = s.sdl := rfl
@[simp] theorem State.setStir_vec (s : State) (t : Nat) (x : Stirrup) : (s.setStir t x).vec = s.vec := rfl
@[simp] theorem State.setStir_f (s : State) (t : Nat) (x : Stirrup) : (s.setStir t x).f = s.f := rfl
@[simp] theorem State.setStir_u (s : State) (t : Nat) (x : Stirrup) : (s.setStir t x).u = s.u := rfl
@[simp] theorem State.setStir_a (s : State) (t : Nat) (x : Stirrup) : (s.setStir t x).a = s.a := rfl

/-! `State.setBank` changes `d` only. -/

@[simp] theorem State.setBank_pending (s : State) (n b : Nat) (x : KstBank) : (s.setBank n b x).pending = s.pending := rfl
@[simp] theorem State.setBank_freeCount (s : State) (n b : Nat) (x : KstBank) : (s.setBank n b x).freeCount = s.freeCount := rfl
@[simp] theorem State.setBank_time (s : State) (n b : Nat) (x : KstBank) : (s.setBank n b x).time = s.time := rfl
@[simp] theorem State.setBank_phases (s : State) (n b : Nat) (x : KstBank) : (s.setBank n b x).phases = s.phases := rfl
@[simp] theorem State.setBank_sent (s : State) (n b : Nat) (x : KstBank) : (s.setBank n b x).sent = s.sent := rfl
@[simp] theorem State.setBank_regs (s : State) (n b : Nat) (x : KstBank) : (s.setBank n b x).regs = s.regs := rfl
@[simp] theorem State.setBank_cfgInv (s : State) (n b : Nat) (x : KstBank) : (s.setBank n b x).cfgInv = s.cfgInv := rfl
@[simp] theorem State.setBank_m (s : State) (n b : Nat) (x : KstBank) : (s.setBank n b x).m = s.m := rfl
@[simp] theorem State.setBank_h (s : State) (n b : Nat) (x : KstBank) : (s.setBank n b x).h = s.h := rfl
@[simp] theorem State.setBank_c (s : State) (n b : Nat) (x : KstBank) : (s.setBank n b x).c = s.c := rfl
@[simp] theorem State.setBank_sec (s : State) (n b : Nat) (x : KstBank) : (s.setBank n b x).sec = s.sec := rfl
@[simp] theorem State.setBank_maint (s : State) (n b : Nat) (x : KstBank) : (s.setBank n b x).maint = s.maint := rfl
@[simp] theorem State.setBank_mem (s : State) (n b : Nat) (x : KstBank) : (s.setBank n b x).mem = s.mem := rfl
@[simp] theorem State.setBank_sdl (s : State) (n b : Nat) (x : KstBank) : (s.setBank n b x).sdl = s.sdl := rfl
@[simp] theorem State.setBank_vec (s : State) (n b : Nat) (x : KstBank) : (s.setBank n b x).vec = s.vec := rfl
@[simp] theorem State.setBank_f (s : State) (n b : Nat) (x : KstBank) : (s.setBank n b x).f = s.f := rfl
@[simp] theorem State.setBank_u (s : State) (n b : Nat) (x : KstBank) : (s.setBank n b x).u = s.u := rfl
@[simp] theorem State.setBank_a (s : State) (n b : Nat) (x : KstBank) : (s.setBank n b x).a = s.a := rfl

/-! `State.setSaddle` changes `sdl` only. -/

@[simp] theorem State.setSaddle_pending (s : State) (n : Nat) (x : Saddle) : (s.setSaddle n x).pending = s.pending := rfl
@[simp] theorem State.setSaddle_freeCount (s : State) (n : Nat) (x : Saddle) : (s.setSaddle n x).freeCount = s.freeCount := rfl
@[simp] theorem State.setSaddle_time (s : State) (n : Nat) (x : Saddle) : (s.setSaddle n x).time = s.time := rfl
@[simp] theorem State.setSaddle_phases (s : State) (n : Nat) (x : Saddle) : (s.setSaddle n x).phases = s.phases := rfl
@[simp] theorem State.setSaddle_sent (s : State) (n : Nat) (x : Saddle) : (s.setSaddle n x).sent = s.sent := rfl
@[simp] theorem State.setSaddle_regs (s : State) (n : Nat) (x : Saddle) : (s.setSaddle n x).regs = s.regs := rfl
@[simp] theorem State.setSaddle_cfgInv (s : State) (n : Nat) (x : Saddle) : (s.setSaddle n x).cfgInv = s.cfgInv := rfl
@[simp] theorem State.setSaddle_m (s : State) (n : Nat) (x : Saddle) : (s.setSaddle n x).m = s.m := rfl
@[simp] theorem State.setSaddle_h (s : State) (n : Nat) (x : Saddle) : (s.setSaddle n x).h = s.h := rfl
@[simp] theorem State.setSaddle_c (s : State) (n : Nat) (x : Saddle) : (s.setSaddle n x).c = s.c := rfl
@[simp] theorem State.setSaddle_sec (s : State) (n : Nat) (x : Saddle) : (s.setSaddle n x).sec = s.sec := rfl
@[simp] theorem State.setSaddle_maint (s : State) (n : Nat) (x : Saddle) : (s.setSaddle n x).maint = s.maint := rfl
@[simp] theorem State.setSaddle_mem (s : State) (n : Nat) (x : Saddle) : (s.setSaddle n x).mem = s.mem := rfl
@[simp] theorem State.setSaddle_d (s : State) (n : Nat) (x : Saddle) : (s.setSaddle n x).d = s.d := rfl
@[simp] theorem State.setSaddle_vec (s : State) (n : Nat) (x : Saddle) : (s.setSaddle n x).vec = s.vec := rfl
@[simp] theorem State.setSaddle_f (s : State) (n : Nat) (x : Saddle) : (s.setSaddle n x).f = s.f := rfl
@[simp] theorem State.setSaddle_u (s : State) (n : Nat) (x : Saddle) : (s.setSaddle n x).u = s.u := rfl
@[simp] theorem State.setSaddle_a (s : State) (n : Nat) (x : Saddle) : (s.setSaddle n x).a = s.a := rfl

/-! `State.setVec` changes `vec` only. -/

@[simp] theorem State.setVec_pending (s : State) (n : VecUnit) (x : Vec) : (s.setVec n x).pending = s.pending := rfl
@[simp] theorem State.setVec_freeCount (s : State) (n : VecUnit) (x : Vec) : (s.setVec n x).freeCount = s.freeCount := rfl
@[simp] theorem State.setVec_time (s : State) (n : VecUnit) (x : Vec) : (s.setVec n x).time = s.time := rfl
@[simp] theorem State.setVec_phases (s : State) (n : VecUnit) (x : Vec) : (s.setVec n x).phases = s.phases := rfl
@[simp] theorem State.setVec_sent (s : State) (n : VecUnit) (x : Vec) : (s.setVec n x).sent = s.sent := rfl
@[simp] theorem State.setVec_regs (s : State) (n : VecUnit) (x : Vec) : (s.setVec n x).regs = s.regs := rfl
@[simp] theorem State.setVec_cfgInv (s : State) (n : VecUnit) (x : Vec) : (s.setVec n x).cfgInv = s.cfgInv := rfl
@[simp] theorem State.setVec_m (s : State) (n : VecUnit) (x : Vec) : (s.setVec n x).m = s.m := rfl
@[simp] theorem State.setVec_h (s : State) (n : VecUnit) (x : Vec) : (s.setVec n x).h = s.h := rfl
@[simp] theorem State.setVec_c (s : State) (n : VecUnit) (x : Vec) : (s.setVec n x).c = s.c := rfl
@[simp] theorem State.setVec_sec (s : State) (n : VecUnit) (x : Vec) : (s.setVec n x).sec = s.sec := rfl
@[simp] theorem State.setVec_maint (s : State) (n : VecUnit) (x : Vec) : (s.setVec n x).maint = s.maint := rfl
@[simp] theorem State.setVec_mem (s : State) (n : VecUnit) (x : Vec) : (s.setVec n x).mem = s.mem := rfl
@[simp] theorem State.setVec_d (s : State) (n : VecUnit) (x : Vec) : (s.setVec n x).d = s.d := rfl
@[simp] theorem State.setVec_sdl (s : State) (n : VecUnit) (x : Vec) : (s.setVec n x).sdl = s.sdl := rfl
@[simp] theorem State.setVec_f (s : State) (n : VecUnit) (x : Vec) : (s.setVec n x).f = s.f := rfl
@[simp] theorem State.setVec_u (s : State) (n : VecUnit) (x : Vec) : (s.setVec n x).u = s.u := rfl
@[simp] theorem State.setVec_a (s : State) (n : VecUnit) (x : Vec) : (s.setVec n x).a = s.a := rfl

/-! `State.setPort` changes `f` only. -/

@[simp] theorem State.setPort_pending (s : State) (p : Nat) (x : LinkPort) : (s.setPort p x).pending = s.pending := rfl
@[simp] theorem State.setPort_freeCount (s : State) (p : Nat) (x : LinkPort) : (s.setPort p x).freeCount = s.freeCount := rfl
@[simp] theorem State.setPort_time (s : State) (p : Nat) (x : LinkPort) : (s.setPort p x).time = s.time := rfl
@[simp] theorem State.setPort_phases (s : State) (p : Nat) (x : LinkPort) : (s.setPort p x).phases = s.phases := rfl
@[simp] theorem State.setPort_sent (s : State) (p : Nat) (x : LinkPort) : (s.setPort p x).sent = s.sent := rfl
@[simp] theorem State.setPort_regs (s : State) (p : Nat) (x : LinkPort) : (s.setPort p x).regs = s.regs := rfl
@[simp] theorem State.setPort_cfgInv (s : State) (p : Nat) (x : LinkPort) : (s.setPort p x).cfgInv = s.cfgInv := rfl
@[simp] theorem State.setPort_m (s : State) (p : Nat) (x : LinkPort) : (s.setPort p x).m = s.m := rfl
@[simp] theorem State.setPort_h (s : State) (p : Nat) (x : LinkPort) : (s.setPort p x).h = s.h := rfl
@[simp] theorem State.setPort_c (s : State) (p : Nat) (x : LinkPort) : (s.setPort p x).c = s.c := rfl
@[simp] theorem State.setPort_sec (s : State) (p : Nat) (x : LinkPort) : (s.setPort p x).sec = s.sec := rfl
@[simp] theorem State.setPort_maint (s : State) (p : Nat) (x : LinkPort) : (s.setPort p x).maint = s.maint := rfl
@[simp] theorem State.setPort_mem (s : State) (p : Nat) (x : LinkPort) : (s.setPort p x).mem = s.mem := rfl
@[simp] theorem State.setPort_d (s : State) (p : Nat) (x : LinkPort) : (s.setPort p x).d = s.d := rfl
@[simp] theorem State.setPort_sdl (s : State) (p : Nat) (x : LinkPort) : (s.setPort p x).sdl = s.sdl := rfl
@[simp] theorem State.setPort_vec (s : State) (p : Nat) (x : LinkPort) : (s.setPort p x).vec = s.vec := rfl
@[simp] theorem State.setPort_u (s : State) (p : Nat) (x : LinkPort) : (s.setPort p x).u = s.u := rfl
@[simp] theorem State.setPort_a (s : State) (p : Nat) (x : LinkPort) : (s.setPort p x).a = s.a := rfl

/-! `State.setStream` changes `h` only. -/

@[simp] theorem State.setStream_pending (s : State) (n : BitVec 32) (x : Egress) : (s.setStream n x).pending = s.pending := rfl
@[simp] theorem State.setStream_freeCount (s : State) (n : BitVec 32) (x : Egress) : (s.setStream n x).freeCount = s.freeCount := rfl
@[simp] theorem State.setStream_time (s : State) (n : BitVec 32) (x : Egress) : (s.setStream n x).time = s.time := rfl
@[simp] theorem State.setStream_phases (s : State) (n : BitVec 32) (x : Egress) : (s.setStream n x).phases = s.phases := rfl
@[simp] theorem State.setStream_sent (s : State) (n : BitVec 32) (x : Egress) : (s.setStream n x).sent = s.sent := rfl
@[simp] theorem State.setStream_regs (s : State) (n : BitVec 32) (x : Egress) : (s.setStream n x).regs = s.regs := rfl
@[simp] theorem State.setStream_cfgInv (s : State) (n : BitVec 32) (x : Egress) : (s.setStream n x).cfgInv = s.cfgInv := rfl
@[simp] theorem State.setStream_m (s : State) (n : BitVec 32) (x : Egress) : (s.setStream n x).m = s.m := rfl
@[simp] theorem State.setStream_c (s : State) (n : BitVec 32) (x : Egress) : (s.setStream n x).c = s.c := rfl
@[simp] theorem State.setStream_sec (s : State) (n : BitVec 32) (x : Egress) : (s.setStream n x).sec = s.sec := rfl
@[simp] theorem State.setStream_maint (s : State) (n : BitVec 32) (x : Egress) : (s.setStream n x).maint = s.maint := rfl
@[simp] theorem State.setStream_mem (s : State) (n : BitVec 32) (x : Egress) : (s.setStream n x).mem = s.mem := rfl
@[simp] theorem State.setStream_d (s : State) (n : BitVec 32) (x : Egress) : (s.setStream n x).d = s.d := rfl
@[simp] theorem State.setStream_sdl (s : State) (n : BitVec 32) (x : Egress) : (s.setStream n x).sdl = s.sdl := rfl
@[simp] theorem State.setStream_vec (s : State) (n : BitVec 32) (x : Egress) : (s.setStream n x).vec = s.vec := rfl
@[simp] theorem State.setStream_f (s : State) (n : BitVec 32) (x : Egress) : (s.setStream n x).f = s.f := rfl
@[simp] theorem State.setStream_u (s : State) (n : BitVec 32) (x : Egress) : (s.setStream n x).u = s.u := rfl
@[simp] theorem State.setStream_a (s : State) (n : BitVec 32) (x : Egress) : (s.setStream n x).a = s.a := rfl

/-! `State.setRuns` changes `d` only. -/

@[simp] theorem State.setRuns_pending (s : State) (x : List TackRun) : (s.setRuns x).pending = s.pending := rfl
@[simp] theorem State.setRuns_freeCount (s : State) (x : List TackRun) : (s.setRuns x).freeCount = s.freeCount := rfl
@[simp] theorem State.setRuns_time (s : State) (x : List TackRun) : (s.setRuns x).time = s.time := rfl
@[simp] theorem State.setRuns_phases (s : State) (x : List TackRun) : (s.setRuns x).phases = s.phases := rfl
@[simp] theorem State.setRuns_sent (s : State) (x : List TackRun) : (s.setRuns x).sent = s.sent := rfl
@[simp] theorem State.setRuns_regs (s : State) (x : List TackRun) : (s.setRuns x).regs = s.regs := rfl
@[simp] theorem State.setRuns_cfgInv (s : State) (x : List TackRun) : (s.setRuns x).cfgInv = s.cfgInv := rfl
@[simp] theorem State.setRuns_m (s : State) (x : List TackRun) : (s.setRuns x).m = s.m := rfl
@[simp] theorem State.setRuns_h (s : State) (x : List TackRun) : (s.setRuns x).h = s.h := rfl
@[simp] theorem State.setRuns_c (s : State) (x : List TackRun) : (s.setRuns x).c = s.c := rfl
@[simp] theorem State.setRuns_sec (s : State) (x : List TackRun) : (s.setRuns x).sec = s.sec := rfl
@[simp] theorem State.setRuns_maint (s : State) (x : List TackRun) : (s.setRuns x).maint = s.maint := rfl
@[simp] theorem State.setRuns_mem (s : State) (x : List TackRun) : (s.setRuns x).mem = s.mem := rfl
@[simp] theorem State.setRuns_sdl (s : State) (x : List TackRun) : (s.setRuns x).sdl = s.sdl := rfl
@[simp] theorem State.setRuns_vec (s : State) (x : List TackRun) : (s.setRuns x).vec = s.vec := rfl
@[simp] theorem State.setRuns_f (s : State) (x : List TackRun) : (s.setRuns x).f = s.f := rfl
@[simp] theorem State.setRuns_u (s : State) (x : List TackRun) : (s.setRuns x).u = s.u := rfl
@[simp] theorem State.setRuns_a (s : State) (x : List TackRun) : (s.setRuns x).a = s.a := rfl

/-! `State.setGathers` changes `d` only. -/

@[simp] theorem State.setGathers_pending (s : State) (t : Nat) (x : List GatherRun) : (s.setGathers t x).pending = s.pending := rfl
@[simp] theorem State.setGathers_freeCount (s : State) (t : Nat) (x : List GatherRun) : (s.setGathers t x).freeCount = s.freeCount := rfl
@[simp] theorem State.setGathers_time (s : State) (t : Nat) (x : List GatherRun) : (s.setGathers t x).time = s.time := rfl
@[simp] theorem State.setGathers_phases (s : State) (t : Nat) (x : List GatherRun) : (s.setGathers t x).phases = s.phases := rfl
@[simp] theorem State.setGathers_sent (s : State) (t : Nat) (x : List GatherRun) : (s.setGathers t x).sent = s.sent := rfl
@[simp] theorem State.setGathers_regs (s : State) (t : Nat) (x : List GatherRun) : (s.setGathers t x).regs = s.regs := rfl
@[simp] theorem State.setGathers_cfgInv (s : State) (t : Nat) (x : List GatherRun) : (s.setGathers t x).cfgInv = s.cfgInv := rfl
@[simp] theorem State.setGathers_m (s : State) (t : Nat) (x : List GatherRun) : (s.setGathers t x).m = s.m := rfl
@[simp] theorem State.setGathers_h (s : State) (t : Nat) (x : List GatherRun) : (s.setGathers t x).h = s.h := rfl
@[simp] theorem State.setGathers_c (s : State) (t : Nat) (x : List GatherRun) : (s.setGathers t x).c = s.c := rfl
@[simp] theorem State.setGathers_sec (s : State) (t : Nat) (x : List GatherRun) : (s.setGathers t x).sec = s.sec := rfl
@[simp] theorem State.setGathers_maint (s : State) (t : Nat) (x : List GatherRun) : (s.setGathers t x).maint = s.maint := rfl
@[simp] theorem State.setGathers_mem (s : State) (t : Nat) (x : List GatherRun) : (s.setGathers t x).mem = s.mem := rfl
@[simp] theorem State.setGathers_sdl (s : State) (t : Nat) (x : List GatherRun) : (s.setGathers t x).sdl = s.sdl := rfl
@[simp] theorem State.setGathers_vec (s : State) (t : Nat) (x : List GatherRun) : (s.setGathers t x).vec = s.vec := rfl
@[simp] theorem State.setGathers_f (s : State) (t : Nat) (x : List GatherRun) : (s.setGathers t x).f = s.f := rfl
@[simp] theorem State.setGathers_u (s : State) (t : Nat) (x : List GatherRun) : (s.setGathers t x).u = s.u := rfl
@[simp] theorem State.setGathers_a (s : State) (t : Nat) (x : List GatherRun) : (s.setGathers t x).a = s.a := rfl

/-! `State.setUpdQueue` changes `u` only. -/

@[simp] theorem State.setUpdQueue_pending (s : State) (n : Nat) (x : List UpdWork) : (s.setUpdQueue n x).pending = s.pending := rfl
@[simp] theorem State.setUpdQueue_freeCount (s : State) (n : Nat) (x : List UpdWork) : (s.setUpdQueue n x).freeCount = s.freeCount := rfl
@[simp] theorem State.setUpdQueue_time (s : State) (n : Nat) (x : List UpdWork) : (s.setUpdQueue n x).time = s.time := rfl
@[simp] theorem State.setUpdQueue_phases (s : State) (n : Nat) (x : List UpdWork) : (s.setUpdQueue n x).phases = s.phases := rfl
@[simp] theorem State.setUpdQueue_sent (s : State) (n : Nat) (x : List UpdWork) : (s.setUpdQueue n x).sent = s.sent := rfl
@[simp] theorem State.setUpdQueue_regs (s : State) (n : Nat) (x : List UpdWork) : (s.setUpdQueue n x).regs = s.regs := rfl
@[simp] theorem State.setUpdQueue_cfgInv (s : State) (n : Nat) (x : List UpdWork) : (s.setUpdQueue n x).cfgInv = s.cfgInv := rfl
@[simp] theorem State.setUpdQueue_m (s : State) (n : Nat) (x : List UpdWork) : (s.setUpdQueue n x).m = s.m := rfl
@[simp] theorem State.setUpdQueue_h (s : State) (n : Nat) (x : List UpdWork) : (s.setUpdQueue n x).h = s.h := rfl
@[simp] theorem State.setUpdQueue_c (s : State) (n : Nat) (x : List UpdWork) : (s.setUpdQueue n x).c = s.c := rfl
@[simp] theorem State.setUpdQueue_sec (s : State) (n : Nat) (x : List UpdWork) : (s.setUpdQueue n x).sec = s.sec := rfl
@[simp] theorem State.setUpdQueue_maint (s : State) (n : Nat) (x : List UpdWork) : (s.setUpdQueue n x).maint = s.maint := rfl
@[simp] theorem State.setUpdQueue_mem (s : State) (n : Nat) (x : List UpdWork) : (s.setUpdQueue n x).mem = s.mem := rfl
@[simp] theorem State.setUpdQueue_d (s : State) (n : Nat) (x : List UpdWork) : (s.setUpdQueue n x).d = s.d := rfl
@[simp] theorem State.setUpdQueue_sdl (s : State) (n : Nat) (x : List UpdWork) : (s.setUpdQueue n x).sdl = s.sdl := rfl
@[simp] theorem State.setUpdQueue_vec (s : State) (n : Nat) (x : List UpdWork) : (s.setUpdQueue n x).vec = s.vec := rfl
@[simp] theorem State.setUpdQueue_f (s : State) (n : Nat) (x : List UpdWork) : (s.setUpdQueue n x).f = s.f := rfl
@[simp] theorem State.setUpdQueue_a (s : State) (n : Nat) (x : List UpdWork) : (s.setUpdQueue n x).a = s.a := rfl

/-! `State.atTime` changes `time` only. -/

@[simp] theorem State.atTime_pending (s : State) (t : Word): (s.atTime t).pending = s.pending := by
  unfold State.atTime; split <;> rfl
@[simp] theorem State.atTime_freeCount (s : State) (t : Word): (s.atTime t).freeCount = s.freeCount := by
  unfold State.atTime; split <;> rfl
@[simp] theorem State.atTime_sent (s : State) (t : Word): (s.atTime t).sent = s.sent := by
  unfold State.atTime; split <;> rfl
@[simp] theorem State.atTime_regs (s : State) (t : Word): (s.atTime t).regs = s.regs := by
  unfold State.atTime; split <;> rfl
@[simp] theorem State.atTime_m (s : State) (t : Word): (s.atTime t).m = s.m := by
  unfold State.atTime; split <;> rfl
@[simp] theorem State.atTime_h (s : State) (t : Word): (s.atTime t).h = s.h := by
  unfold State.atTime; split <;> rfl
@[simp] theorem State.atTime_c (s : State) (t : Word): (s.atTime t).c = s.c := by
  unfold State.atTime; split <;> rfl
@[simp] theorem State.atTime_sec (s : State) (t : Word): (s.atTime t).sec = s.sec := by
  unfold State.atTime; split <;> rfl
@[simp] theorem State.atTime_maint (s : State) (t : Word): (s.atTime t).maint = s.maint := by
  unfold State.atTime; split <;> rfl
@[simp] theorem State.atTime_mem (s : State) (t : Word): (s.atTime t).mem = s.mem := by
  unfold State.atTime; split <;> rfl
@[simp] theorem State.atTime_d (s : State) (t : Word): (s.atTime t).d = s.d := by
  unfold State.atTime; split <;> rfl
@[simp] theorem State.atTime_sdl (s : State) (t : Word): (s.atTime t).sdl = s.sdl := by
  unfold State.atTime; split <;> rfl
@[simp] theorem State.atTime_vec (s : State) (t : Word): (s.atTime t).vec = s.vec := by
  unfold State.atTime; split <;> rfl
@[simp] theorem State.atTime_f (s : State) (t : Word): (s.atTime t).f = s.f := by
  unfold State.atTime; split <;> rfl
@[simp] theorem State.atTime_u (s : State) (t : Word): (s.atTime t).u = s.u := by
  unfold State.atTime; split <;> rfl
@[simp] theorem State.atTime_a (s : State) (t : Word): (s.atTime t).a = s.a := by
  unfold State.atTime; split <;> rfl

/-! `State.tick` changes `time` and the phase timers, and without power the input stage only. -/

@[simp] theorem State.tick_pending (s : State) : (s.tick).pending = s.pending := by
  unfold State.tick; split <;> rfl
@[simp] theorem State.tick_freeCount (s : State) : (s.tick).freeCount = s.freeCount := by
  unfold State.tick; split <;> rfl
@[simp] theorem State.tick_sent (s : State) : (s.tick).sent = s.sent := by
  unfold State.tick; split <;> rfl
@[simp] theorem State.tick_regs (s : State) : (s.tick).regs = s.regs := by
  unfold State.tick; split <;> rfl
@[simp] theorem State.tick_cfgInv (s : State) : (s.tick).cfgInv = s.cfgInv := by
  unfold State.tick; split <;> rfl
/-- The management die without its input stage is as before. -/
@[simp] theorem State.tick_m (s : State) : { (s.tick).m with input := s.m.input } = s.m := by
  unfold State.tick; split <;> rfl
@[simp] theorem State.tick_m_st (s : State) : (s.tick).m.st = s.m.st := by
  unfold State.tick; split <;> rfl
@[simp] theorem State.tick_m_domains (s : State) : (s.tick).m.domains = s.m.domains := by
  unfold State.tick; split <;> rfl
theorem State.tick_m_supplied {s : State} (h : s.m.supplied = true) : (s.tick).m = s.m := by
  unfold State.tick; rw [if_pos h]; rfl
@[simp] theorem State.tick_h (s : State) : (s.tick).h = s.h := by
  unfold State.tick; split <;> rfl
@[simp] theorem State.tick_c (s : State) : (s.tick).c = s.c := by
  unfold State.tick; split <;> rfl
@[simp] theorem State.tick_sec (s : State) : (s.tick).sec = s.sec := by
  unfold State.tick; split <;> rfl
@[simp] theorem State.tick_maint (s : State) : (s.tick).maint = s.maint := by
  unfold State.tick; split <;> rfl
@[simp] theorem State.tick_mem (s : State) : (s.tick).mem = s.mem := by
  unfold State.tick; split <;> rfl
@[simp] theorem State.tick_d (s : State) : (s.tick).d = s.d := by
  unfold State.tick; split <;> rfl
@[simp] theorem State.tick_sdl (s : State) : (s.tick).sdl = s.sdl := by
  unfold State.tick; split <;> rfl
@[simp] theorem State.tick_vec (s : State) : (s.tick).vec = s.vec := by
  unfold State.tick; split <;> rfl
@[simp] theorem State.tick_f (s : State) : (s.tick).f = s.f := by
  unfold State.tick; split <;> rfl
@[simp] theorem State.tick_u (s : State) : (s.tick).u = s.u := by
  unfold State.tick; split <;> rfl
@[simp] theorem State.tick_a (s : State) : (s.tick).a = s.a := by
  unfold State.tick; split <;> rfl

/-! What a named update leaves in its own field. -/

@[simp] theorem State.send_sent (s : State) (x : Sent) : (s.send x).sent = x :: s.sent := rfl
@[simp] theorem State.setMod_st (s : State) (x : ModState) : (s.setMod x).m.st = x := rfl
@[simp] theorem State.setMod_supplied (s : State) (x : ModState) : (s.setMod x).m.supplied = s.m.supplied := rfl
@[simp] theorem State.free_fst (s : State) : s.free.1 = Config.freeWord s.freeCount := rfl
@[simp] theorem State.free_freeCount (s : State) : s.free.2.freeCount = s.freeCount + 1 := rfl

@[simp] theorem State.free_pending (s : State) : s.free.2.pending = s.pending := rfl
@[simp] theorem State.free_time (s : State) : s.free.2.time = s.time := rfl
@[simp] theorem State.free_phases (s : State) : s.free.2.time = s.time := rfl
@[simp] theorem State.free_sent (s : State) : s.free.2.sent = s.sent := rfl
@[simp] theorem State.free_regs (s : State) : s.free.2.regs = s.regs := rfl
@[simp] theorem State.free_cfgInv (s : State) : s.free.2.cfgInv = s.cfgInv := rfl
@[simp] theorem State.free_m (s : State) : s.free.2.m = s.m := rfl
@[simp] theorem State.free_h (s : State) : s.free.2.h = s.h := rfl
@[simp] theorem State.free_c (s : State) : s.free.2.c = s.c := rfl
@[simp] theorem State.free_sec (s : State) : s.free.2.sec = s.sec := rfl
@[simp] theorem State.free_maint (s : State) : s.free.2.maint = s.maint := rfl
@[simp] theorem State.free_mem (s : State) : s.free.2.mem = s.mem := rfl
@[simp] theorem State.free_d (s : State) : s.free.2.d = s.d := rfl
@[simp] theorem State.free_sdl (s : State) : s.free.2.sdl = s.sdl := rfl
@[simp] theorem State.free_vec (s : State) : s.free.2.vec = s.vec := rfl
@[simp] theorem State.free_f (s : State) : s.free.2.f = s.f := rfl
@[simp] theorem State.free_u (s : State) : s.free.2.u = s.u := rfl
@[simp] theorem State.free_a (s : State) : s.free.2.a = s.a := rfl

end Sys2Proof.Machine
end

