-- ==== Sys2Proof/Laws/Form.lean ====
section
/-! SUPPORT. The stores keep their canonical form (`Memory.wf`) under every operation over registers, memory and
benches, and under the shared operations of the host side. -/

namespace Sys2Proof.Machine

/-- The form rests on four stores. -/
theorem Memory.wf_iff (s : State) :
    Memory.wf s = true ↔ swf 0 s.mem.hbm = true ∧ swf ({} : LineMeta) s.mem.lines = true ∧ swf 0 s.mem.bench = true ∧ swf 0 s.regs = true := by
  simp [Memory.wf, Bool.and_eq_true, and_assoc]

/-- A change that leaves the four stores alone keeps the form. -/
theorem Memory.wf_congr {s t : State} (h1 : t.mem.hbm = s.mem.hbm) (h2 : t.mem.lines = s.mem.lines)
    (h3 : t.mem.bench = s.mem.bench) (h4 : t.regs = s.regs) : Memory.wf t = Memory.wf s := by
  simp [Memory.wf, h1, h2, h3, h4]

theorem reset_wf : Memory.wf State.reset = true := rfl

/-! Registers and the plain updates. -/

variable {s : State}

@[simp] theorem setReg_wf (k : RegKind) (i j : Nat) (v : Word) (h : Memory.wf s = true) : Memory.wf (s.setReg k i j v) = true := by
  rw [Memory.wf_iff] at h ⊢
  exact ⟨h.1, h.2.1, h.2.2.1, swf_sset 0 s.regs _ _ h.2.2.2⟩

@[simp] theorem setFld_wf (k : RegKind) (i j lo n v : Nat) (h : Memory.wf s = true) : Memory.wf (s.setFld k i j lo n v) = true :=
  setReg_wf k i j _ h
@[simp] theorem countWrap_wf (k : RegKind) (i j lo n v : Nat) (h : Memory.wf s = true) :
    Memory.wf (s.countWrap k i j lo n v) = true := setReg_wf k i j _ h
@[simp] theorem countHold_wf (k : RegKind) (i j lo n v : Nat) (h : Memory.wf s = true) :
    Memory.wf (s.countHold k i j lo n v) = true := setReg_wf k i j _ h
@[simp] theorem setPair_wf (k ki : RegKind) (i : Nat) (v : Word) (h : Memory.wf s = true) :
    Memory.wf (s.setPair k ki i v) = true := setReg_wf ki i 0 _ (setReg_wf k i 0 v h)

@[simp] theorem send_wf (x : Sent) : Memory.wf (s.send x) = Memory.wf s := rfl
@[simp] theorem bump_wf (i n : Nat) : Memory.wf (s.bump i n) = Memory.wf s := rfl
@[simp] theorem setSession_wf (a : Fin 2) (x : Option Session) : Memory.wf (s.setSession a x) = Memory.wf s := rfl
@[simp] theorem setDomain_wf (k : Nat) (x : Domain) : Memory.wf (s.setDomain k x) = Memory.wf s := rfl
@[simp] theorem setMod_wf (x : ModState) : Memory.wf (s.setMod x) = Memory.wf s := rfl
@[simp] theorem free_wf : Memory.wf s.free.2 = Memory.wf s := rfl
@[simp] theorem setStir_wf (t : Nat) (x : Stirrup) : Memory.wf (s.setStir t x) = Memory.wf s := rfl
@[simp] theorem setBank_wf (n b : Nat) (x : KstBank) : Memory.wf (s.setBank n b x) = Memory.wf s := rfl
@[simp] theorem setSaddle_wf (n : Nat) (x : Saddle) : Memory.wf (s.setSaddle n x) = Memory.wf s := rfl
@[simp] theorem setVec_wf (u : VecUnit) (x : Vec) : Memory.wf (s.setVec u x) = Memory.wf s := rfl
@[simp] theorem setPort_wf (p : Nat) (x : LinkPort) : Memory.wf (s.setPort p x) = Memory.wf s := rfl
@[simp] theorem setStream_wf (n : BitVec 32) (x : Egress) : Memory.wf (s.setStream n x) = Memory.wf s := rfl
@[simp] theorem setRuns_wf (x : List TackRun) : Memory.wf (s.setRuns x) = Memory.wf s := rfl
@[simp] theorem setGathers_wf (t : Nat) (x : List GatherRun) : Memory.wf (s.setGathers t x) = Memory.wf s := rfl
@[simp] theorem setUpdQueue_wf (n : Nat) (x : List UpdWork) : Memory.wf (s.setUpdQueue n x) = Memory.wf s := rfl
@[simp] theorem atTime_wf (t : Word) : Memory.wf (s.atTime t) = Memory.wf s := by unfold State.atTime; split <;> rfl
@[simp] theorem tick_wf : Memory.wf s.tick = Memory.wf s := by unfold State.tick; split <;> rfl

/-! Shared operations of the host side. -/

@[simp] theorem notify_wf (a : Fin 2) (kind : Nat) (n : BitVec 32) (p : Bytes) : Memory.wf (notify s a kind n p) = Memory.wf s := by
  unfold notify; split <;> rfl
@[simp] theorem notifyEntry_wf (a : Fin 2) (n : BitVec 32) (e : LogEntry) : Memory.wf (notifyEntry s a n e) = Memory.wf s := by
  unfold notifyEntry; split <;> simp
@[simp] theorem logEvent_wf (code : Nat) (src : Src) (d : Option (Word × BitVec 24)) (p0 p1 p2 : Word) :
    Memory.wf (logEvent s code src d p0 p1 p2) = Memory.wf s := by
  unfold logEvent; simp; rfl
@[simp] theorem logModule_wf (code : Nat) (src : Src) (p0 p1 p2 : Word) :
    Memory.wf (logModule s code src p0 p1 p2) = Memory.wf s := logEvent_wf code src none p0 p1 p2
@[simp] theorem logComplement_wf (src : Src) (kind : Nat) (v inv : Word) :
    Memory.wf (logComplement s src kind v inv) = Memory.wf s := by unfold logComplement; simp
@[simp] theorem freeBuckle_wf : Memory.wf (freeBuckle s) = Memory.wf s := rfl
@[simp] theorem expireBuckle_wf : Memory.wf (expireBuckle s) = Memory.wf s := by
  unfold expireBuckle; split <;> simp; rfl
@[simp] theorem unpin_wf (n : BitVec 32) : Memory.wf (unpin s n) = Memory.wf s := by
  unfold unpin; dsimp only
  split
  · split
    · split
      · rfl
      · split
        · rw [expireBuckle_wf]; rfl
        · rfl
    · rfl
  · rfl
@[simp] theorem openTicket_wf (q : Req) (c st : Nat) (p : Bool) : Memory.wf (openTicket s q c st p).2 = Memory.wf s := rfl
@[simp] theorem finishTicketWith_wf (n : BitVec 32) (st : Nat) (x : Word) (more : List Word) :
    Memory.wf (finishTicketWith s n st x more) = Memory.wf s := by
  unfold finishTicketWith
  split
  · rfl
  · simp only [unpin_wf]
    split
    · split
      · rw [notify_wf]; rfl
      · rfl
    · rfl
@[simp] theorem finishTicket_wf (n : BitVec 32) (st : Nat) (x : Word) : Memory.wf (finishTicket s n st x) = Memory.wf s :=
  finishTicketWith_wf n st x []
@[simp] theorem finishOpt_wf (n : Option (BitVec 32)) (st : Nat) (x : Word) : Memory.wf (finishOpt s n st x) = Memory.wf s := by
  unfold finishOpt; split <;> simp
@[simp] theorem closeSession_wf (a : Fin 2) (h : Memory.wf s = true) : Memory.wf (closeSession s a) = true :=
  setReg_wf _ _ _ _ (by simpa using h)

/-- Drawing free bytes numbers them, and changes nothing else. -/
theorem freeBytes_snd : ∀ (n : Nat) (s : State), ∃ k, (freeBytes n s).2 = { s with freeCount := k }
  | 0, s => ⟨s.freeCount, rfl⟩
  | n + 1, s => by
    obtain ⟨k, h⟩ := freeBytes_snd n s.free.2
    exact ⟨k, by unfold freeBytes; exact h⟩

@[simp] theorem freeBytes_wf (n : Nat) : Memory.wf (freeBytes n s).2 = Memory.wf s := by
  obtain ⟨k, h⟩ := freeBytes_snd n s
  rw [h]; rfl

theorem foldl_wf {β : Type} (f : State → β → State) (hf : ∀ s x, Memory.wf s = true → Memory.wf (f s x) = true) :
    ∀ (xs : List β) (s : State), Memory.wf s = true → Memory.wf (xs.foldl f s) = true
  | [], _, h => h
  | x :: xs, s, h => foldl_wf f hf xs (f s x) (hf s x h)

/-! HBM. -/

theorem putBytes_swf : ∀ (bs : Bytes) (m : List Host.Cell) (a : Nat), swf 0 m = true → swf 0 (putBytes m a bs) = true
  | [], _, _, h => h
  | b :: bs, m, a, h => putBytes_swf bs (sset 0 m a b) (a + 1) (swf_sset 0 m a b h)

@[simp] theorem setLine_wf (l : Nat) (bs : Bytes) (x : LineMeta) (h : Memory.wf s = true) : Memory.wf (setLine s l bs x) = true := by
  rw [Memory.wf_iff] at h ⊢
  exact ⟨putBytes_swf bs _ _ h.1, swf_sset _ _ _ _ h.2.1, h.2.2⟩

@[simp] theorem addCandidate_wf (n l : Nat) (ue : Bool) (c : Nat) (h : Memory.wf s = true) :
    Memory.wf (addCandidate s n l ue c) = true := by
  unfold addCandidate; dsimp only; split <;> simp [h]

@[simp] theorem markCandidate_wf (n l : Nat) (ue : Bool) (c : Nat) (h : Memory.wf s = true) :
    Memory.wf (markCandidate s n l ue c) = true := by
  unfold markCandidate; split <;> simp [h]

@[simp] theorem lineLost_wf (l : Nat) (h : Memory.wf s = true) : Memory.wf (lineLost s l) = true := markCandidate_wf _ _ _ _ h

@[simp] theorem captureEcc_wf (n l : Nat) (ue : Bool) (x y : Nat) (h : Memory.wf s = true) :
    Memory.wf (captureEcc s n l ue x y) = true := by
  unfold captureEcc; split <;> simp [h]

@[simp] theorem accountCE_wf (l : Nat) (syms : List Nat) (h : Memory.wf s = true) : Memory.wf (accountCE s l syms) = true := by
  unfold accountCE; dsimp only
  split
  · apply markCandidate_wf
    exact captureEcc_wf _ _ _ _ _ (by simp [h])
  · exact captureEcc_wf _ _ _ _ _ (by simp [h])

@[simp] theorem accountUE_wf (l c : Nat) (h : Memory.wf s = true) : Memory.wf (accountUE s l c) = true := by
  unfold accountUE; dsimp only
  exact lineLost_wf _ (by simp [h])

@[simp] theorem accountTagOf_wf (l : Nat) (m : LineMeta) (h : Memory.wf s = true) : Memory.wf (accountTagOf s l m) = true := by
  unfold accountTagOf; dsimp only
  exact lineLost_wf _ (by simp [h])

@[simp] theorem accountTag_wf (l : Nat) (h : Memory.wf s = true) : Memory.wf (accountTag s l) = true := accountTagOf_wf l _ h

@[simp] theorem logDenied_wf (c : Class) (a r : Nat) (wr : Bool) : Memory.wf (logDenied s c a r wr) = Memory.wf s := by
  unfold logDenied; simp

@[simp] theorem countSbg_wf (l : Nat) (hit : Bool) (h : Memory.wf s = true) : Memory.wf (countSbg s l hit) = true :=
  countWrap_wf _ _ _ _ _ _ h

/-- The slices hold lines, not their contents. -/
@[simp] theorem sbg_wf (x : List SbgLine) : Memory.wf { s with mem := { s.mem with sbg := x } } = Memory.wf s := rfl

@[simp] theorem transfer_wf (l : Nat) (h : Memory.wf s = true) : Memory.wf (transfer s l) = true := by
  exact h

@[simp] theorem holdLine_wf (x : SbgLine) (h : Memory.wf s = true) : Memory.wf (holdLine s x) = true := by
  exact h

@[simp] theorem forgetUnder_wf (l : Nat) : Memory.wf (forgetUnder s l) = Memory.wf s := by
  unfold forgetUnder; split <;> rfl

@[simp] theorem reveal_wf (l : Nat) (h : Memory.wf s = true) : Memory.wf (reveal s l) = true := by
  unfold reveal
  split
  · exact h
  · split
    · exact setLine_wf _ _ _ ((forgetUnder_wf l).trans h)
    · exact h

@[simp] theorem sbgRead_wf (p : Policy) (l : Nat) (h : Memory.wf s = true) : Memory.wf (sbgRead s p l) = true := by
  have h1 := fun b => countSbg_wf (s := s) l b h
  unfold sbgRead; dsimp only
  split
  · exact holdLine_wf _ (h1 _)
  · split
    · exact transfer_wf _ (h1 _)
    · exact holdLine_wf _ (transfer_wf _ (h1 _))

@[simp] theorem sbgWrite_wf (p : Policy) (l : Nat) (w : Bool) (o : Bytes × LineMeta) (h : Memory.wf s = true) :
    Memory.wf (sbgWrite s p l w o) = true := by
  have h1 := fun b => countSbg_wf (s := s) l b h
  unfold sbgWrite; dsimp only
  split
  · split
    · exact transfer_wf _ (h1 _)
    · exact holdLine_wf _ (h1 _)
  · split
    · exact transfer_wf _ (h1 _)
    · refine holdLine_wf _ ?_
      split
      · exact h1 _
      · exact transfer_wf _ (h1 _)

@[simp] theorem sbgDiscard_wf (l : Nat) (h : Memory.wf s = true) : Memory.wf (sbgDiscard s l) = true := by
  unfold sbgDiscard; dsimp only
  repeat' split
  all_goals first
    | exact h
    | exact setLine_wf _ _ _ (by simpa using h)

@[simp] theorem readLine_wf (c : Class) (p : Policy) (l : Nat) (h : Memory.wf s = true) : Memory.wf (readLine s c p l).2 = true := by
  have h1 : Memory.wf (sbgRead (reveal s l) p l) = true := sbgRead_wf p l (reveal_wf l h)
  unfold readLine; dsimp only
  split
  · exact accountUE_wf _ _ h1
  · exact accountTag_wf _ h1
  · split
    · exact h1
    · exact h1
  · have h2 := fun bs m syms => accountCE_wf l syms (setLine_wf l bs m ((forgetUnder_wf l).trans h1))
    split
    · exact h2 _ _ _
    · exact h2 _ _ _

theorem readLines_wf (c : Class) (p : Policy) : ∀ (ls : List Nat) (s : State), Memory.wf s = true → Memory.wf (readLines c p ls s).2 = true
  | [], _, h => h
  | l :: ls, s, h => by
    have h1 := readLine_wf (s := s) c p l h
    unfold readLines
    split
    · rename_i e; rw [e] at h1; exact h1
    · rename_i e; rw [e] at h1
      have h2 := readLines_wf c p ls _ h1
      split
      · rename_i e2; rw [e2] at h2; exact h2
      · rename_i e2; rw [e2] at h2; exact h2

@[simp] theorem memRead_wf (c : Class) (t : Hint) (a n : Nat) (h : Memory.wf s = true) : Memory.wf (memRead s c t a n).2 = true := by
  unfold memRead
  split
  · exact h
  · split
    · exact h
    · have h1 := readLines_wf c t.policy (linesOf a n) s h
      dsimp only
      split
      · rename_i e; rw [e] at h1; exact h1
      · rename_i e; rw [e] at h1
        dsimp only
        split
        · exact foldl_wf sbgDiscard (fun _ x hx => sbgDiscard_wf x hx) _ _ h1
        · exact h1

@[simp] theorem writeLine_wf (c : Class) (p : Policy) (a : Nat) (bs : Bytes) (h : Memory.wf s = true) :
    Memory.wf (writeLine s c p a bs) = true := by
  have h1 := fun w o => sbgWrite_wf (s := forgetUnder (reveal s (a / 64)) (a / 64)) p (a / 64) w o
    ((forgetUnder_wf _).trans (reveal_wf _ h))
  unfold writeLine; dsimp only
  split
  · exact setLine_wf _ _ _ (h1 _ _)
  · split
    · exact setLine_wf _ _ _ (h1 _ _)
    · exact accountCE_wf _ _ (setLine_wf _ _ _ (h1 _ _))
    · exact setLine_wf _ _ _ (accountUE_wf _ _ (h1 _ _))
    · exact setLine_wf _ _ _ (accountTag_wf _ (h1 _ _))

theorem writeLines_wf (c : Class) (p : Policy) : ∀ (n a : Nat) (bs : Bytes) (s : State), Memory.wf s = true →
    Memory.wf (writeLines c p n a bs s) = true
  | 0, _, _, _, h => h
  | _ + 1, _, [], _, h => h
  | n + 1, a, _ :: _, _, h => writeLines_wf c p n _ _ _ (writeLine_wf c p a _ h)

@[simp] theorem memWrite_wf (c : Class) (t : Hint) (a : Nat) (bs : Bytes) (h : Memory.wf s = true) :
    Memory.wf (memWrite s c t a bs).2 = true := by
  unfold memWrite
  split
  · exact h
  · split
    · exact h
    · exact writeLines_wf c t.policy _ _ _ _ h

@[simp] theorem noteErr_wf (c : Class) (e : MemErr) : Memory.wf (noteErr s c e) = Memory.wf s := by
  unfold noteErr; split <;> simp

/-! Benches. -/

/-- Sector states, whole-bench voids and word errors are not part of the form. -/
@[simp] theorem benchErr_wf (x : List (Nat × WordError)) : Memory.wf { s with mem := { s.mem with benchErr := x } } = Memory.wf s := rfl
@[simp] theorem markSectors_wf (n o len : Nat) (x : SectorState) : Memory.wf (markSectors s n o len x) = Memory.wf s := rfl
@[simp] theorem voidBench_wf (n : Nat) : Memory.wf (voidBench s n) = Memory.wf s := rfl
@[simp] theorem voidSpeculative_wf (n : Nat) : Memory.wf (voidSpeculative s n) = Memory.wf s := rfl

@[simp] theorem benchCorrect_wf (n o len : Nat) (h : Memory.wf s = true) : Memory.wf (benchCorrect s n o len) = true := by
  unfold benchCorrect
  refine foldl_wf _ (fun s x hs => ?_) _ _ h
  dsimp only
  split
  · have h1 : Memory.wf ((s.bump 2 1).countHold .bncEccCnt n 0 32 32 1) = true := by simp [hs]
    rw [Memory.wf_iff] at h1 ⊢
    exact h1
  · exact hs

@[simp] theorem benchRead_wf (n o len : Nat) (h : Memory.wf s = true) : Memory.wf (benchRead s n o len).2 = true := by
  unfold benchRead
  split <;> simp [h]

theorem foldl_swf {β : Type} (f : List Host.Cell → β → List Host.Cell) (hf : ∀ m x, swf 0 m = true → swf 0 (f m x) = true) :
    ∀ (xs : List β) (m : List Host.Cell), swf 0 m = true → swf 0 (xs.foldl f m) = true
  | [], _, h => h
  | x :: xs, m, h => foldl_swf f hf xs (f m x) (hf m x h)

@[simp] theorem benchPut_wf (n o : Nat) (bs : Bytes) (h : Memory.wf s = true) : Memory.wf (benchPut s n o bs) = true := by
  have h1 : ∀ k, Memory.wf (if k = 0 then s else (s.bump 2 k).countHold .bncEccCnt n 0 32 32 k) = true := by
    intro k; split <;> simp [h]
  rw [Memory.wf_iff] at h
  have h2 := fun k => (Memory.wf_iff _).mp (h1 k)
  unfold benchPut
  rw [Memory.wf_iff]
  exact ⟨(h2 _).1, (h2 _).2.1, foldl_swf _ (fun m x hm => swf_sset 0 m _ _ hm) _ _ h.2.2.1, (h2 _).2.2.2⟩

@[simp] theorem freshSector_wf (n x : Nat) (h : Memory.wf s = true) : Memory.wf (freshSector n s x) = true := by
  have h1 := (Memory.wf_iff _).mp ((freeBytes_wf (s := s) 32).trans h)
  unfold freshSector
  rw [Memory.wf_iff]
  exact ⟨h1.1, h1.2.1, foldl_swf _ (fun m x hm => swf_sset 0 m _ _ hm) _ _ h1.2.2.1, h1.2.2.2⟩

@[simp] theorem benchWrite_wf (n o : Nat) (bs : Bytes) (h : Memory.wf s = true) : Memory.wf (benchWrite s n o bs) = true := by
  unfold benchWrite
  rw [markSectors_wf]
  exact benchPut_wf n o bs (foldl_wf _ (fun _ x hs => freshSector_wf n x hs) _ _ h)

end Sys2Proof.Machine
end

