-- ==== Sys2Proof/Laws/Lists.lean ====
section
/-! SUPPORT. Reads after writes in the lists whose keys rise: stirrups, saddles, vector units, banks, queues. -/

namespace Sys2Proof.Machine

variable {α : Type}

/-- Below the first key nothing is listed. -/
theorem sget_of_keysBelow (d : α) : ∀ (m : List (Nat × α)) (k : Nat), (m.all fun y : Nat × α => decide (k < y.1)) = true → sget d m k = d
  | [], _, _ => rfl
  | (j, v) :: m, k, h => by
    simp only [List.all_cons, Bool.and_eq_true, decide_eq_true_eq] at h
    have h1 : j ≠ k := by have := h.1; omega
    simp [sget, h1, h.1]

theorem sget_sdel_same_of_keysRise (d : α) : ∀ (m : List (Nat × α)) (k : Nat), keysRise m = true → sget d (sdel m k) k = d
  | [], _, _ => rfl
  | (j, v) :: m, k, h => by
    simp only [keysRise, Bool.and_eq_true] at h
    unfold sdel
    split
    · rename_i e; subst e; exact sget_of_keysBelow d m _ h.1
    · split
      · simp [sget, *]
      · simp [sget, *, sget_sdel_same_of_keysRise d m k h.2]

theorem sget_sdel_other_of_keysRise (d : α) : ∀ (m : List (Nat × α)) (k l : Nat), keysRise m = true → k ≠ l →
    sget d (sdel m k) l = sget d m l
  | [], _, _, _, _ => rfl
  | (j, v) :: m, k, l, h, hk => by
    simp only [keysRise, Bool.and_eq_true] at h
    unfold sdel
    split
    · rename_i e; subst e
      by_cases hl : l < j
      · have : (m.all fun y : Nat × α => decide (l < y.1)) = true := by
          rw [List.all_eq_true] at h ⊢
          intro x hx; have := h.1 x hx; simp only [decide_eq_true_eq] at this ⊢; omega
        simp [sget, hk, hl, sget_of_keysBelow d m l this]
      · simp [sget, hk, hl]
    · split
      · rfl
      · simp only [sget, sget_sdel_other_of_keysRise d m k l h.2 hk]

/-- A key reads as what was written to it last. -/
theorem sget_sset_same_of_keysRise [DecidableEq α] (d : α) (m : List (Nat × α)) (k : Nat) (x : α) (h : keysRise m = true) :
    sget d (sset d m k x) k = x := by
  unfold sset
  split
  · rename_i e; rw [e]; exact sget_sdel_same_of_keysRise d m k h
  · exact sget_sput_same d m k x

/-- A write leaves every other key alone. -/
theorem sget_sset_other_of_keysRise [DecidableEq α] (d : α) (m : List (Nat × α)) {k l : Nat} (x : α) (h : keysRise m = true) (hk : k ≠ l) :
    sget d (sset d m k x) l = sget d m l := by
  unfold sset
  split
  · exact sget_sdel_other_of_keysRise d m k l h hk
  · exact sget_sput_other d m k l x hk

theorem keysRise_sdel : ∀ (m : List (Nat × α)) (k : Nat), keysRise m = true → keysRise (sdel m k) = true ∧
    ∀ j : Nat, (m.all fun y : Nat × α => decide (j < y.1)) = true → ((sdel m k).all fun y : Nat × α => decide (j < y.1)) = true
  | [], _, _ => ⟨rfl, fun _ _ => rfl⟩
  | (i, v) :: m, k, h => by
    have h0 := h
    simp only [keysRise, Bool.and_eq_true] at h
    obtain ⟨h1, h2⟩ := keysRise_sdel m k h.2
    unfold sdel
    split
    · refine ⟨h.2, fun j hj => ?_⟩
      simp only [List.all_cons, Bool.and_eq_true] at hj
      exact hj.2
    · split
      · exact ⟨h0, fun _ hj => hj⟩
      · refine ⟨?_, fun j hj => ?_⟩
        · simp only [keysRise, Bool.and_eq_true]; exact ⟨h2 i h.1, h1⟩
        · simp only [List.all_cons, Bool.and_eq_true] at hj ⊢; exact ⟨hj.1, h2 j hj.2⟩

theorem keysRise_sput : ∀ (m : List (Nat × α)) (k : Nat) (x : α), keysRise m = true → keysRise (sput m k x) = true ∧
    ∀ j : Nat, j < k → (m.all fun y : Nat × α => decide (j < y.1)) = true → ((sput m k x).all fun y : Nat × α => decide (j < y.1)) = true
  | [], k, x, _ => ⟨rfl, fun j hj _ => by simp [sput, hj]⟩
  | (i, v) :: m, k, x, h => by
    have h0 := h
    simp only [keysRise, Bool.and_eq_true] at h
    obtain ⟨h1, h2⟩ := keysRise_sput m k x h.2
    unfold sput
    split
    · rename_i e
      subst e
      refine ⟨by simp only [keysRise, Bool.and_eq_true]; exact h, fun j hj hm => ?_⟩
      simp only [List.all_cons, Bool.and_eq_true] at hm ⊢; exact hm
    · split
      · rename_i h3 h4
        have hb : (m.all fun y : Nat × α => decide (k < y.1)) = true := by
          rw [List.all_eq_true]
          intro y hy
          have h5 := (List.all_eq_true.mp h.1) y hy
          simp only [decide_eq_true_eq] at h5 ⊢; omega
        refine ⟨?_, fun j hj hm => ?_⟩
        · simp only [keysRise, List.all_cons, Bool.and_eq_true, decide_eq_true_eq]; exact ⟨⟨h4, hb⟩, h⟩
        · rw [List.all_cons, Bool.and_eq_true]; exact ⟨by simp [hj], hm⟩
      · rename_i h3 h4
        refine ⟨?_, fun j hj hm => ?_⟩
        · simp only [keysRise, Bool.and_eq_true]; exact ⟨h2 i (by omega) h.1, h1⟩
        · simp only [List.all_cons, Bool.and_eq_true] at hm ⊢; exact ⟨hm.1, h2 j hj hm.2⟩

/-- A write keeps the keys rising. -/
theorem keysRise_sset [DecidableEq α] (d : α) (m : List (Nat × α)) (k : Nat) (x : α) (h : keysRise m = true) : keysRise (sset d m k x) = true := by
  unfold sset
  split
  · exact (keysRise_sdel m k h).1
  · exact (keysRise_sput m k x h).1

/-! The lists of the state. -/

theorem Lists.wf_stirrups {s : State} (h : Lists.wf s = true) : keysRise s.d.stirrups = true := by simp only [Lists.wf, Bool.and_eq_true] at h; simp [h]
theorem Lists.wf_banks {s : State} (h : Lists.wf s = true) : keysRise s.d.banks = true := by simp only [Lists.wf, Bool.and_eq_true] at h; simp [h]
theorem Lists.wf_gathers {s : State} (h : Lists.wf s = true) : keysRise s.d.gathers = true := by simp only [Lists.wf, Bool.and_eq_true] at h; simp [h]
theorem Lists.wf_sdl {s : State} (h : Lists.wf s = true) : keysRise s.sdl = true := by simp only [Lists.wf, Bool.and_eq_true] at h; simp [h]
theorem Lists.wf_vec {s : State} (h : Lists.wf s = true) : keysRise s.vec = true := by simp only [Lists.wf, Bool.and_eq_true] at h; simp [h]
theorem Lists.wf_queues {s : State} (h : Lists.wf s = true) : keysRise s.u.queues = true := by simp only [Lists.wf, Bool.and_eq_true] at h; simp [h]
theorem Lists.wf_ports {s : State} (h : Lists.wf s = true) : keysRise s.f.ports = true := by simp only [Lists.wf, Bool.and_eq_true] at h; simp [h]
theorem Lists.wf_domains {s : State} (h : Lists.wf s = true) : keysRise s.m.domains = true := by simp only [Lists.wf, Bool.and_eq_true] at h; simp [h]

theorem stir_setStir {s : State} (t : Nat) (x : Stirrup) (h : keysRise s.d.stirrups = true) : (s.setStir t x).stir t = x :=
  sget_sset_same_of_keysRise _ _ t x h
theorem stir_setStir_other {s : State} {t n : Nat} (x : Stirrup) (h : keysRise s.d.stirrups = true) (hn : t ≠ n) :
    (s.setStir t x).stir n = s.stir n := sget_sset_other_of_keysRise _ _ x h hn
theorem bank_setBank {s : State} (d b : Nat) (x : KstBank) (h : keysRise s.d.banks = true) : (s.setBank d b x).bank d b = x :=
  sget_sset_same_of_keysRise _ _ _ x h
theorem saddle_setSaddle {s : State} (n : Nat) (x : Saddle) (h : keysRise s.sdl = true) : (s.setSaddle n x).saddle n = x :=
  sget_sset_same_of_keysRise _ _ n x h
theorem saddle_setSaddle_other {s : State} {n m : Nat} (x : Saddle) (h : keysRise s.sdl = true) (hm : n ≠ m) :
    (s.setSaddle n x).saddle m = s.saddle m := sget_sset_other_of_keysRise _ _ x h hm
theorem vecOf_setVec {s : State} (u : VecUnit) (x : Vec) (h : keysRise s.vec = true) : (s.setVec u x).vecOf u = x :=
  sget_sset_same_of_keysRise _ _ _ x h
theorem gathersOf_setGathers {s : State} (t : Nat) (x : List GatherRun) (h : keysRise s.d.gathers = true) :
    (s.setGathers t x).gathersOf t = x := sget_sset_same_of_keysRise _ _ t x h
theorem updQueue_setUpdQueue {s : State} (n : Nat) (x : List UpdWork) (h : keysRise s.u.queues = true) :
    (s.setUpdQueue n x).updQueue n = x := sget_sset_same_of_keysRise _ _ n x h

/-- Units have numbers of their own. -/
theorem unitIndex_inj {u w : VecUnit} (h : unitIndex u = unitIndex w) : u = w := by
  cases u <;> cases w <;> simp [unitIndex] at h ⊢ <;> omega
theorem vecOf_setVec_other {s : State} {u w : VecUnit} (x : Vec) (h : keysRise s.vec = true) (hw : u ≠ w) :
    (s.setVec u x).vecOf w = s.vecOf w :=
  sget_sset_other_of_keysRise _ _ x h fun e => hw (unitIndex_inj e)

/-! The end of a descriptor's execution. -/

/-- The end of a descriptor marks it in its stirrup and leaves everything else. -/
theorem endFlight_spec {s : State} (t : Nat) (f : InFlight) (fault : Option (Nat × Word)) (stf : BitVec 4)
    (h : keysRise s.d.stirrups = true) :
    (endFlight s t f fault stf).stir t = { s.stir t with flight := (s.stir t).flight.map fun g =>
        if g = f then { f with phase := .ended, fault := fault, stf := f.stf ||| stf } else g }
      ∧ ∀ n, t ≠ n → (endFlight s t f fault stf).stir n = s.stir n :=
  ⟨stir_setStir _ _ h, fun _ hn => stir_setStir_other _ h hn⟩

@[simp] theorem endFlight_mem (s : State) (t : Nat) (f : InFlight) (e : Option (Nat × Word)) (x : BitVec 4) : (endFlight s t f e x).mem = s.mem := rfl
@[simp] theorem endFlight_regs (s : State) (t : Nat) (f : InFlight) (e : Option (Nat × Word)) (x : BitVec 4) : (endFlight s t f e x).regs = s.regs := rfl
@[simp] theorem endFlight_sdl (s : State) (t : Nat) (f : InFlight) (e : Option (Nat × Word)) (x : BitVec 4) : (endFlight s t f e x).sdl = s.sdl := rfl
@[simp] theorem endFlight_vec (s : State) (t : Nat) (f : InFlight) (e : Option (Nat × Word)) (x : BitVec 4) : (endFlight s t f e x).vec = s.vec := rfl
@[simp] theorem endFlight_h (s : State) (t : Nat) (f : InFlight) (e : Option (Nat × Word)) (x : BitVec 4) : (endFlight s t f e x).h = s.h := rfl
@[simp] theorem endFlight_f (s : State) (t : Nat) (f : InFlight) (e : Option (Nat × Word)) (x : BitVec 4) : (endFlight s t f e x).f = s.f := rfl
@[simp] theorem endFlight_u (s : State) (t : Nat) (f : InFlight) (e : Option (Nat × Word)) (x : BitVec 4) : (endFlight s t f e x).u = s.u := rfl
@[simp] theorem endFlight_a (s : State) (t : Nat) (f : InFlight) (e : Option (Nat × Word)) (x : BitVec 4) : (endFlight s t f e x).a = s.a := rfl
@[simp] theorem endFlight_m (s : State) (t : Nat) (f : InFlight) (e : Option (Nat × Word)) (x : BitVec 4) : (endFlight s t f e x).m = s.m := rfl
@[simp] theorem endFlight_signals (s : State) (t : Nat) (f : InFlight) (e : Option (Nat × Word)) (x : BitVec 4) :
    (endFlight s t f e x).d.signals = s.d.signals := rfl

end Sys2Proof.Machine
end

