-- ==== Sys2Proof/Laws/Memory.lean ====
section
/-! SUPPORT. What reads and writes of HBM and of the benches do where every line and word is good. -/

namespace Sys2Proof.Machine

variable {s : State}

/-! Lines. -/

theorem flipBytes_nil : ∀ bs : Bytes, flipBytes bs [] = bs := by
  intro bs
  simp [flipBytes]

/-- A good line decodes to its data. -/
@[simp] theorem decodeLine_good (bs : Bytes) : decodeLine bs {} = (.clean, bs, {}) := by
  have h : locate (syndromes []) = some [] := by decide
  simp [decodeLine, h, flipBytes_nil, flipMeta]

/-- A transfer moves the parity errors met to the repeats counted. -/
theorem transfer_keeps (l : Nat) :
    { transfer s l with mem := { (transfer s l).mem with parity := s.mem.parity, repeats := s.mem.repeats } } = s := rfl

/-- A line put into its slice changes the slice, and what its write-backs count. -/
theorem holdLine_keeps (x : SbgLine) :
    { holdLine s x with mem := { (holdLine s x).mem with sbg := s.mem.sbg, parity := s.mem.parity, repeats := s.mem.repeats } } = s := rfl

/-- What a slice operation keeps, after what came before it did. -/
theorem slice_trans {t u : State} (h1 : { t with regs := s.regs, mem := { t.mem with sbg := s.mem.sbg, parity := s.mem.parity, repeats := s.mem.repeats } } = s)
    (h2 : { u with mem := { u.mem with sbg := t.mem.sbg, parity := t.mem.parity, repeats := t.mem.repeats } } = t) :
    { u with regs := s.regs, mem := { u.mem with sbg := s.mem.sbg, parity := s.mem.parity, repeats := s.mem.repeats } } = s := by
  rw [← h2] at h1; exact h1

theorem countSbg_keeps (l : Nat) (b : Bool) :
    { countSbg s l b with regs := s.regs, mem := { (countSbg s l b).mem with sbg := s.mem.sbg, parity := s.mem.parity, repeats := s.mem.repeats } } = s := rfl

theorem transfer_slice (l : Nat) :
    { transfer s l with mem := { (transfer s l).mem with sbg := s.mem.sbg, parity := s.mem.parity, repeats := s.mem.repeats } } = s :=
  congrArg (fun t : State => { t with mem := { t.mem with sbg := s.mem.sbg } }) (transfer_keeps l)

/-- Passing a slice changes the slice and its hit counters only (R256). -/
theorem sbgRead_keeps (p : Policy) (l : Nat) :
    { sbgRead s p l with regs := s.regs, mem := { (sbgRead s p l).mem with sbg := s.mem.sbg, parity := s.mem.parity, repeats := s.mem.repeats } } = s := by
  unfold sbgRead
  split
  · exact slice_trans (countSbg_keeps l true) (holdLine_keeps _)
  · have h := slice_trans (countSbg_keeps (s := s) l false) (transfer_slice l)
    dsimp only
    split
    · exact h
    · exact slice_trans h (holdLine_keeps _)

/-- A line without error has nothing else beneath its slice's copy, so nothing is revealed or forgotten. -/
theorem rewritten_good {l : Nat} (h : s.lineMeta l = {}) : s.rewritten l = none := by simp [State.rewritten, h]

theorem reveal_good {l : Nat} (h : s.lineMeta l = {}) : reveal s l = s := by
  unfold reveal; rw [rewritten_good h]; split <;> rfl

theorem forgetUnder_good {l : Nat} (h : s.lineMeta l = {}) : forgetUnder s l = s := by
  unfold forgetUnder; rw [rewritten_good h]; rfl

@[simp] theorem sbgRead_hbm (p : Policy) (l : Nat) : (sbgRead s p l).mem.hbm = s.mem.hbm := by
  have h := congrArg (fun t : State => t.mem.hbm) (sbgRead_keeps (s := s) p l); exact h
@[simp] theorem sbgRead_lines (p : Policy) (l : Nat) : (sbgRead s p l).mem.lines = s.mem.lines := by
  have h := congrArg (fun t : State => t.mem.lines) (sbgRead_keeps (s := s) p l); exact h
@[simp] theorem sbgRead_line (p : Policy) (l k : Nat) : (sbgRead s p l).line k = s.line k := by
  simp [State.line, State.bytesAt, State.byte]
@[simp] theorem sbgRead_lineMeta (p : Policy) (l k : Nat) : (sbgRead s p l).lineMeta k = s.lineMeta k := by simp [State.lineMeta]

/-- A good line gives its data. -/
theorem readLine_good (c : Class) (p : Policy) (l : Nat) (h : s.lineMeta l = {}) : readLine s c p l = (.ok (s.line l), sbgRead s p l) := by
  unfold readLine; dsimp only
  rw [reveal_good h, sbgRead_line, sbgRead_lineMeta, h, decodeLine_good]; rfl

/-- Good lines give their data; only the slices and their counters change. -/
theorem readLines_good (c : Class) (p : Policy) : ∀ (ls : List Nat) (s : State), (∀ l ∈ ls, s.lineMeta l = {}) →
    readLines c p ls s = (.ok (ls.flatMap s.line), ls.foldl (fun t l => sbgRead t p l) s)
  | [], _, _ => rfl
  | l :: ls, s, h => by
    have h1 := readLine_good (s := s) c p l (h l (by simp))
    have h2 := readLines_good c p ls (sbgRead s p l) fun k hk => by rw [sbgRead_lineMeta]; exact h k (by simp [hk])
    have h3 : (sbgRead s p l).line = s.line := by funext k; simp
    simp [readLines, h1, h2, h3]

theorem foldl_sbgRead_keeps (p : Policy) : ∀ (ls : List Nat) (s : State),
    { ls.foldl (fun t l => sbgRead t p l) s with regs := s.regs, mem := { (ls.foldl (fun t l => sbgRead t p l) s).mem with sbg := s.mem.sbg, parity := s.mem.parity, repeats := s.mem.repeats } } = s
  | [], _ => rfl
  | l :: ls, s => by
    have h1 := foldl_sbgRead_keeps p ls (sbgRead s p l)
    have h2 := sbgRead_keeps (s := s) p l
    simp only [List.foldl_cons]
    rw [← h1] at h2; exact h2

/-- The bytes of the lines of a range, cut to the range. -/
theorem lines_bytes (a n : Nat) : (((linesOf a n).flatMap s.line).drop (a % 64)).take n = s.bytesAt a n := by
  by_cases hn : n = 0
  · simp [linesOf, hn, State.bytesAt]
  have key : ∀ k b, ((List.range k).map (b + ·)).flatMap s.line = s.bytesAt (64 * b) (64 * k) := by
    intro k b
    induction k with
    | zero => simp [State.bytesAt]
    | succ k ih =>
      rw [List.range_succ, List.map_append, List.flatMap_append, ih]
      simp only [State.bytesAt, State.line, List.map_cons, List.map_nil, List.flatMap_cons, List.flatMap_nil, List.append_nil]
      rw [show 64 * (k + 1) = 64 * k + 64 by omega, List.range_add, List.map_append, List.map_map]
      congr 1
      apply List.map_congr_left
      intro i _
      simp only [Function.comp]
      congr 1; omega
  rw [linesOf, if_neg hn, key]
  apply List.ext_getElem
  · simp only [State.bytesAt, List.length_take, List.length_drop, List.length_map, List.length_range]; omega
  · intro i h1 h2
    simp only [State.bytesAt, List.length_take, List.length_drop, List.length_map, List.length_range] at h1 h2
    simp only [State.bytesAt, List.getElem_take, List.getElem_drop, List.getElem_map, List.getElem_range]
    congr 1; omega

/-- A read of good bytes that may be read gives them, and changes only the slices and their counters (R256, R266). -/
theorem memRead_readable {c : Class} {h : Hint} {a n : Nat} (hr : Readable s c a n) (hd : h.discard = false) :
    ∃ t, memRead s c h a n = (.ok (s.bytesAt a n), t) ∧ { t with regs := s.regs, mem := { t.mem with sbg := s.mem.sbg, parity := s.mem.parity, repeats := s.mem.repeats } } = s := by
  obtain ⟨h1, h2, h3⟩ := hr
  refine ⟨(linesOf a n).foldl (fun t l => sbgRead t h.policy l) s, ?_, foldl_sbgRead_keeps _ _ _⟩
  simp [memRead, Nat.not_lt.mpr h1, h2, readLines_good c h.policy _ s h3, lines_bytes, hd]

/-- A read that a protection region denies changes nothing (R281). -/
theorem memRead_denied {c : Class} {h : Hint} {a n : Nat} {z : Nat × Nat} (h1 : a + n ≤ hbmSize) (h2 : denied s c false a n = some z) :
    memRead s c h a n = (.error (.protect z.1 z.2 false), s) := by
  simp [memRead, Nat.not_lt.mpr h1, h2]

/-- A write that a protection region denies changes nothing (R281). -/
theorem memWrite_denied {c : Class} {h : Hint} {a : Nat} {bs : Bytes} {z : Nat × Nat} (h1 : a + bs.length ≤ hbmSize)
    (h2 : denied s c true a bs.length = some z) : memWrite s c h a bs = (some (.protect z.1 z.2 true), s) := by
  simp [memWrite, Nat.not_lt.mpr h1, h2]

/-! Bytes put into a sparse store. -/

theorem sget_putBytes : ∀ (bs : Bytes) (m : List Host.Cell) (a b : Nat), swf 0 m = true →
    sget 0 (putBytes m a bs) b = if a ≤ b ∧ b < a + bs.length then bs.getD (b - a) 0 else sget 0 m b
  | [], m, a, b, _ => by
    have : ¬ (a ≤ b ∧ b < a + 0) := by omega
    simp only [putBytes, List.length_nil, this, if_false]
  | x :: bs, m, a, b, h => by
    rw [putBytes, sget_putBytes bs _ _ _ (swf_sset 0 m a x h)]
    by_cases h1 : a = b
    · subst h1
      have h2 : ¬ (a + 1 ≤ a ∧ a < a + 1 + bs.length) := by omega
      have h3 : a ≤ a ∧ a < a + (x :: bs).length := by simp
      rw [if_neg h2, if_pos h3, sget_sset_same 0 m a x h]; simp
    · rw [sget_sset_other 0 m x h h1]
      by_cases h2 : a + 1 ≤ b ∧ b < a + 1 + bs.length
      · have h3 : a ≤ b ∧ b < a + (x :: bs).length := by simp only [List.length_cons]; omega
        rw [if_pos h2, if_pos h3, show b - a = (b - (a + 1)) + 1 by omega]; simp
      · have h3 : ¬ (a ≤ b ∧ b < a + (x :: bs).length) := by simp only [List.length_cons]; omega
        rw [if_neg h2, if_neg h3]

/-! Writes of lines. -/

theorem sbgWrite_keeps (p : Policy) (l : Nat) (w : Bool) (o : Bytes × LineMeta) :
    { sbgWrite s p l w o with regs := s.regs, mem := { (sbgWrite s p l w o).mem with sbg := s.mem.sbg, parity := s.mem.parity, repeats := s.mem.repeats } } = s := by
  unfold sbgWrite
  split
  · have key : ∀ u : State,
        { u with regs := s.regs, mem := { u.mem with sbg := s.mem.sbg, parity := s.mem.parity, repeats := s.mem.repeats } } = s →
        { transfer u l with
          regs := s.regs
          mem := { (transfer u l).mem with sbg := s.mem.sbg, parity := s.mem.parity, repeats := s.mem.repeats } } = s :=
      fun _ h => slice_trans h (transfer_slice l)
    dsimp only
    split
    · exact key _ rfl
    · exact slice_trans (countSbg_keeps l true) (holdLine_keeps _)
  · have h := slice_trans (countSbg_keeps (s := s) l false) (transfer_slice l)
    dsimp only
    split
    · exact h
    · refine slice_trans ?_ (holdLine_keeps _)
      split
      · exact countSbg_keeps l false
      · exact h

theorem setLine_sbgWrite_keeps (p : Policy) (l k : Nat) (w : Bool) (o : Bytes × LineMeta) (xs : Bytes) (m : LineMeta) :
    { setLine (sbgWrite s p l w o) k xs m with
      regs := s.regs
      mem := { (setLine (sbgWrite s p l w o) k xs m).mem with hbm := s.mem.hbm, lines := s.mem.lines, sbg := s.mem.sbg, parity := s.mem.parity, repeats := s.mem.repeats } } = s :=
  congrArg (fun t : State => { t with mem := { t.mem with hbm := s.mem.hbm, lines := s.mem.lines } }) (sbgWrite_keeps (s := s) p l w o)

/-- Putting bytes into a line: the bytes as HBM reads after it. -/
theorem byte_setLine (hw : Memory.wf s = true) (l b : Nat) (bs : Bytes) (m : LineMeta) :
    (setLine s l bs m).byte b = if 64 * l ≤ b ∧ b < 64 * l + bs.length then bs.getD (b - 64 * l) 0 else s.byte b :=
  sget_putBytes bs s.mem.hbm (64 * l) b ((Memory.wf_iff s).mp hw).1

/-- A good line made good again keeps every line's metadata. -/
theorem lineMeta_setLine (hw : Memory.wf s = true) (l k : Nat) (bs : Bytes) (h : s.lineMeta l = {}) :
    (setLine s l bs {}).lineMeta k = s.lineMeta k := by
  have h1 := ((Memory.wf_iff s).mp hw).2.1
  by_cases e : l = k
  · subst e; rw [h]; exact sget_sset_same {} s.mem.lines l {} h1
  · exact sget_sset_other {} s.mem.lines {} h1 e

theorem line_getD (l i : Nat) (h : i < 64) : (s.line l).getD i 0 = s.byte (64 * l + i) := by
  simp [State.line, State.bytesAt, h]

/-- What a write does to HBM where every line is good: its bytes stand at their place, every other byte and every line's
metadata stay, and only HBM, the slices and their counters have changed. -/
def WroteGood (s t : State) (a : Nat) (bs : Bytes) : Prop :=
  (∀ b, t.byte b = if a ≤ b ∧ b < a + bs.length then bs.getD (b - a) 0 else s.byte b) ∧ (∀ k, t.lineMeta k = s.lineMeta k)
    ∧ { t with regs := s.regs, mem := { t.mem with hbm := s.mem.hbm, lines := s.mem.lines, sbg := s.mem.sbg, parity := s.mem.parity, repeats := s.mem.repeats } } = s

theorem writeLine_good (c : Class) (p : Policy) (a : Nat) (bs : Bytes) (hw : Memory.wf s = true) (h : s.lineMeta (a / 64) = {})
    (hl : a % 64 + bs.length ≤ 64) : WroteGood s (writeLine s c p a bs) a bs := by
  have key : ∀ (w : Bool) (o : Bytes × LineMeta) (xs : Bytes),
      xs.length = 64 → (∀ i, i < 64 → xs.getD i 0 = if a % 64 ≤ i ∧ i < a % 64 + bs.length then bs.getD (i - a % 64) 0 else s.byte (64 * (a / 64) + i)) →
      WroteGood s (setLine (sbgWrite s p (a / 64) w o) (a / 64) xs {}) a bs := by
    intro w o xs hx hi
    have k0 := sbgWrite_keeps (s := s) p (a / 64) w o
    have k1 : ∀ b, (sbgWrite s p (a / 64) w o).byte b = s.byte b := fun b => by
      have e := congrArg (fun t : State => t.mem.hbm) k0; unfold State.byte; exact congrArg (fun m => sget 0 m b) e
    have k2 : ∀ k, (sbgWrite s p (a / 64) w o).lineMeta k = s.lineMeta k := fun k => by
      have e := congrArg (fun t : State => t.mem.lines) k0; unfold State.lineMeta; exact congrArg (fun m => sget {} m k) e
    have hw1 := sbgWrite_wf (s := s) p (a / 64) w o hw
    refine ⟨fun b => ?_, fun k => ?_, ?_⟩
    · rw [byte_setLine hw1, hx, k1]
      by_cases h1 : 64 * (a / 64) ≤ b ∧ b < 64 * (a / 64) + 64
      · rw [if_pos h1, hi _ (by omega)]
        by_cases h2 : a ≤ b ∧ b < a + bs.length
        · rw [if_pos h2, if_pos (by omega), show b - 64 * (a / 64) - a % 64 = b - a by omega]
        · rw [if_neg h2, if_neg (by omega), show 64 * (a / 64) + (b - 64 * (a / 64)) = b by omega]
      · rw [if_neg h1, if_neg (by omega)]
    · rw [lineMeta_setLine hw1 _ _ _ (by rw [k2]; exact h), k2]
    · exact setLine_sbgWrite_keeps p _ _ w o xs {}
  unfold writeLine; dsimp only
  rw [reveal_good h, forgetUnder_good h]
  split
  · rename_i h64
    refine key _ _ bs h64 fun i hi => ?_
    rw [if_pos (by omega), show i - a % 64 = i by omega]
  · have hd : (s.line (a / 64)).length = 64 := by simp [State.line, State.bytesAt]
    rw [h, decodeLine_good]
    refine key _ _ _ ?_ fun i hi => ?_
    · simp only [patchBytes, List.length_append, List.length_take, List.length_drop, hd]; omega
    · have e := line_getD (s := s) (a / 64) i hi
      simp only [patchBytes]
      by_cases h2 : a % 64 ≤ i
      · have h3 : (List.take (a % 64) (s.line (a / 64))).length = a % 64 := by rw [List.length_take, hd]; omega
        by_cases h4 : i < a % 64 + bs.length
        · rw [if_pos ⟨h2, h4⟩]
          simp only [List.getD_eq_getElem?_getD]
          rw [List.getElem?_append_left (by rw [List.length_append, h3]; omega), List.getElem?_append_right (by omega), h3]
        · rw [if_neg (by omega), ← e]
          simp only [List.getD_eq_getElem?_getD]
          rw [List.getElem?_append_right (by rw [List.length_append, h3]; omega), List.length_append, h3, List.getElem?_drop,
            show a % 64 + bs.length + (i - (a % 64 + bs.length)) = i by omega]
      · rw [if_neg (by omega), List.append_assoc, ← e]
        simp only [List.getD_eq_getElem?_getD]
        rw [List.getElem?_append_left (by rw [List.length_take, hd]; omega), List.getElem?_take, if_pos (show i < a % 64 by omega)]

theorem writeLines_good (c : Class) (p : Policy) : ∀ (n a : Nat) (bs : Bytes) (s : State), Memory.wf s = true →
    (∀ l, a / 64 ≤ l → 64 * l < a + bs.length → s.lineMeta l = {}) → a % 64 + bs.length ≤ 64 * n → WroteGood s (writeLines c p n a bs s) a bs
  | 0, a, bs, s, _, _, hn => by
    have hb : bs.length = 0 := by omega
    refine ⟨fun b => ?_, fun _ => rfl, rfl⟩
    rw [if_neg (by omega)]; rfl
  | _ + 1, a, [], s, _, _, _ => by
    refine ⟨fun b => ?_, fun _ => rfl, rfl⟩
    rw [if_neg (by simp)]; rfl
  | n + 1, a, x :: xs, s, hw, hm, hn => by
    have hne : 0 < (x :: xs).length := by simp
    generalize hb : (x :: xs) = bs at *
    have e : writeLines c p (n + 1) a bs s = writeLines c p n (a + (64 - a % 64)) (bs.drop (64 - a % 64)) (writeLine s c p a (bs.take (64 - a % 64))) := by
      rw [← hb]; rfl
    rw [e]
    have g1 := writeLine_good (s := s) c p a (bs.take (64 - a % 64)) hw (hm _ (Nat.le_refl _) (by omega)) (by rw [List.length_take]; omega)
    have g2 := writeLines_good c p n (a + (64 - a % 64)) (bs.drop (64 - a % 64)) (writeLine s c p a (bs.take (64 - a % 64)))
      (writeLine_wf c p a _ hw) (fun l h1 h2 => by
        rw [List.length_drop] at h2; rw [g1.2.1]; exact hm l (by omega) (by omega)) (by rw [List.length_drop]; omega)
    refine ⟨fun b => ?_, fun k => ?_, ?_⟩
    · rw [g2.1, g1.1, List.length_drop, List.length_take]
      by_cases h1 : a ≤ b ∧ b < a + bs.length
      · rw [if_pos h1]
        by_cases h2 : b < a + (64 - a % 64)
        · rw [if_neg (by omega), if_pos (by omega)]
          simp only [List.getD_eq_getElem?_getD, List.getElem?_take, if_pos (show b - a < 64 - a % 64 by omega)]
        · rw [if_pos (by omega)]
          simp only [List.getD_eq_getElem?_getD, List.getElem?_drop]
          rw [show 64 - a % 64 + (b - (a + (64 - a % 64))) = b - a by omega]
      · rw [if_neg h1, if_neg (by omega), if_neg (by omega)]
    · rw [g2.2.1, g1.2.1]
    · have k1 := g1.2.2
      have k2 := g2.2.2
      rw [← k2] at k1; exact k1

/-- A write of good lines that may be written lands whole (R256, R265). -/
theorem memWrite_writable {c : Class} {h : Hint} {a : Nat} {bs : Bytes} (hw : Memory.wf s = true) (hr : Writable s c a bs.length) :
    ∃ t, memWrite s c h a bs = (none, t) ∧ WroteGood s t a bs := by
  obtain ⟨h1, h2, h3⟩ := hr
  refine ⟨writeLines c h.policy (bs.length / 64 + 2) a bs s, ?_, ?_⟩
  · simp [memWrite, Nat.not_lt.mpr h1, h2]
  · by_cases hn : bs.length = 0
    · rw [List.length_eq_zero_iff] at hn
      subst hn
      exact ⟨fun b => by rw [if_neg (by simp)]; rfl, fun _ => rfl, rfl⟩
    · refine writeLines_good c h.policy _ a bs s hw (fun l hl1 hl2 => h3 l ?_) (by omega)
      rw [linesOf, if_neg hn, List.mem_map]
      exact ⟨l - a / 64, by rw [List.mem_range]; omega, by omega⟩

/-! Benches. -/

/-- A read of a good bench range gives its bytes and changes nothing (R267). -/
theorem benchRead_good {n o len : Nat} (h : BenchGood s n o len) : benchRead s n o len = (.ok (s.benchRaw n o len), s) := by
  have h2 : benchCorrect s n o len = s := by
    unfold benchCorrect
    have key : ∀ xs : List Nat, (∀ x ∈ xs, s.benchWord n x = .good) → xs.foldl (fun s x =>
        if s.benchWord n x = .correctable then
          { (s.bump 2 1).countHold .bncEccCnt n 0 32 32 1 with mem := { s.mem with benchErr := sset .good s.mem.benchErr (n * 393216 + x / 8) .good } }
        else s) s = s := by
      intro xs
      induction xs with
      | nil => intro _; rfl
      | cons x xs ih =>
        intro hx
        rw [List.foldl_cons, if_neg (by rw [hx x (by simp)]; decide)]
        exact ih fun y hy => hx y (by simp [hy])
    exact key _ h.2
  simp [benchRead, h.1, h2]

theorem foldl_zipIdx_byte : ∀ (bs : Bytes) (m : List Host.Cell) (k i b : Nat), swf 0 m = true →
    sget 0 ((bs.zipIdx i).foldl (fun m x => sset 0 m (k + x.2) x.1) m) b =
      if k + i ≤ b ∧ b < k + i + bs.length then bs.getD (b - (k + i)) 0 else sget 0 m b
  | [], m, k, i, b, _ => by
    have : ¬ (k + i ≤ b ∧ b < k + i + 0) := by omega
    simp only [List.zipIdx_nil, List.foldl_nil, List.length_nil, this, if_false]
  | x :: bs, m, k, i, b, h => by
    rw [List.zipIdx_cons, List.foldl_cons, foldl_zipIdx_byte bs _ k (i + 1) b (swf_sset 0 m _ x h)]
    by_cases h1 : k + i = b
    · subst h1
      have h2 : ¬ (k + (i + 1) ≤ k + i ∧ k + i < k + (i + 1) + bs.length) := by omega
      have h3 : k + i ≤ k + i ∧ k + i < k + i + (x :: bs).length := by simp
      rw [if_neg h2, if_pos h3, sget_sset_same 0 m _ x h]; simp
    · rw [sget_sset_other 0 m x h h1]
      by_cases h2 : k + (i + 1) ≤ b ∧ b < k + (i + 1) + bs.length
      · have h3 : k + i ≤ b ∧ b < k + i + (x :: bs).length := by simp only [List.length_cons]; omega
        rw [if_pos h2, if_pos h3, show b - (k + i) = (b - (k + (i + 1))) + 1 by omega]; simp
      · have h3 : ¬ (k + i ≤ b ∧ b < k + i + (x :: bs).length) := by simp only [List.length_cons]; omega
        rw [if_neg h2, if_neg h3]

/-- A write that covers no void sector in part is the bytes put and the sectors marked. -/
theorem benchWrite_whole {n o : Nat} {bs : Bytes} (hp : partVoid s n o bs.length = []) :
    benchWrite s n o bs = markSectors (benchPut s n o bs) n o bs.length .ordinary := by unfold benchWrite; rw [hp]; rfl

/-- Sectors that are not void are none of those that a write leaves in part. -/
theorem partVoid_nil {n o len : Nat} (h : ∀ x ∈ sectorsOf o len, s.sector n x ≠ .void) : partVoid s n o len = [] := by
  unfold partVoid
  rw [List.filter_eq_nil_iff]; intro x hx; simp [h x hx]

/-- A bench write puts its bytes at their place and leaves every other byte of every bench, where it covers no void sector in part. -/
theorem benchWrite_byte {n o : Nat} {bs : Bytes} (hp : partVoid s n o bs.length = []) (h : Memory.wf s = true) (m b : Nat) (hb : b < benchSize) (hl : o + bs.length ≤ benchSize) :
    (benchWrite s n o bs).benchByte m b = if m = n ∧ o ≤ b ∧ b < o + bs.length then bs.getD (b - o) 0 else s.benchByte m b := by
  have hw := ((Memory.wf_iff s).mp h).2.2.1
  have key := foldl_zipIdx_byte bs s.mem.bench (n * benchSize + o) 0 (m * benchSize + b) hw
  simp only [Nat.add_zero] at key
  have e : (benchWrite s n o bs).benchByte m b =
      sget 0 ((bs.zipIdx).foldl (fun m x => sset 0 m (n * benchSize + o + x.2) x.1) s.mem.bench) (m * benchSize + b) := by
    rw [benchWrite_whole hp]; unfold benchPut markSectors; dsimp only; split <;> rfl
  rw [e, key]
  by_cases hm : m = n
  · subst hm
    by_cases h1 : o ≤ b ∧ b < o + bs.length
    · have h2 : m * benchSize + o ≤ m * benchSize + b ∧ m * benchSize + b < m * benchSize + o + bs.length := by omega
      simp only [h1, h2, and_self, if_true]
      rw [show m * benchSize + b - (m * benchSize + o) = b - o by omega]
    · have h2 : ¬ (m * benchSize + o ≤ m * benchSize + b ∧ m * benchSize + b < m * benchSize + o + bs.length) := by omega
      simp only [h2, h1, and_false, if_false]; rfl
  · have h2 : ¬ (n * benchSize + o ≤ m * benchSize + b ∧ m * benchSize + b < n * benchSize + o + bs.length) := by
      rcases Nat.lt_or_gt_of_ne hm with h3 | h3
      · have := Nat.mul_le_mul_right benchSize (show m + 1 ≤ n from h3); rw [Nat.add_mul] at this; omega
      · have := Nat.mul_le_mul_right benchSize (show n + 1 ≤ m from h3); rw [Nat.add_mul] at this; omega
    simp only [h2, hm, false_and, if_false]; rfl

/-- A bench write that corrects no word leaves the registers and the management die. -/
theorem benchWrite_uncorrected {n o : Nat} {bs : Bytes} (hp : partVoid s n o bs.length = []) (h : ∀ x ∈ benchWordsOf o bs.length, s.benchWord n x ≠ .correctable) :
    (benchWrite s n o bs).regs = s.regs ∧ (benchWrite s n o bs).m = s.m := by
  have e : ((benchWordsOf o bs.length).filter fun x =>
      !decide (o ≤ x ∧ x + 8 ≤ o + bs.length) && s.benchWord n x == .correctable) = [] := by
    rw [List.filter_eq_nil_iff]; intro x hx; simp [h x hx]
  rw [benchWrite_whole hp]; unfold benchPut markSectors
  dsimp only; rw [e]; exact ⟨rfl, rfl⟩

/-- A void sector's fresh bytes change the benches and the number of free values drawn. -/
theorem foldl_freshSector (n : Nat) : ∀ (xs : List Nat) (s : State), ∃ k b,
    xs.foldl (freshSector n) s = { s with freeCount := k, mem := { s.mem with bench := b } }
  | [], s => ⟨s.freeCount, s.mem.bench, rfl⟩
  | x :: xs, s => by
    obtain ⟨k, h⟩ := freeBytes_snd 32 s
    obtain ⟨k2, b, h2⟩ := foldl_freshSector n xs (freshSector n s x)
    refine ⟨k2, b, ?_⟩
    rw [List.foldl_cons, h2]
    unfold freshSector
    dsimp only
    rw [h]

/-- A bench write leaves the module outside the memory, the registers, the management die and the free values. -/
theorem benchWrite_kept (n o : Nat) (bs : Bytes) :
    (benchWrite s n o bs).mem.hbm = s.mem.hbm ∧ (benchWrite s n o bs).sdl = s.sdl ∧ (benchWrite s n o bs).vec = s.vec
      ∧ (benchWrite s n o bs).d = s.d ∧ (benchWrite s n o bs).h = s.h := by
  obtain ⟨k, b, h⟩ := foldl_freshSector n (partVoid s n o bs.length) s
  unfold benchWrite; rw [h]; unfold benchPut markSectors
  dsimp only; split <;> exact ⟨rfl, rfl, rfl, rfl, rfl⟩

end Sys2Proof.Machine
end

