-- ==== Sys2Proof/Laws/Omcp.lean ====
section
/-! SUPPORT. The OMCP receive path: what a request that the checks of Table 12-3 pass does, and what one that they turn
away leaves alone. -/

namespace Sys2Proof.Machine

/-- A port's session after it is set. -/
@[simp] theorem session_setSession (s : State) (a : Fin 2) (x : Option Session) : (s.setSession a x).session a = x := by
  unfold State.session State.setSession HostSide.setPort HostSide.port
  split <;> simp [*]

/-- Setting one port's session leaves the other port's alone. -/
theorem session_setSession_other (s : State) {a b : Fin 2} (x : Option Session) (h : a ≠ b) :
    (s.setSession a x).session b = s.session b := by
  unfold State.session State.setSession HostSide.setPort HostSide.port
  have ha : a = 0 ∧ b = 1 ∨ a = 1 ∧ b = 0 := by omega
  rcases ha with ⟨rfl, rfl⟩ | ⟨rfl, rfl⟩ <;> simp

@[simp] theorem setSession_buckle (s : State) (a : Fin 2) (x : Option Session) : (s.setSession a x).h.buckle = s.h.buckle := by
  unfold State.setSession HostSide.setPort; split <;> rfl
@[simp] theorem setSession_tickets (s : State) (a : Fin 2) (x : Option Session) : (s.setSession a x).h.tickets = s.h.tickets := by
  unfold State.setSession HostSide.setPort; split <;> rfl
@[simp] theorem setSession_nextTicket (s : State) (a : Fin 2) (x : Option Session) :
    (s.setSession a x).h.nextTicket = s.h.nextTicket := by
  unfold State.setSession HostSide.setPort; split <;> rfl
@[simp] theorem setSession_streams (s : State) (a : Fin 2) (x : Option Session) : (s.setSession a x).h.streams = s.h.streams := by
  unfold State.setSession HostSide.setPort; split <;> rfl
@[simp] theorem setSession_log (s : State) (a : Fin 2) (x : Option Session) : (s.setSession a x).h.log = s.h.log := by
  unfold State.setSession HostSide.setPort; split <;> rfl
@[simp] theorem setSession_logHead (s : State) (a : Fin 2) (x : Option Session) : (s.setSession a x).h.logHead = s.h.logHead := by
  unfold State.setSession HostSide.setPort; split <;> rfl

/-- A request that the checks accept runs: its own effect follows, on a state in which its session has been heard. -/
theorem omcp_accepts {s : State} {q : Req} {code : Nat} (row : String) (c : Instr) (echo : Bytes) (body : State → Res)
    (h : accepts s q code = true) :
    ∃ x, s.session q.port = some x ∧ q.session = x.id ∧ q.ver = x.ver ∧
      omcp row c s q code true echo body = .next (runRequest (touchSession s q.port x) q code body) := by
  unfold accepts at h
  simp only [Bool.and_eq_true] at h
  obtain ⟨⟨hp, hl⟩, h⟩ := h
  split at h
  · rename_i x o hx ho
    simp only [Bool.and_eq_true, beq_iff_eq, Bool.not_eq_true'] at h hl
    obtain ⟨⟨⟨⟨⟨⟨⟨hv, hs⟩, hk⟩, hh⟩, h31⟩, hst⟩, hb⟩, hw⟩ := h
    refine ⟨x, hx, hs, hv, ?_⟩
    have hf : (x.kept.find? fun k : Kept => decide (k.seq = q.seq)) = none := by
      rw [List.find?_eq_none]
      intro k hk1
      have := List.any_eq_false.mp hk k hk1
      simpa using this
    have hlate : lateRefusal (touchSession s q.port x) q x code true = none := by
      unfold lateRefusal
      rw [ho]
      have h1 : ¬ (code = 0x31 ∧ x.ver.toNat < 2) := by
        rintro ⟨rfl, h2⟩
        simp at h31
        omega
      have h2 : opAllowed (touchSession s q.port x).m.st o = true := hst
      have h3 : ¬ (o.buckle = true ∧ (touchSession s q.port x).h.buckle.holder ≠ some (q.port, q.session)) := by
        rintro ⟨h4, h5⟩
        unfold touchSession at h5
        rw [setSession_buckle] at h5
        simp [h4] at hb
        exact h5 hb
      simp only [h1, h2, h3, not_true, if_false]
    have hw2 : requestWaits (touchSession s q.port x) q.port = false := hw
    unfold omcp omcpWait lapse
    simp [hp, hl, hx, hv, hs, hf, hh, hlate, hw2]
  · simp at h

/-- Setting the session of a port leaves the rest of the host side. -/
theorem setSession_kept (s : State) (a : Fin 2) (x : Option Session) : HostKeptBut a s (s.setSession a x) := by
  refine ⟨?_, by simp, by simp, by simp, by simp, ?_, by simp, by simp⟩
  · intro b hb
    unfold State.setSession HostSide.setPort HostSide.port
    have h : a = 0 ∧ b = 1 ∨ a = 1 ∧ b = 0 := by omega
    rcases h with ⟨rfl, rfl⟩ | ⟨rfl, rfl⟩ <;> simp
  · unfold State.setSession HostSide.setPort; split <;> rfl

theorem HostKeptBut.trans {a : Fin 2} {s t u : State} (h1 : HostKeptBut a s t) (h2 : HostKeptBut a t u) : HostKeptBut a s u :=
  ⟨fun b hb => (h2.1 b hb).trans (h1.1 b hb), h2.2.1.trans h1.2.1, h2.2.2.1.trans h1.2.2.1, h2.2.2.2.1.trans h1.2.2.2.1,
    h2.2.2.2.2.1.trans h1.2.2.2.2.1, h2.2.2.2.2.2.1.trans h1.2.2.2.2.2.1, h2.2.2.2.2.2.2.1.trans h1.2.2.2.2.2.2.1,
    h2.2.2.2.2.2.2.2.trans h1.2.2.2.2.2.2.2⟩

theorem HostKeptBut.refl (a : Fin 2) (s : State) : HostKeptBut a s s := ⟨fun _ _ => rfl, rfl, rfl, rfl, rfl, rfl, rfl, rfl⟩

/-- What follows a command's own effect when its reply is kept: the session of its port alone changes. -/
def keepReply (s : State) (a : Fin 2) (sid : BitVec 16) (f : Session → Session) : State :=
  match s.session a with
  | some x => if x.id = sid then s.setSession a (some (f x)) else s
  | none => s

/-- Only the session of the port changes. -/
theorem keepReply_spec (s : State) (a : Fin 2) (sid : BitVec 16) (f : Session → Session) :
    HostKeptBut a s (keepReply s a sid f) ∧ DatapathKept s (keepReply s a sid f) ∧ ModuleKept s (keepReply s a sid f)
      ∧ (keepReply s a sid f).regs = s.regs ∧ (keepReply s a sid f).sent = s.sent
      ∧ ((keepReply s a sid f).session a).isSome = (s.session a).isSome := by
  unfold keepReply
  split
  · split
    · exact ⟨setSession_kept s a _, ⟨rfl, rfl, rfl, rfl, rfl, rfl, rfl⟩, ⟨rfl, rfl, rfl, rfl, rfl, rfl, rfl⟩, rfl, rfl, by simp [*]⟩
    · exact ⟨.refl a s, ⟨rfl, rfl, rfl, rfl, rfl, rfl, rfl⟩, ⟨rfl, rfl, rfl, rfl, rfl, rfl, rfl⟩, rfl, rfl, rfl⟩
  · exact ⟨.refl a s, ⟨rfl, rfl, rfl, rfl, rfl, rfl, rfl⟩, ⟨rfl, rfl, rfl, rfl, rfl, rfl, rfl⟩, rfl, rfl, rfl⟩

/-- A request's own effect, then its reply on the list of what was sent, then the reply kept, then what follows it. -/
theorem runRequest_spec (s : State) (q : Req) (code : Nat) (body : State → Res) (x : Session) (hx : s.session q.port = some x)
    (hq : (body s).quiet = false) :
    runRequest s q code body =
      let pkt := replyPacket (body s).st x.ver x.id code q.seq (body s)
      (body s).after (keepReply ((body s).st.sendOmcp q.port (replyTo s q) pkt) q.port x.id
        fun y => recordReply y q.seq (if isIngress code then none else some ⟨q.seq, pkt, replyTo s q⟩)) := by
  unfold runRequest keepReply
  simp only [hx, hq]
  rfl

/-- A reply's destination is the same once its session has been heard from. -/
theorem replyTo_touchSession (s : State) (q : Req) (x : Session) (hx : s.session q.port = some x) :
    replyTo (touchSession s q.port x) q = replyTo s q := by
  have h : (ownNow s q.port x.peer).tag = x.peer.tag := by unfold ownNow; split <;> rfl
  unfold replyTo touchSession
  rw [session_setSession, hx]
  simp only [h]

/-- Hearing from a session changes nothing but its record of when. -/
theorem touchSession_kept (s : State) (a : Fin 2) (x : Session) :
    HostKeptBut a s (touchSession s a x) ∧ DatapathKept s (touchSession s a x) ∧ ModuleKept s (touchSession s a x)
      ∧ (touchSession s a x).regs = s.regs ∧ (touchSession s a x).sent = s.sent
      ∧ (touchSession s a x).session a = some { x with last := s.time, peer := ownNow s a x.peer } :=
  ⟨setSession_kept s a _, ⟨rfl, rfl, rfl, rfl, rfl, rfl, rfl⟩, ⟨rfl, rfl, rfl, rfl, rfl, rfl, rfl⟩, rfl, rfl, session_setSession s a _⟩

/-- An accepted request is answered: after its own effect `r` the reply is sent, only the session of the port changes
further, and what follows the reply runs last. -/
theorem omcp_answers {s : State} {q : Req} {code : Nat} (row : String) (c : Instr) (echo : Bytes) (body : State → Res)
    (h : accepts s q code = true) :
    ∃ x, s.session q.port = some x ∧ q.session = x.id ∧ q.ver = x.ver ∧
      ∀ r, body (touchSession s q.port x) = r → r.quiet = false →
        ∃ u, omcp row c s q code true echo body = .next (r.after u) ∧ u.regs = r.st.regs ∧ DatapathKept r.st u
          ∧ ModuleKept r.st u ∧ HostKeptBut q.port r.st u ∧ (u.session q.port).isSome = (r.st.session q.port).isSome
          ∧ u.sent = .omcp q.port (replyTo s q) (ipv4Fragment (replyTo s q)) (replyPacket r.st x.ver x.id code q.seq r) :: r.st.sent := by
  obtain ⟨x, hx, hs, hv, he⟩ := omcp_accepts row c echo body h
  refine ⟨x, hx, hs, hv, fun r hr hq => ?_⟩
  subst hr
  have hx2 : (touchSession s q.port x).session q.port =
      some { x with last := s.time, peer := ownNow s q.port x.peer } := session_setSession s q.port _
  rw [runRequest_spec _ q code body _ hx2 hq, replyTo_touchSession s q x hx] at he
  refine ⟨_, he, ?_⟩
  obtain ⟨k1, k2, k3, k4, k5, k6⟩ := keepReply_spec ((body (touchSession s q.port x)).st.sendOmcp
    q.port (replyTo s q) (replyPacket (body (touchSession s q.port x)).st x.ver x.id code q.seq (body (touchSession s q.port x))))
    q.port x.id (fun y => recordReply y q.seq (if isIngress code then none else
      some ⟨q.seq, replyPacket (body (touchSession s q.port x)).st x.ver x.id code q.seq (body (touchSession s q.port x)), replyTo s q⟩))
  exact ⟨k4, k2, k3, k1, k6, k5⟩

end Sys2Proof.Machine
end

