-- ==== Sys2Proof/Tests/Slice0.lean ====
section
/-! SUPPORT. Tests of the model, each of one command on a small state with its expected result from the spec, and for every
statement witnesses: states that meet its hypotheses, clause by clause. -/

namespace Sys2Proof.Tests
set_option Elab.async false
open Sys2Proof.Machine

/-! Helpers. -/

/-- A host, its requests, and the states most commands need. -/
def peer : NetAddr := ⟨none, .udp4, 0x0A1B2C3D4E5F, 0xC0A80002, 41000, 0xC0A80001, 0x12AE⟩
def req : Req := ⟨0, peer, 2, 1, 7, true, false⟩
def ses : Session := { id := 1, ver := 2, peer := peer, last := 0 }

/-- Link A is up, with an IPv4 address. -/
def linked : State := (State.reset.setReg .ethPortStat 0 0 3).setReg .ethIp4 0 0 0xC0A80001

/-- A running module: a session of version 2 on port A that holds the buckle for 20 s. -/
def host : State :=
  { linked with
    m := { linked.m with supplied := true, st := .running }
    h := { portA := { lastSid := 1, session := some ses }, buckle := { holder := some (0, 1), expiry := 20000000000 } } }

/-- CFG_ROLE with its companion. -/
def withRole (s : State) (v : Word) : State := (s.setReg .cfgRole 0 0 v).setReg .cfgRoleInv 0 0 (~~~v &&& 0x1FFFFFFFFF)
/-- The same, with the buckle as given. -/
def hostB (b : Buckle) : State := { host with h := { host.h with buckle := b } }

/-- The state a command leads to; the state itself where it leads to none. -/
def after (c : Instr) (s : State) : State :=
  match exec c s with
  | .next t => t
  | _ => s

/-- The last reply: status and payload. -/
def reply (s : State) : Option (Nat × Bytes) :=
  match s.sent with
  | .omcp _ _ _ p :: _ => some (p.status.toNat, p.payload)
  | _ => none

/-- A fact about each value of a list, found by running through the list. -/
theorem each {α : Type} {p : α → Prop} {l : List α} [DecidablePred p] (h : (l.all fun x : α => decide (p x)) = true) : ∀ x ∈ l, p x :=
  fun x hx => of_decide_eq_true (List.all_eq_true.mp h x hx)

def status (s : State) : Option Nat := (reply s).map Prod.fst

def frame0 (n : Nat) : Frame := ⟨place 48 7 n, 0, ~~~0, 0, ~~~0, 0, 0, 0, List.replicate (64 * n) 0⟩

/-! The command queue. -/

theorem test_step_takes_front : (match step { host with pending := [.bklQuery req, .bye req] } with
    | .next t => t.pending == [.bye req] | _ => false) = true := by decide +kernel

theorem test_idle_time : (match step host with | .next t => t.time == 1 && t.pending == [] | _ => false) = true := by decide +kernel

/-! Well-formedness: each check refuses a term. -/

theorem smoke_addr_raw : wellFormed (.arpRequest 0 1 { peer with form := .raw }) = false := by decide +kernel
theorem smoke_addr_udp4 : wellFormed (.neighborSolicitation 0 1 { peer with ip := 2 ^ 32 }) = false := by decide +kernel
theorem smoke_addr_echo : wellFormed (.echoRequest 0 1 [] { peer with form := .raw }) = false := by decide +kernel
theorem smoke_addr_omcp : wellFormed (.omcpPacketReject 0 [] { peer with form := .raw }) = false := by decide +kernel
theorem smoke_tags : wellFormed (.ethFrameDiscard 0 [1, 2, 3] .plain) = false := by decide +kernel
theorem smoke_data : wellFormed (.memWrite req 0 (List.replicate 16384 0)) = false := by decide +kernel
theorem smoke_data_src : wellFormed (.cfgLoad { req with src := { peer with form := .raw } } 0 []) = false := by decide +kernel
theorem smoke_fw : wellFormed (.fwUpdateWrite req 0 (List.replicate 16376 0)) = false := by decide +kernel
theorem smoke_put : wellFormed (.dataPut req 0 0 0 0 0 (List.replicate 16320 0)) = false := by decide +kernel
theorem smoke_multi : wellFormed (.dataPutMulti req 0 0 (List.replicate 16368 0)) = false := by decide +kernel
theorem smoke_restore : wellFormed (.brcRestore req [0]) = false := by decide +kernel
theorem smoke_takeover : wellFormed (.brcTakeover req [0]) = false := by decide +kernel
theorem smoke_snapshot : wellFormed (.dspSnapshot req 0 (List.replicate 2047 0)) = false := by decide +kernel
theorem smoke_frame : wellFormed (.dataFrameReceived 0 { frame0 1 with payload := [] }) = false := by decide +kernel
theorem smoke_forward : wellFormed (.frameForward 0 (some { frame0 1 with payload := [] })) = false := by decide +kernel
theorem smoke_rails : wellFormed (.railSample [1]) = false := by decide +kernel
theorem smoke_junctions : wellFormed (.junctionSample []) = false := by decide +kernel
theorem smoke_hbm : wellFormed (.hbmTempRead []) = false := by decide +kernel
theorem smoke_good : wellFormed (.memWrite req 0 (List.replicate 64 0)) = true := by decide +kernel

/-! Host ports (12). -/

/-- R455: a HELLO at version 2 in a running module opens session 1 on an empty port. -/
theorem test_hello : (let t := after (.hello { req with session := 0 } 1 2 5) { host with h := {} }
    ((t.session 0).map fun x => (x.id, x.ver)) = some (1, 2) ∧ status t = some 0) := by decide +kernel

/-- Table 12-8: B's BKL_ACQUIRE meets BUCKLE_HELD, and takes the buckle once it has expired. -/
theorem test_buckle_handover :
    let s : State := { hostB { holder := some (1, 9), expiry := 5 } with time := 5 }
    status (after (.bklAcquire req 20000) s) = some 0x0201
    ∧ (let t := after .bklExpired s
      t.h.buckle.holder = none ∧ t.h.log.length = 1 ∧ status (after (.bklAcquire req 20000) t) = some 0
        ∧ (after (.bklAcquire req 20000) t).h.buckle.holder = some (0, 1)) := by decide +kernel

/-- R464: a renewal is from now, in ms. -/
theorem test_renew : (after (.bklRenew req 20000) host).h.buckle.expiry = 20000000000 := by decide +kernel
theorem test_query : (reply (after (.bklQuery req) host)) = some (0, wordBytes (place 48 16 1 ||| 20000)) := by decide +kernel

/-- R544: an unaligned address is no register; R543: OMC_BKL_LEASE reads its reset value. -/
theorem test_reg_read : status (after (.regRead req 4 1) host) = some 0x0303 := by decide +kernel
theorem test_reg_write_stores :
    let a := BitVec.ofNat 32 (regAddr .omcBklLease 0 0)
    (after (.regWrite req a 5000) host).reg .omcBklLease 0 0 = 5000
      ∧ reply (after (.regRead { req with seq := 8 } a 1) (after (.regWrite req a 5000) host)) = some (0, wordBytes 5000) := by decide +kernel

/-- R469: what MEM_WRITE wrote, MEM_READ returns. -/
theorem test_mem_write : (after (.memWrite req 64 (List.replicate 64 0xA5)) host).byte 127 = 0xA5 := by decide +kernel
theorem test_mem_read : reply (after (.memRead req 64 64) { host with mem := { hbm := [(64, 7)] } })
    = some (0, 7 :: List.replicate 63 0) := by decide +kernel

theorem test_event_read : reply (after (.eventRead req 0 1) host) = some (0, []) := by decide +kernel
theorem test_cmd_status_unknown : status (after (.cmdStatus req 3) host) = some 0x0107 := by decide +kernel
theorem test_notify : (after (.notifySub req 0x10) host).reg .omcEventSub 0 0 = 0x10 := by decide +kernel
theorem test_bye : (after (.bye req) host).session 0 = none ∧ (after (.bye req) host).h.buckle.holder = some (0, 1) := by decide +kernel

/-! Witnesses: RefusedRequestsHaveNoEffect, HelloOpensASession. -/

theorem wit_refused_closed : hostRequest (.bye req) = some (req, 0x02) ∧ portTakes linked 0 peer = true ∧ linked.session 0 = none := by
  decide +kernel
theorem wit_refused_ver : omcpTakes host 0 peer = true ∧ host.session 0 = some ses ∧ (1 : BitVec 4) ≠ ses.ver := by decide +kernel
theorem wit_refused_sid : host.session 0 = some ses ∧ req.ver = ses.ver ∧ (2 : BitVec 16) ≠ ses.id := by decide +kernel
def kept7 : Kept := ⟨7, ⟨2, 1, 0, 2, 0, 1, 7, 0, 0, []⟩, peer⟩
def hostK : State := { host with h := { host.h with portA := { lastSid := 1, session := some { ses with kept := [kept7], high := some 100 } } } }
theorem wit_refused_kept : omcpTakes hostK 0 peer = true
    ∧ ([kept7].find? fun k : Kept => k.seq = req.seq) = some kept7 := by decide +kernel
theorem wit_refused_old : omcpTakes hostK 0 peer = true ∧ (∀ k ∈ [kept7], k.seq ≠ 36)
    ∧ seqBelow (100 : BitVec 32) 36 = 64 := by decide +kernel
theorem wit_refused_buckle : (opInfo 0x21).isSome = true ∧ ((opInfo 0x21).map fun o => o.buckle) = some true
    ∧ (hostB {}).h.buckle.holder ≠ some (req.port, req.session) := by decide +kernel
theorem wit_refused_state : ((opInfo 0x22).map fun o => opAllowed .waitHost o) = some false := by decide +kernel

theorem wit_hello_open : omcpTakes { host with h := {} } 0 peer = true ∧ host.m.st ≠ .boot ∧ max (0 : BitVec 4).toNat 1 ≤ min (1 : BitVec 4).toNat 2
    ∧ ({ host with h := {} } : State).session 0 = none := by decide +kernel
theorem wit_hello_idle : sessionIdle { host with time := 30000000000 } ses = true ∧ sessionIdle host ses = false := by decide +kernel
theorem wit_hello_version : min (0 : BitVec 4).toNat 2 < max (0 : BitVec 4).toNat 1 ∧ min (15 : BitVec 4).toNat 2 < max (3 : BitVec 4).toNat 1 := by
  decide +kernel

/-! Witnesses: SessionCommandsComplete, the buckle. -/

theorem wit_session_accepts : Memory.wf host = true ∧ Lists.wf host = true
    ∧ ∀ c ∈ [0x02, 0x03, 0x04, 0x10, 0x11, 0x12, 0x13, 0x20, 0x21, 0x22, 0x23, 0x24, 0x30, 0x31, 0x32, 0x33, 0x34, 0x40, 0x41, 0x42,
        0x43, 0x44, 0x50, 0x51, 0x52, 0x53, 0x60, 0x61, 0x70, 0x71, 0x72, 0x73, 0x80, 0x81, 0x90, 0x91],
      accepts host req c = true := by decide +kernel
def tk (n : Nat) : Ticket := ⟨BitVec.ofNat 32 n, 0x60, 1, false, 1, 0, 0⟩
def hostT : State := { host with h := { host.h with tickets := [tk 1], nextTicket := 257 } }
theorem wit_cmd_status : accepts hostT req 0x03 = true ∧ hostT.ticket 1 = some (tk 1) ∧ (hostT.h.nextTicket - 1).toNat = 256 := by
  decide +kernel
theorem wit_cmd_status_old : host.ticket 1 = none ∧ 256 < ((300 : BitVec 32) - 1).toNat := by decide +kernel
theorem wit_event_read : (1 : BitVec 8).toNat = 1 ∧ (128 : BitVec 8).toNat = 128 := by decide +kernel
theorem wit_bkl_free : accepts (hostB {}) req 0x10 = true ∧ leaseMs (hostB {}) 600000 = some 600000 ∧ (hostB {}).h.buckle.holder = none := by
  decide +kernel
theorem wit_bkl_held : accepts (hostB { holder := some (1, 1) }) req 0x10 = true ∧ leaseMs host 1 = some 1
    ∧ ((1 : Fin 2), (1 : BitVec 16)) ≠ (req.port, req.session) := by decide +kernel
theorem wit_bkl_not_holder : accepts (hostB {}) req 0x11 = true ∧ accepts (hostB {}) req 0x12 = true
    ∧ (hostB {}).h.buckle.holder ≠ some (req.port, req.session) := by decide +kernel
theorem wit_bkl_lapsed : accepts (hostB { lapsed := some (0, 1, 0) }) req 0x11 = true
    ∧ (hostB { lapsed := some (0, 1, 0) }).h.buckle.lapsed = some (req.port, req.session, host.time) := by decide +kernel
theorem wit_bkl_release : host.h.buckle.holder = some (req.port, req.session) ∧ host.h.buckle.pins = [] := by decide +kernel
theorem wit_bkl_reset : ({ host with m := { host.m with delayed := [(.module, 0)] } } : State).m.delayed = [(.module, 0)]
    ∧ hardRepair { host with m := { host.m with delayed := [(.module, 0)] } } = false := by decide +kernel
theorem wit_lease : 1 ≤ host.fld .omcBklLease 0 0 0 32 ∧ host.fld .omcBklLease 0 0 0 32 ≤ 600000
    ∧ 600000 < (600001 : BitVec 32).toNat := by decide +kernel
def hostP (ps : List (BitVec 32)) : State := hostB { holder := some (0, 1), expiry := 10, pins := ps }
theorem wit_pins : accepts (hostP [4]) req 0x12 = true ∧ (hostP [4]).h.buckle.pins = [4] ∧ (hostP [4]).time.toNat < (hostP [4]).h.buckle.expiry.toNat
    ∧ (hostP [4, 5]).h.buckle.pins = [4, 5] := by decide +kernel
theorem wit_pins_lapsed : ({ hostP [4] with time := 10 } : State).h.buckle.expiry.toNat ≤ ({ hostP [4] with time := 10 } : State).time.toNat := by
  decide +kernel

/-! Witnesses: registers and memory. -/

theorem wit_reg_read : (host.m.st = .fwRecovery → recoveryReads 0 1 = true)
    ∧ (regAddr .omcCtrl 0 0) % 8 = 0 ∧ regFind (regAddr .omcCtrl 0 0) = some (.omcCtrl, 0, 0) := by decide +kernel
theorem wit_reg_none : (4 : BitVec 32).toNat % 8 ≠ 0 ∧ regFind 0xFFFFFFF8 = none := by decide +kernel
theorem wit_reg_write : saddleAway host (regAddr .omcBklLease 0 0) = false
    ∧ writeWord .omcBklLease false (host.reg .omcBklLease 0 0) 5000 = (5000, false) := by decide +kernel
theorem wit_reg_locked : (writeWord .cfgRole true (State.reset.reg .cfgRole 0 0) 0).2 = true := by decide +kernel
theorem wit_reg_away : (regAddr .sdlCtrl 0 0) % 8 = 0 ∧ saddleAway host (regAddr .sdlCtrl 0 0) = true := by decide +kernel
theorem wit_rwl : ∃ f ∈ regFields .cfgRole, f.acc = .rwl := by decide +kernel
theorem wit_mem_read : 64 + 8192 ≤ 2 ^ 40 ∧ denied host .egress false 64 8192 = none ∧ (∀ l ∈ linesOf 64 8192, host.lineMeta l = {}) := by
  decide +kernel
theorem wit_mem_range : 2 ^ 40 < (2 ^ 40 - 64) + 128 := by decide
/-- Region 0 covers page 1 and grants nothing. -/
def guarded : State := ((host.setReg .hbmProtBase 0 0 0x1000).setReg .hbmProtLimit 0 0 0x1000).setReg .hbmProtPerm 0 0 0x8000
theorem wit_mem_denied : Memory.wf guarded = true ∧ denied guarded .egress false 0x1FC0 64 = some (0x1FC0, 0)
    ∧ denied guarded .ingress true 0x1000 64 = some (0x1000, 0) ∧ denied guarded .upd false 0x1000 128 = some (0x1000, 0) := by decide +kernel
theorem wit_mem_write : denied host .ingress true 0 64 = none := by decide +kernel

/-! Witnesses and tests: ingress (10.2), egress (12.8), the Ethernet ports. -/

/-- Role 0; four positions of 64-byte records in each step, D = 1; steps start at 1 and positions at 100. -/
def fed : State :=
  ((((withRole host 0).setReg .brcCtrl 0 0 (place 0 36 4 ||| place 36 24 64)).setReg .cfgStartStep 0 0 1).setPair .brcPos0 .brcPos0Inv 0 100).setPair
    .brcLastReleased .brcLastReleasedInv 0 0

def rec64 (b : Byte) : Bytes := List.replicate 64 b

theorem wit_put : accepts fed req 0x30 = true ∧ Memory.wf fed = true ∧ recordFragBytes fed 0 = some 64
    ∧ recordRefusal fed 1 (~~~1) 103 (~~~103) = none ∧ denied fed .ingress true (recordAddr fed 1 3 0) 64 = none
    ∧ ∀ l ∈ linesOf (recordAddr fed 1 3 0) 64, fed.lineMeta l = {} := by decide +kernel
/-- Table 10-1, row by row. -/
theorem wit_put_refused : recordRefusal fed 1 1 100 (~~~100) = some 0x0402 ∧ recordRefusal fed 1 (~~~1) 104 (~~~104) = some 0x0404
    ∧ recordRefusal fed 1 (~~~1) 99 (~~~99) = some 0x0404 ∧ recordRefusal fed 2 (~~~2) 104 (~~~104) = some 0x0401
    ∧ recordRefusal fed 0 (~~~0) 96 (~~~96) = some 0x0405
    ∧ recordRefusal (withRole fed 0xFFF) 1 (~~~1) 103 (~~~103) = some 0x0403 := by decide +kernel
theorem test_put : (let t := after (.dataPut { req with replyReq := false } 1 (~~~1) 103 (~~~103) 0 (rec64 9)) fed
    t.byte 63 = 9 ∧ t.sent = [] ∧ inputsComplete t 1 = false) := by decide +kernel
/-- R31: the four positions of step 1 complete it. -/
theorem test_put_complete : ([100, 101, 102, 103].foldl (fun s p =>
    (putFragment s 1 (~~~1) p (~~~p) 0 (rec64 1)).2) fed |> (inputsComplete · 1)) = true := by decide +kernel
def entry (p : Word) (b : Byte) : Bytes := wordBytes p ++ wordBytes (~~~p) ++ rec64 b
theorem wit_multi : accepts fed req 0x31 = true ∧ multiFits fed (entry 100 1 ++ entry 101 2).length = true
    ∧ multiFits fed (entry 100 1).length = true ∧ (rec64 1).length = recBytes fed
    ∧ recordRefusal fed 1 (~~~1) 100 (~~~100) = none := by decide +kernel
theorem test_multi : reply (after (.dataPutMulti req 1 (~~~1) (entry 100 1 ++ entry 104 2)) fed)
    = some (0, leBytes 2 0 ++ leBytes 2 0x0404) := by decide +kernel

/-- An egress destination with a stream of three bytes. -/
def flow : Egress := ⟨1, [1, 2, 3], false, .attest 1, [⟨0, 0, 100, 0, false⟩], 0⟩
def flowing : State := { host with h := { host.h with
  portA := { lastSid := 1, session := some { ses with egress := some 100 } }, streams := [flow] } }
theorem wit_egress_open : accepts host req 0x32 = true ∧ (16777216 : BitVec 25).toNat ≤ 16777216 := by decide +kernel
theorem wit_egress_close : accepts flowing req 0x34 = true := by decide +kernel
theorem wit_credit : accepts flowing req 0x33 = true ∧ (100 - 2 : Word).toNat ≤ 16777216 ∧ flowing.stream 1 = some flow
    ∧ flow.subs[0]? = some ⟨0, 0, 100, 0, false⟩ ∧ (2 : Word).toNat < subTotal flow 0 := by decide +kernel
theorem wit_egress_send : flowing.stream 1 = some flow ∧ flowing.session 0 = some { ses with egress := some 100 }
    ∧ linkUp flowing 0 = true ∧ nextLen flow 0 ⟨0, 0, 100, 0, false⟩ = 3 := by decide +kernel
theorem test_egress_open : (after (.egressOpen req 64) host |>.session 0 |>.bind (·.egress)) = some 64 := by decide +kernel
/-- R471: 8-byte stream number, 8-byte offset, the data; LAST. -/
theorem test_egress_send : (match (after (.egressSend 1 0) flowing).sent with
    | .omcp _ _ _ p :: _ => some (p.payload, p.flags) | _ => none) = some (wordsBytes [1, 0] ++ [1, 2, 3], 4) := by decide +kernel
/-- R470: with two destinations, mebibytes alternate. -/
theorem test_sub_offset : let e := { flow with subs := [⟨0, 0, 0, 0, false⟩, ⟨1, 0, 0, 0, false⟩] }
    subOffset e 0 1048576 = 2 * 1048576 ∧ subOffset e 1 5 = 1048576 + 5 := by decide +kernel
theorem test_credit_back : (creditSub ⟨0, 5, 100, 9, false⟩ 10 7 90 true) = ⟨0, 7, 90, 7, false⟩ := by decide +kernel
theorem test_egress_failed : (after (.egressFailed 1) flowing).stream 1 = none := by decide +kernel

def running77 : State := { State.reset with m := { st := .running, supplied := true, domains := [(77, { st := .on })] } }
theorem wit_eth_up : Memory.wf running77 = true ∧ running77.domainOn 77 = true ∧ linkUp running77 0 = false ∧ linkUp host 0 = true := by
  decide +kernel
theorem test_eth_up : (after (.ethLinkUp 0 true) running77).fld .ethPortStat 0 0 0 8 = 0b101 := by decide +kernel
theorem test_eth_down : linkUp (after (.ethLinkDown 0) host) 0 = false := by decide +kernel
theorem wit_discard : tagsAccepted host 0 [5] = false ∧ tagsAccepted host 0 [] = true ∧ FrameOddity.ipv4Options ≠ FrameOddity.plain := by decide +kernel
theorem test_discard : (after (.ethFrameDiscard 0 [5] .plain) host).fld .ethCnt 0 0 0 32 = 1 := by decide +kernel
def ip4Host : State := host.setReg .ethIp4 0 0 0xC0A80001
theorem wit_arp : portTakes ip4Host 0 peer = true ∧ BitVec.setWidth 32 (ip4Host.reg .ethIp4 0 0) = 0xC0A80001 := by decide +kernel
theorem test_arp : (after (.arpRequest 0 0xC0A80001 peer) ip4Host).sent.length = 1
    ∧ (after (.arpRequest 0 0xC0A80009 peer) ip4Host).sent.length = 0 := by decide +kernel
/-- R453: the modified EUI-64 of 02:00:00:00:00:01 is 0000:00ff:fe00:0001. -/
theorem test_link_local : linkLocal 0x020000000001 = 0xFE80000000000000000000FFFE000001 := by decide +kernel
theorem test_solicit : (after (.neighborSolicitation 0 (linkLocal (host.reg .ethMac 0 0).toNat) { peer with form := .udp6 }) host).sent.length = 1 := by
  decide +kernel
def echoed (n : Nat) : State := { ip4Host with h := { ip4Host.h with portA := { ip4Host.h.portA with echoes := n } } }
theorem wit_echo : portTakes ip4Host 0 peer = true ∧ ownAddress ip4Host 0 peer 0xC0A80001 = true ∧ (ip4Host.h.port 0).echoes < 100
    ∧ 100 ≤ ((echoed 100).h.port 0).echoes ∧ ((echoed 100).h.port 0).echoSecond = BitVec.ofNat 64 ((echoed 100).time.toNat / 1000000000) := by
  decide +kernel
theorem test_echo : (after (.echoRequest 0 0xC0A80001 [1, 2] peer) (echoed 99)).sent = [.echoReply 0 peer (ipv4Fragment peer) [1, 2]]
    ∧ (after (.echoRequest 0 0xC0A80001 [1, 2] peer) (echoed 100)).sent = [] := by decide +kernel

/-- A 48-byte packet: magic and KIND in word 0, no payload, and its CRC where right. -/
def pkt48 (kind : Nat) (good : Bool) : Bytes :=
  let head := wordBytes (place 48 16 0xA6D1 ||| place 40 4 kind) ++ List.replicate 32 0
  head ++ wordBytes (BitVec.ofNat 64 (crc32c head + if good then 0 else 1))
theorem wit_bad_packets : Memory.wf host = true ∧ omcpTakes host 0 peer = true ∧ (pkt48 0 true).length = 48
    ∧ field (wordAt (pkt48 3 true) 0) 40 4 ≠ 0 ∧ field (wordAt (pkt48 0 false) 40) 0 32 ≠ crc32c ((pkt48 0 false).take 40 ++ (pkt48 0 false).drop 48)
    ∧ field (wordAt (pkt48 3 true) 0) 48 16 = 0xA6D1 ∧ field (wordAt (pkt48 3 true) 16) 0 14 = 0 := by decide +kernel
theorem test_bad_crc : (after (.omcpPacketReject 0 (pkt48 0 false) peer) host).fld .ethCnt 0 0 48 16 = 1 := by decide +kernel
theorem test_bad_kind : (after (.omcpPacketReject 0 (pkt48 3 true) peer) host).fld .ethCnt 0 0 32 16 = 1 := by decide +kernel

/-! Helpers: memory, descriptors, and a routing image of two members. -/

/-- What a read gives; with `read_ok` and `arg_ok` this is the outcome the statements' hypotheses name. -/
def val {α : Type} (x : Except MemErr α × State) : Option α :=
  match x.1 with
  | .ok v => some v
  | .error _ => none

theorem read_ok {α : Type} {x : Except MemErr α × State} {v : α} (h : val x = some v) : x = (.ok v, x.2) := by
  obtain ⟨_ | _, _⟩ := x <;> simp_all [val]

def argVal (x : Option (Except MemErr Bytes × State)) : Option Bytes := x.bind val
def argSt (x : Option (Except MemErr Bytes × State)) (s : State) : State := (x.map Prod.snd).getD s

theorem arg_ok {x : Option (Except MemErr Bytes × State)} {v : Bytes} {s : State} (h : argVal x = some v) :
    x = some (.ok v, argSt x s) := by
  cases x with
  | none => simp [argVal] at h
  | some y => simpa [argSt] using read_ok (x := y) (by simpa [argVal] using h)

/-- Bytes in HBM from an address. -/
def withHbm (a : Nat) (bs : Bytes) (s : State) : State := { s with mem := { s.mem with hbm := putBytes s.mem.hbm a bs } }

/-- A descriptor: its opcode, slot and words by index. -/
def descOf (op slot : Nat) (xs : List (Nat × Word)) : List Word :=
  let w0 : Word := place 56 8 op ||| place 40 16 1 ||| place 8 24 slot ||| place 4 4 1
  (List.range 16).map fun i => if i = 0 then w0 else if i = 1 then ~~~w0 else sget 0 xs i

def ref (space fmt addr : Nat) : Word := place 60 4 space ||| place 56 4 fmt ||| place 0 48 addr

def flyOf (ws : List Word) (ph : Phase) : InFlight := ⟨0, 1, ws, 0, 1, 0, ph, none, 0, none, none⟩

/-- Stirrup t runs with one descriptor in flight, of slot 0 and step 1. -/
def fly (t : Nat) (ws : List Word) (ph : Phase) (s : State) : State :=
  { s with d := { s.d with stirrups := sset {} s.d.stirrups t { st := .run, flight := [flyOf ws ph] } } }

/-- Power domains that are ON. -/
def powered (ds : List Nat) (s : State) : State := { s with m := { s.m with domains := ds.map fun n => (n, { st := .on }) } }

/-- A tack call in flight at die 0 whose routine has started: its arguments at HBM address 0. -/
def callWords (routine : Nat) : List Word := descOf 0x40 0 [(5, place 48 16 routine), (6, ref 1 0 0)]
def run0 (routine : Nat) : TackRun := ⟨0, 0, 1, routine, .started, 0⟩
def call0 (routine : Nat) (s : State) : State :=
  let t := fly 300 (callWords routine) .executing s
  { t with d := { t.d with tack := [run0 routine] } }

/-- Members 0 and 1 hold roles 0 and 1; port 0 leads to member 1. Schedules 0 to 4 of kinds 2, 2, 0, 1, 3: member 0 is the root
with child 1; the one stage receives one unit of TAG 0 from role 1. Schedule 5, of kind 2, sends two units to role 1. -/
def entryB (xs : List Nat) : Bytes := xs.map (BitVec.ofNat 8)
def schedB (kind op len : Nat) : Bytes :=
  wordsBytes [place 60 4 kind ||| place 48 12 0xFFF ||| place 44 4 1 ||| place 0 17 1, 1, 0, 0, 0, 0, 0, 0,
    place 60 4 op ||| place 44 12 1 ||| place 32 12 0xFFF, place 40 24 len]
@[irreducible] def roles0 : Bytes := List.replicate 128 0 ++ (entryB [0, 0x80, 1, 0x80] ++ List.replicate 8188 0)
@[irreducible] def near0 : Bytes :=
  wordsBytes [1 ||| place 17 1 1] ++ (List.replicate 88 0 ++ (entryB [0x8F, 0x80] ++ List.replicate 49150 0))
@[irreducible] def own0 : Bytes := entryB [0x8F, 0x80] ++ List.replicate 4094 0
@[irreducible] def table0 : Bytes := wordsBytes [0x80000000000110E0, 0x8000000000011130, 0x8000000000011180, 0x80000000000111D0, 0x8000000000011220, 0x8000000000011270] ++ List.replicate 8144 0
@[irreducible] def records0 : Bytes := schedB 2 1 1 ++ schedB 2 1 1 ++ schedB 0 1 1 ++ schedB 1 1 1 ++ schedB 3 1 1 ++ schedB 2 0 2
/-- An image of these maps with what is given as its schedules. -/
@[irreducible] def imageX (x : Bytes) : Bytes := roles0 ++ (near0 ++ (own0 ++ x))
@[irreducible] def image0 : Bytes := imageX (table0 ++ records0)
def routed (s : State) : State :=
  { (withRole s (place 12 13 2)).setReg .cfgMemberId 0 0 0 with c := { s.c with route := image0 } }

theorem roles0_length : roles0.length = 8320 := by
  simp only [roles0, List.length_append, List.length_replicate]; decide +kernel
theorem near0_length : near0.length = 49248 := by
  simp only [near0, List.length_append, List.length_replicate]; decide +kernel
theorem own0_length : own0.length = 4096 := by
  simp only [own0, List.length_append, List.length_replicate]; decide +kernel
theorem table0_length : table0.length = 8192 := by
  simp only [table0, List.length_append, List.length_replicate]; decide +kernel

/-- What lies behind the first part of an image, read there. -/
theorem drop_behind (a b : Bytes) (o : Nat) (h : a.length ≤ o) : (a ++ b).drop o = b.drop (o - a.length) := by
  rw [List.drop_append, List.drop_eq_nil_of_le h, List.nil_append]

theorem imageX_near (x : Bytes) (o : Nat) (h : 8320 ≤ o) : (imageX x).drop o = (near0 ++ (own0 ++ x)).drop (o - 8320) := by
  rw [imageX, drop_behind _ _ _ (by rw [roles0_length]; exact h), roles0_length]
theorem imageX_own (x : Bytes) (o : Nat) (h : 57568 ≤ o) : (imageX x).drop o = (own0 ++ x).drop (o - 57568) := by
  rw [imageX_near x o (by omega), drop_behind _ _ _ (by rw [near0_length]; omega), near0_length, Nat.sub_sub]
theorem imageX_rest (x : Bytes) (o : Nat) (h : 61664 ≤ o) : (imageX x).drop o = x.drop (o - 61664) := by
  rw [imageX_own x o (by omega), drop_behind _ _ _ (by rw [own0_length]; omega), own0_length, Nat.sub_sub]
theorem image0_table (o : Nat) (h : 61664 ≤ o) : image0.drop o = (table0 ++ records0).drop (o - 61664) := by
  rw [image0, imageX_rest _ o h]
theorem image0_records (o : Nat) (h : 69856 ≤ o) : image0.drop o = records0.drop (o - 69856) := by
  rw [image0_table o (by omega), drop_behind _ _ _ (by rw [table0_length]; omega), table0_length, Nat.sub_sub]

theorem image0_word (o : Nat) (h : 69856 ≤ o) : imgWord image0 o = imgWord records0 (o - 69856) := by
  simp only [imgWord, imgNat, image0_records o h]
theorem image0_words (o : Nat) : schedWords image0 (69856 + o) = schedWords records0 o := by
  have h (k : Nat) : imgWord image0 (69856 + k) = imgWord records0 k := by
    rw [image0_word _ (by omega), Nat.add_sub_cancel_left]
  simp only [schedWords, Nat.add_assoc, h]
theorem image0_offset (i : Nat) (hi : i < 6) : schedOffset image0 i = some (69856 + 80 * i) := by
  have h : imgNat image0 (61664 + 8 * i) 8 = leNat (((table0 ++ records0).drop (8 * i)).take 8) := by
    rw [imgNat, image0_table _ (by omega), Nat.add_sub_cancel_left]
  have e : leNat (((table0 ++ records0).drop (8 * i)).take 8) = 2 ^ 63 + (69856 + 80 * i) := by
    clear h; revert i; decide +kernel
  simp only [schedOffset, h, e]
  clear h e; revert i; decide +kernel

/-- The schedules as they stand in the image. -/
def sched0 (i : Nat) : Sched :=
  let (w0, w1, st) := schedWords records0 (80 * i)
  { kind := field w0 60 4, parent := field w0 48 12, children := (List.range (field w0 44 4)).map fun k => field w1 (12 * k) 12,
    stages := st.map fun x : Word × Word => stageOf x.1 x.2 }
theorem schedule_is (s : State) (i : Nat) (hs : s.c.route = image0) (hi : i < 6) : schedule s i = some (sched0 i) := by
  rw [schedule, hs, image0_offset i hi, Option.map_some, image0_words, sched0]

theorem test_role_map : roleMember image0 1 = some 1 ∧ roleMember image0 2 = none := by decide +kernel
theorem test_schedule : sched0 0 = ⟨2, 0xFFF, [1], [⟨1, false, false, false, 1, 0xFFF, 0, 0, 1, 0⟩]⟩ := by decide +kernel
theorem test_neighbour : neighEntry image0 0 = ⟨true, false, 0, 1⟩ := by
  simp only [neighEntry, imgNat, image0, imageX_near _ _ (Nat.le_refl 8320)]; decide +kernel
/-- Where frames of this member for members 0 and 1 leave (R423). -/
theorem routeX (x : Bytes) : routeEntry (imageX x) 12 0 = some (15, 0) ∧ routeEntry (imageX x) 12 1 = some (0, 0) := by
  have h (k : Nat) (hk : k < 2) : (imageX x).getD (57568 + k) 0 = own0.getD k 0 := by
    have := congrArg List.head? (imageX_own x (57568 + k) (by omega))
    rw [List.head?_drop, List.head?_drop, Nat.add_sub_cancel_left, List.getElem?_append_left (by rw [own0_length]; omega)] at this
    rw [List.getD_eq_getElem?_getD, List.getD_eq_getElem?_getD, this]
  constructor
  · simp only [routeEntry, imgByte, h 0 (by omega)]; decide +kernel
  · simp only [routeEntry, imgByte, h 1 (by omega)]; decide +kernel
theorem route_self : routeEntry image0 12 0 = some (15, 0) ∧ routeEntry image0 12 1 = some (0, 0) := by
  rw [image0]; exact routeX _

/-! Witnesses and tests: step assurance (10). -/

/-- STEP_CHECK's arguments at 0 (Table 10-3): the loss at 32, one list of one partial at 48. -/
def checkArgs (loss inv : Word) : Bytes := wordsBytes [32, 1, 48, 1, loss, inv, 0x3FF0000000000000]
def checking (loss inv : Word) : State := withHbm 0 (checkArgs loss inv) (routed (call0 0x10 fed))
def chk1 (loss inv : Word) : State := argSt (readArgs (checking loss inv) (run0 0x10) 16) (checking loss inv)
def chk2 (loss inv : Word) : State := argSt (readArgs (chk1 loss inv) (run0 0x10) 32) (chk1 loss inv)
def chk3 (loss inv : Word) : State := (memRead (chk2 loss inv) .ddma {} 32 16).2
def chk4 (loss inv : Word) : State := (readPartials [(48, 1)] (chk3 loss inv)).2

/-- A good loss and one that differs from its complement. -/
theorem wit_step_check : ∀ z ∈ [((5 : Word), ~~~(5 : Word)), (5, 5), (0x7FF0000000000000, ~~~0x7FF0000000000000)],
    let s := checking z.1 z.2
    startedRun s 0 rtStepCheck = some (run0 0x10) ∧ s.coll 0xFF = none ∧ inlineBad (runWords s (run0 0x10)) 0 = none
    ∧ argVal (readArgs s (run0 0x10) 16) = some (wordsBytes [32, 1])
    ∧ argVal (readArgs (chk1 z.1 z.2) (run0 0x10) (16 + 16 * min 256 (field (wordAt (wordsBytes [32, 1]) 8) 0 9))) = some (wordsBytes [32, 1, 48, 1])
    ∧ checkArgsBad (wordsBytes [32, 1]) ((wordsBytes [32, 1, 48, 1]).drop 16) = none
    ∧ val (memRead (chk2 z.1 z.2) .ddma {} 32 16) = some (wordsBytes [z.1, z.2])
    ∧ val (readPartials [(48, 1)] (chk3 z.1 z.2)) = some [0x3FF0000000000000] :=
  each (by decide +kernel)
theorem wit_step_check_sched : schedule (chk4 5 (~~~5)) 0 = some (sched0 0) ∧ schedFits (chk4 5 (~~~5)) (sched0 0) 2 3 0 = true
    ∧ (sched0 0).children ≠ [] ∧ (chk4 5 (~~~5)).f.buffer = [] := by
  have hr : (chk4 5 (~~~5)).c.route = image0 := rfl
  refine ⟨schedule_is _ 0 hr (by omega), ?_, by decide +kernel, by decide +kernel⟩
  decide +kernel

/-- The verdict collective with its record complete, and a loss of 5. -/
def verdictColl (rec_ : List Word) : Coll :=
  { id := 0xFF, sched := 0, step := 1, stamp := 0, use := .check, die := 0, slot := 0, fmt := 0, op := 0, ctr := none, buf := 0, binds := [],
    parent := 0xFFF, children := [1], stages := [⟨1, false, false, false, 1, 0xFFF, 0, 0, 1, 0⟩], prog := [{ started := true, done := true }],
    agree := some true, timer := 0, record := putBytes [] 0 (wordsBytes rec_) }
def runV : TackRun := ⟨0, 0, 1, 0x10, .collective 0xFF, 0⟩
def judging (rec_ : List Word) : State :=
  let s := (call0 0x10 fed).setPair .brcNormBound .brcNormBoundInv 0 0x4000000000000000
  { s with d := { s.d with tack := [runV] }, f := { s.f with colls := [verdictColl rec_] }, a := { s.a with loss := .of 5 } }
theorem wit_verdict : ∀ rec_ ∈ [[place 8 2 3, 7, 0x3FF0000000000000, 9, 9], [0, 7, 0x4020000000000000, 9, 9]],
    let s := judging rec_
    Memory.wf s = true ∧ Lists.wf s = true ∧ s.coll 0xFF = some (verdictColl rec_) ∧ (∀ p ∈ (verdictColl rec_).prog, p.done = true)
    ∧ collRun s (verdictColl rec_) = some runV ∧ runFlight s runV = some (flyOf (callWords 0x10) .executing) ∧ regHeld s .brcPos0 = true
    ∧ denied s .ingress true (128 * (1 % 16)) 128 = none := by decide +kernel
/-- R376: a squared norm of 1 is within the bound 2, one of 8 is not; unequal checksums fail. -/
theorem test_verdict_fail : verdictFail (judging []) 1 (wordsBytes [place 8 2 3, 7, 0x3FF0000000000000, 9, 9, 0, 0, 0]) = 0
    ∧ verdictFail (judging []) 1 (wordsBytes [0, 7, 0x4020000000000000, 9, 9, 0, 0, 0]) = 8
    ∧ verdictFail (judging []) 1 (wordsBytes [4, 7, 0x3FF0000000000000, 9, 8, 0, 0, 0]) = 0x14 := by decide +kernel
theorem test_verdict_releases : (after (.verdict 0) (judging [place 8 2 3, 7, 0x3FF0000000000000, 9, 9])).reg .brcLastReleased 0 0 = 1
    ∧ (after (.verdict 0) (judging [0, 7, 0x4020000000000000, 9, 9])).reg .brcLastReleased 0 0 = 0 := by decide +kernel

/-- A tack call with an interval of 1 in its inline arguments; both binding lists are empty. -/
def callDue (routine : Nat) (s : State) : State :=
  let t := fly 300 (descOf 0x40 0 [(5, place 48 16 routine), (8, 1)]) .executing s
  { t with d := { t.d with tack := [run0 routine] } }
def dueFlight (routine : Nat) : InFlight := flyOf (descOf 0x40 0 [(5, place 48 16 routine), (8, 1)]) .executing
def mirrored : State := withRole (routed (callDue 0x11 fed)) (place 12 13 2 ||| place 25 12 1)
theorem wit_digest_idle : startedRun (callDue 0x11 fed) 0 rtMirrorDigest = some (run0 0x11)
    ∧ runFlight (callDue 0x11 fed) (run0 0x11) = some (dueFlight 0x11) ∧ inlineBad (dueFlight 0x11).words 1 = none
    ∧ (callDue 0x11 fed).partnerOffset = 0 ∧ digestDue (fed.setReg .cfgStartStep 0 0 0) 2 1 = false := by decide +kernel
theorem wit_digest_due : digestDue mirrored (dInline (dueFlight 0x11).words 0) 1 = true ∧ mirrored.partnerOffset ≠ 0
    ∧ mirrored.coll 0xFE = none ∧ mirrorLocked mirrored = false ∧ val (shardDigest mirrored false) = some (some 0)
    ∧ val (shardDigest (shardDigest mirrored false).2 true) = some (some 0) ∧ mirrored.roles ≠ 0 := by decide +kernel
def digested : State := (shardDigest (shardDigest mirrored false).2 true).2
theorem wit_digest_sched : schedule digested 1 = some (sched0 1) ∧ schedFits digested (sched0 1) 2 3 0 = true
    ∧ (sched0 1).children ≠ [] ∧ digested.f.buffer = [] :=
  ⟨schedule_is _ 1 rfl (by omega), by decide +kernel, by decide +kernel, by decide +kernel⟩

def ver1 (pass : Bool) : Verdict := ⟨1, pass, 0, .of 5, .of 7⟩
def ckpt (pass : Bool) : State :=
  let s := callDue 0x12 { fed with h := { fed.h with portA := { lastSid := 1, session := some { ses with egress := some 64 } } } }
  { s with a := { s.a with verdict := some (ver1 pass) } }
theorem wit_checkpoint : ∀ b ∈ [true, false], startedRun (ckpt b) 0 rtCheckpointOut = some (run0 0x12)
    ∧ runFlight (ckpt b) (run0 0x12) = some (dueFlight 0x12) ∧ inlineBad (dueFlight 0x12).words 1 = none
    ∧ (ckpt b).a.verdict = some (ver1 b) ∧ mirrorLocked (ckpt b) = false ∧ (ckpt b).a.dry = none
    ∧ checkpointDue (ckpt b) (dInline (dueFlight 0x12).words 0) (ver1 b) = true := by decide +kernel
theorem wit_checkpoint_reads : val (listBindings (ckpt true) .ddma false) = some (some [])
    ∧ destinations (listBindings (ckpt true) .ddma false).2 ≠ [] ∧ val (readShard (listBindings (ckpt true) .ddma false).2 .egress []) = some []
    ∧ destinations (readShard (listBindings (ckpt true) .ddma false).2 .egress []).2 ≠ []
    ∧ (readShard (listBindings (ckpt true) .ddma false).2 .egress []).2.h.streams = [] := by decide +kernel

/-! Replay, restore and takeover; the health monitor. -/

theorem wit_replay : accepts fed req 0x70 = true ∧ Memory.wf fed = true ∧ Lists.wf fed = true ∧ replayRefusal fed 1 = none
    ∧ (0 : Word) ≠ ~~~(1 : Word) := by decide +kernel
/-- Table 10-6, row by row. -/
theorem wit_replay_refused : replayRefusal fed 2 = some 0x0800 ∧ replayRefusal (powered [60] (fly 300 (callWords 5) .issued fed)) 1 = some 0x0600
    ∧ replayRefusal (fly 0 (callWords 5) .issued fed) 1 = some 0x0105
    ∧ replayRefusal (fed.setPair .updFront .updFrontInv 0 1) 1 = some 0x0801
    ∧ replayRefusal (withRole fed 0xFFF) 1 = some 0x0403 := by decide +kernel

/-- A checkpoint of step 2 of role 0 with four positions in each step, from position 100 (Tables 10-8, 10-9). -/
def restoreData (verify : Bool) (step : Word) : Bytes :=
  let pair := fun (w : Word) => [w, ~~~w]
  wordsBytes ([place 48 16 1] ++ pair step ++ pair 108 ++ pair 0 ++ pair 0 ++ pair 0 ++ pair 5 ++ pair 6 ++ [0])
    ++ List.replicate 3968 0 ++ wordsBytes (pair 3 ++ pair 8 ++ pair 9 ++ [0, placeBit 1 verify ||| 1])
theorem wit_restore : ∀ z ∈ [(true, (2 : Word)), (false, 3)], let data := restoreData z.1 z.2
    accepts fed req 0x71 = true ∧ data.length = 4160 ∧ isQuiescent fed = true ∧ badPair data = none ∧ restoreShaped data = true ∧ heldBad fed = none
    ∧ field (wordAt data 0) 36 12 = fed.role ∧ wordAt data 56 = fed.reg .updSeedShared 0 0 ∧ wordAt data 72 = fed.reg .updSeedRole 0 0
    ∧ restoredSteps fed (wordAt data 24) = some 2 ∧ val (shardDigest (heard fed req) false) = some (some (wordAt data 4144))
    ∧ bit (wordAt data 4152) 1 = z.1 :=
  each (by decide +kernel)
/-- R399's worked example: POS 26,218,496 with 4,096 positions from 0 gives step 6,401. -/
theorem test_restored_step : restoredSteps ((fed.setReg .brcCtrl 0 0 4096).setReg .brcPos0 0 0 0) 26218496 = some 6401 := by decide +kernel
theorem test_restore_odd : restoredSteps fed 107 = none ∧ restoredSteps fed 99 = none := by decide +kernel
def spare : State := host.setReg .cfgRole 0 0 0xFFF
theorem wit_takeover : accepts spare req 0x72 = true ∧ Memory.wf spare = true ∧ spare.role = 0xFFF ∧ (4095 : Word).toNat < 4096
    ∧ spareQuiet spare = true ∧ accepts fed req 0x72 = true ∧ fed.role ≠ 0xFFF := by decide +kernel

/-- R402's worked example, without its thermal margin: 24 corrected lines on 40, and one shadow mismatch. -/
def health : State :=
  let s := (host.setReg .hltInputStat 0 0 (place 8 56 40)).setReg .thmStat 0 0 (place 24 8 4)
  { s with m := { s.m with hlt := [(0, 24), (4, 1)] } }
theorem wit_health : Memory.wf health = true ∧ reinRuns health = true := by decide +kernel
theorem test_health_inputs : let t := healthInput (healthInput health 0) 4
    t.fld .hltInputStat 0 0 8 56 = 59 ∧ t.fld .hltInputStat 0 0 0 8 = 14
      ∧ t.fld .hltInputStat 4 0 8 56 = 1 ∧ t.fld .hltInputStat 4 0 0 8 = 32 := by decide +kernel
/-- A margin of 4 °C scores 36. -/
theorem test_health_margin : (healthInput health 11).fld .hltInputStat 11 0 0 8 = 36 := by decide +kernel

/-! Witnesses and tests: tack calls, collectives and their frames (05, 11). -/

/-- Stirrup t runs, at step 1, with a fetched head in a ring of 4 slots; its die's bank 0 is sealed at generation 0, and
every domain it needs is ON. -/
def heading (t : Nat) (ws : List Word) (s : State) : State :=
  let s1 := (((s.setReg .dspStep t 0 1).setReg .dspStepInv t 0 (~~~1)).setReg .dspRingSlots t 0 4).setReg .dspCplBase t 0 4096
  powered [stirrupDomain t] { s1 with d := { s1.d with
    stirrups := [(t, { st := .run, fetched := [⟨0, ws, none⟩] })], banks := [(2 * dieOf t, { st := .sealed, gen := 1 })] } }

theorem wit_tack_call : oldest (fly 300 (callWords 1) .issued host) 300 0x40 .issued = some (flyOf (callWords 1) .issued)
    ∧ dRoutine (callWords 1) = 1 ∧ dRoutine (callWords 0x50) = 0x50
    ∧ oldest (fly 300 (callWords 0x50) .issued host) 300 0x40 .issued = some (flyOf (callWords 0x50) .issued) := by decide +kernel
def atReplay : State := heading 300 (descOf 0x40 0 [(5, place 48 16 0x13 ||| place 32 16 1)]) host
theorem wit_replay_step : headCheck atReplay 300 = .pass ⟨0, descOf 0x40 0 [(5, place 48 16 0x13 ||| place 32 16 1)], none⟩
    ∧ (atReplay.stir 300).st = .run := by decide +kernel
theorem test_replay_step : ((after (.replayStep 0) atReplay).stir 300).st = .halted := by decide +kernel

/-- Arguments of a collective on schedule 2 + kind, COLL_ID 7, FP64 SUM (moves: 0 and 4), the buffer at 4,096. -/
def collArgs (sched fmt op : Nat) : Bytes := wordsBytes [place 54 10 sched ||| place 46 8 7 ||| place 42 4 fmt ||| place 38 4 op, 4096, 0, 0, 0, 0, 0, 0]
def collCall (routine sched fmt op : Nat) : State := withHbm 0 (collArgs sched fmt op) (routed (call0 routine fed))
def coll1 (routine sched fmt op : Nat) : State := argSt (readArgs (collCall routine sched fmt op) (run0 routine) 64) (collCall routine sched fmt op)
/-- Routine, schedule, kind, FMT and OP of each (Table 11-13); ALL_REDUCE has schedule 1's twin 5. -/
def collKinds : List (Nat × Nat × Nat × Nat × Nat) := [(1, 2, 0, 1, 0), (2, 3, 1, 0, 4), (3, 5, 2, 1, 0), (4, 4, 3, 0, 4)]
theorem wit_coll_args : ∀ z ∈ collKinds, let s := collCall z.1 z.2.1 z.2.2.2.1 z.2.2.2.2
    let s1 := coll1 z.1 z.2.1 z.2.2.2.1 z.2.2.2.2
    let bs := collArgs z.2.1 z.2.2.2.1 z.2.2.2.2
    startedRun s 0 z.1 = some (run0 z.1) ∧ userColls s < 16 ∧ inlineBad (runWords s (run0 z.1)) 0 = none
    ∧ argVal (readArgs s (run0 z.1) 64) = some bs ∧ field (wordAt bs 0) 54 10 = z.2.1 ∧ field (wordAt bs 0) 46 8 = 7 ∧ collArgsClean bs = true
    ∧ s1.coll 7 = none ∧ schedFits s1 (sched0 z.2.1) z.2.2.1 z.2.2.2.2 0 = true
    ∧ val (memRead s1 .ddma {} (field (wordAt bs 16) 0 48) (16 * field (wordAt bs 16) 48 8)) = some []
    ∧ bindTable [] = some [] ∧ s1.f.buffer = [] ∧ s1.f.colls = [] ∧ (sched0 z.2.1).children ≠ [] := by decide +kernel
theorem wit_coll_sched : schedule (coll1 1 2 1 0) 2 = some (sched0 2) ∧ schedule (coll1 2 3 0 4) 3 = some (sched0 3)
    ∧ schedule (coll1 3 5 1 0) 5 = some (sched0 5) ∧ schedule (coll1 4 4 0 4) 4 = some (sched0 4) :=
  ⟨schedule_is _ 2 rfl (by omega), schedule_is _ 3 rfl (by omega), schedule_is _ 5 rfl (by omega), schedule_is _ 4 rfl (by omega)⟩

/-- LOCAL_REDUCE (Table 11-17 of R437): FP64 SUM of two sources of one unit, on other dies, to 192; CTR 5. -/
def localArgs (srcs dst : Word) : Bytes :=
  wordsBytes [place 42 4 1 ||| place 26 12 5, srcs ||| place 38 2 1, srcs ||| place 38 2 2, 0, 0, dst, 1, 0]
def localCall (srcs : Word) : State := withHbm 0 (localArgs srcs 192) (call0 5 fed)
def local1 (srcs : Word) : State := argSt (readArgs (localCall srcs) (run0 5) 64) (localCall srcs)
def localSrcs (srcs : Word) : List Word := (List.range 4).map fun i => wordAt (localArgs srcs 192) (8 + 8 * i)
theorem wit_local_reduce : let s := localCall (placeBit 63 true)
    startedRun s 0 rtLocalReduce = some (run0 5) ∧ runFlight s (run0 5) = some (flyOf (callWords 5) .executing)
    ∧ inlineBad (callWords 5) 0 = none ∧ argVal (readArgs s (run0 5) 64) = some (localArgs (placeBit 63 true) 192)
    ∧ localArgsClean (localArgs (placeBit 63 true) 192) = true := by decide +kernel
theorem wit_local_values : ∀ z ∈ [(placeBit 63 true, some (List.replicate 64 (0 : Byte))), ((0 : Word), none)],
    let s := local1 z.1
    val (readSources (64 * field (wordAt (localArgs z.1 192) 48) 0 40) (localSrcs z.1) s) = some [z.2, z.2, none, none]
    ∧ (combineOpt 1 0 (combineOpt 1 0 z.2 z.2) (combineOpt 1 0 none none)).isSome = z.2.isSome
    ∧ localArgsClean (localArgs z.1 192) = true := by decide +kernel
theorem wit_local_wf : Memory.wf (readSources 64 (localSrcs 0) (local1 0)).2 = true
    ∧ Memory.wf (readSources 64 (localSrcs (placeBit 63 true)) (local1 (placeBit 63 true))).2 = true
    ∧ denied (readSources 64 (localSrcs (placeBit 63 true)) (local1 (placeBit 63 true))).2 .ddma true 192 64 = none := by decide +kernel
theorem wit_local_bad : (dArgs (descOf 0x40 0 [(5, place 48 16 5)])).absent = true ∧ inlineBad (descOf 0x40 0 [(15, 1)]) 0 ≠ none
    ∧ localArgsClean (localArgs (place 48 1 1) 192) = false := by decide +kernel
/-- R437, R432: 1 + 2 = 3 in FP32; an absent operand is absent. -/
theorem test_combine : combineOpt 2 0 (some (leBytes 4 0x3F800000)) (some (leBytes 4 0x40000000)) = some (leBytes 4 0x40400000)
    ∧ combineOpt 1 0 none (some [1]) = some [1] := by decide +kernel

/-- A collective of COLL_ID 7 on schedule 5 with two stages: one receives a unit at 0 from role 1, the next sends two units. -/
def twoStages : List Stage := [⟨1, false, false, false, 1, 0xFFF, 0, 0, 1, 0⟩, ⟨0, false, false, false, 1, 0xFFF, 0, 0, 2, 0⟩]
def collOf (prog : List Prog) (agree : Option Bool) : Coll :=
  { id := 7, sched := 5, step := 1, stamp := 0, use := .routine, die := 0, slot := 0, fmt := 1, op := 0, ctr := none, buf := 4096, binds := [],
    parent := 1, children := [], stages := twoStages, prog := prog, agree := agree, timer := 0 }
def linkUp0 (x : LinkPort) (s : State) : State := { s with f := { s.f with ports := [(0, { x with st := .up })] } }
def opened (prog : List Prog) (agree : Option Bool) (s : State) : State := { s with f := { s.f with colls := [collOf prog agree] } }
def staged (got : Bool) : State := opened [{ started := got, done := got }, {}] (some true) (linkUp0 {} (routed (call0 3 fed)))
theorem wit_stage_waits : (staged false).coll 7 = some (collOf [{}, {}] (some true)) ∧ (collOf [{}, {}] (some true)).stages[1]? = some twoStages[1]
    ∧ mayStart (collOf [{}, {}] (some true)) 1 twoStages[1] = false ∧ mayStart (collOf [{}, {}] (some true)) 0 twoStages[0] = true := by
  decide +kernel
def progDone : List Prog := [{ started := true, done := true }, {}]
theorem wit_stage_send : (staged true).coll 7 = some (collOf progDone (some true)) ∧ mayStart (collOf progDone (some true)) 1 twoStages[1] = true
    ∧ val (collRead (staged true) (collOf progDone (some true)) 0 128) = some (List.replicate 128 0) := by decide +kernel
theorem wit_stage_sent (s : State) (hr : s.c.route = image0) (hp : (s.port 0).st = .up) :
    sendAll (collOf progDone (some true)) 1 1 0 (2 / 64 + 1) 0 (List.replicate 128 0) 0 s
      = .ok (1, enqueue s 0 ⟨0, collFrame s (collOf progDone (some true)) 1 1 0 0 (List.replicate 128 0), some (7, 1)⟩) := by
  simp [sendAll, sendData, hr, leaveOf, test_role_map.1, route_self.2, hp, List.replicate_succ, collOf]
theorem wit_stage_sent_state : let s := (collRead (staged true) (collOf progDone (some true)) 0 128).2
    s.c.route = image0 ∧ (s.port 0).st = .up := ⟨rfl, by decide +kernel⟩
theorem wit_timeout : (staged true).coll 7 = some (collOf progDone (some true)) ∧ Memory.wf (staged true) = true
    ∧ collRun { staged true with d := { (staged true).d with tack := [⟨0, 0, 1, 3, .collective 7, 0⟩] } } (collOf progDone (some true))
      = some ⟨0, 0, 1, 3, .collective 7, 0⟩ := by decide +kernel
theorem test_timeout : (after (.collTimeout 7) (staged true)).fld .aflCollCnt 0 0 48 16 = 1 := by decide +kernel

/-- A frame of the collective from role 1, as member 1 seals it. -/
def peer1 : State := withRole (routed fed) (place 12 13 2 ||| 1) |>.setReg .cfgMemberId 0 0 1
def frameOf (type : Nat) (payload : Bytes) : Frame := (collFrame peer1 (collOf [] none) type 0 0 0 payload).sealed
theorem wit_frame : (let s := staged false; (s.port 0).st = .up ∧ isLocal s 0 (frameOf 1 (rec64 3)) = true ∧ s.f.buffer = [] ∧ s.f.ended = []
      ∧ s.coll (frameOf 1 (rec64 3)).coll = some (collOf [{}, {}] (some true)) ∧ Memory.wf s = true) := by decide +kernel
def progOn : List Prog := [{ started := true }, {}]
theorem wit_frame_data : let f := frameOf 1 (rec64 3)
    acceptFrame f = .ok ∧ f.type = 1 ∧ frameMisfits (collOf progOn (some true)) f = false ∧ f.w3 = 0
      ∧ stageFor (collOf progOn (some true)) f = some 0 ∧ (progOn.getD 0 {}).started = true
      ∧ denied (staged false) .ddma true 4096 64 = none := by decide +kernel
def collKids (prog : List Prog) : Coll := { collOf prog none with children := [1, 2], parent := 0xFFF }
theorem wit_frame_open : let f := frameOf 2 (rec64 0)
    acceptFrame f = .ok ∧ f.type = 2 ∧ frameMisfits (collKids [{}, {}]) f = false ∧ (collKids []).heard.length + 1 < (collKids []).children.length := by
  decide +kernel
theorem wit_frame_result : ∀ b ∈ [(0 : Byte), 1], let f := frameOf 3 (b :: List.replicate 63 0)
    acceptFrame f = .ok ∧ f.type = 3 ∧ bit (wordAt f.payload 0) 0 = (b == 1) ∧ frameMisfits (collOf [{}, {}] none) f = false :=
  each (by decide +kernel)

/-! Witnesses and tests: links, blocks and frames (11). -/

/-- Port 0 as given, with the routing image of two members; spare 1 of its die is its own. -/
def ported (x : LinkPort) : State :=
  let s := routed (((fed.setReg .aflSpareMap 0 0 (place 15 1 1)).setReg .aflCtrl 0 0 (place 4 4 3 ||| 1)).setReg .aflStamp 0 0 0)
  { s.setReg .aflStampInv 0 0 (~~~0) with f := { s.f with ports := [(0, x)] } }

theorem wit_port_states : ∀ st ∈ [PortState.ident, .up, .held, .train, .down, .off], Memory.wf (ported { st := st }) = true
    ∧ ((ported { st := st }).port 0).st = st := by decide +kernel
theorem wit_port_retrain : accepts (ported {}) req 0x21 = true ∧ bit (3 : Word) 1 = true
    ∧ writeWord .aflPortCtrl (ported {}).m.locked ((ported {}).reg .aflPortCtrl 0 0) 3
      = ((writeWord .aflPortCtrl (ported {}).m.locked ((ported {}).reg .aflPortCtrl 0 0) 3).1, false) := by decide +kernel
def lostFrame : TxFrame := ⟨1, frame0 1, none⟩
/-- R411: what an unacknowledged frame costs when its port goes down. -/
theorem test_port_down : (after (.lossOfSignal ⟨0, []⟩) (ported { st := .up, replay := [(0, some lostFrame), (1, none)] })).fld .aflCollCnt 0 0 0 16 = 1 := by
  decide +kernel
theorem test_trained : ((after (.portTrained 0) (ported { st := .train })).port 0).st = .ident
    ∧ ((after (.portTrained 0) (ported { st := .train, fast := true })).port 0).st = .up := by decide +kernel

def peerIdent (n : Nat) : Word × Word := (place 22 2 n, 0)
def laned (v : Nat) (x : LinkPort) : State := ported { x with st := .up, version := BitVec.ofNat 2 v, ident := some (peerIdent 1) }
theorem wit_lane_spare : freeSpare (laned 2 {}) 0 = some (0, 1) ∧ freeSpare (laned 1 {}) 0 = some (0, 1)
    ∧ freeSpare (laned 2 { lanes := [9, 1, 2, 3, 4, 5, 6, 7] }) 0 = none ∧ ((laned 2 {}).port 0).sparing = none := by decide +kernel
theorem wit_lane_none : let x : LinkPort := { lanes := [9, 1, 2, 3, 4, 5, 6, 7], failed := [(3, some 0)] }
    sget none ((laned 2 x).port 0).failed 3 = some 0 ∧ sget none ((laned 2 x).port 0).failed 4 = none ∧ (laned 2 x).time.toNat < 1000000000 := by
  decide +kernel
theorem wit_spare_switch : let s := laned 2 { sparing := some ⟨3, 0, true, true⟩ }
    (s.port 0).sparing = some ⟨3, 0, true, true⟩ ∧ (0, 1) ∈ usableSpares s 0 ∧ (s.port 0).nextSeq.toNat % 64 = 0
    ∧ ((laned 2 { nextSeq := 63 }).port 0).nextSeq.toNat % 64 ≠ 0 := by decide +kernel
theorem test_spare_switch : ((after (.hitlessSpareSwitch ⟨0, []⟩) (laned 2 { sparing := some ⟨3, 0, true, true⟩ })).port 0).lanes
    = [0, 1, 2, 9, 4, 5, 6, 7] := by decide +kernel

/-- A control frame of member 1's port 0, with the payload of an IDENT or STAMP_UPDATE. -/
def ctrlOf (kind : Nat) (w stamp inv : Word) : Frame := ctrlFrame peer1 0 kind [w, stamp, inv, 0, 0, 0, 0, 0]
def identWord (member lo hi : Nat) (acc : Bool) : Word :=
  place 48 16 0x6432 ||| place 36 12 member ||| place 28 4 lo ||| place 24 4 hi ||| placeBit 21 acc
theorem wit_ident_frame : ∀ z ∈ [(1, identWord 1 1 3 true, (5 : Word), ~~~(5 : Word)), (1, identWord 1 1 3 false, 5, ~~~5), (1, identWord 2 1 3 true, 5, ~~~5),
      (1, identWord 1 4 5 true, 5, ~~~5), (2, identWord 1 1 3 true, 5, ~~~5), (1, identWord 1 1 3 true, 5, 5)],
    let f := ctrlOf z.1 z.2.1 z.2.2.1 z.2.2.2
    f.type = 4 ∧ acceptFrame f = .ok ∧ f.kind = z.1 ∧ ctrlPayloadFits f = true ∧ wordAt f.payload 8 = 5 ∧ wordAt f.payload 0 = z.2.1 := by decide +kernel
theorem wit_ident_judged : neighbourFits (ported { st := .ident }) 0 (identWord 1 1 3 true) = true
    ∧ neighbourFits (ported { st := .ident }) 0 (identWord 2 1 3 true) = false
    ∧ agreeVersion (ported { st := .ident }) (identWord 1 1 3 true) = some 3 ∧ agreeVersion (ported { st := .ident }) (identWord 1 4 5 true) = none := by
  decide +kernel
theorem wit_ident_misfit : (let f := ctrlOf 3 0 0 0; f.kind ≠ 1 ∧ f.kind ≠ 2 ∧ f.type = 4 ∧ acceptFrame f = .ok)
    ∧ ctrlPayloadFits (ctrlOf 1 0 5 (~~~5)) = false ∧ acceptFrame (ctrlOf 1 0 5 (~~~5)) = .ok := by decide +kernel
theorem test_ident_up : ((after (.identReceived 0 (ctrlOf 1 (identWord 1 1 3 true) 5 (~~~5))) (ported { st := .ident })).port 0).st = .up := by
  decide +kernel
theorem test_stamp_update : (after (.stampUpdateReceived 0 (ctrlOf 2 (identWord 1 1 3 true) 5 (~~~5))) (ported { st := .up })).reg .aflNeighStamp 0 0
    = 5 := by decide +kernel

def block (ack : Nat) (nak : Bool) (seq : Nat) : BitVec 80 :=
  (BitVec.ofNat 16 seq) ++ (place 48 16 ack ||| placeBit 47 nak ||| place 28 16 9)
theorem wit_block : carriesBlocks ((ported { st := .up }).port 0) = true ∧ ((ported { st := .up }).port 0).peerFreed.length = 4
    ∧ Memory.wf (ported { st := .up }) = true ∧ bit (BitVec.setWidth 64 (block 0 false 0) : Word) 47 = false
    ∧ bit (BitVec.setWidth 64 (block 0 true 0) : Word) 47 = true ∧ (BitVec.ofNat 16 ((block 0 true 0).toNat / 2 ^ 64) = (0xFFFF : BitVec 16) + 1) := by
  decide +kernel
theorem wit_block_naks : (({ naks := some ((0 : BitVec 16) + 1, 7) } : LinkPort)).naks = some (BitVec.ofNat 16 (field (BitVec.setWidth 64 (block 0 true 0)) 48 16) + 1, 7) := by
  decide +kernel
/-- R416: ACK 0 takes block 0 out of the replay buffer; block 1 stays. -/
theorem test_block_ack : (((after (.linkBlockReceived 0 true (block 0 false 0)) (ported { st := .up, nextSeq := 2, replay := [(0, none), (1, none)] })).port 0).replay.map
    Prod.fst).take 1 = [1] := by decide +kernel
theorem test_block_bad : ((after (.linkBlockReceived 0 false (block 0 false 0)) (ported { st := .up })).port 0).nak = true := by decide +kernel

def waiting (x : LinkPort) : LinkPort := { x with st := .up, queue := [⟨1, frame0 1, none⟩] }
theorem wit_transmit : (ported (waiting {})).m.gateOpen = true ∧ portsLocked (ported (waiting {})) = false
    ∧ firstOn ((ported (waiting {})).port 0) 1 = some ⟨1, frame0 1, none⟩ ∧ canStart ((ported (waiting {})).port 0) 1 (frame0 1) = true
    ∧ canStart ((ported (waiting { sentUnits := [0, 4095, 0, 0] })).port 0) 1 (frame0 1) = false := by decide +kernel
/-- The frame and the control word of its block (R415). -/
theorem test_transmit : (after (.frameTransmit 0 1) (ported (waiting {}))).sent.length = 2 := by decide +kernel
/-- A frame from port 5, whose table of the image has no entry; and for member 1 through port 0, from port 0 itself. -/
def passing (dst : Nat) : Frame := { frameOf 1 (rec64 3) with w0 := setField (frameOf 1 (rec64 3)).w0 24 12 dst }
theorem wit_forward : Memory.wf (ported { st := .up }) = true ∧ ((ported { st := .up }).port 0).transit = [] ∧ (passing 1).type ≠ 0 ∧ (passing 1).type ≠ 4
    ∧ passOf (ported { st := .up }) 0 (passing 1) = .go 0 0 ∧ passOf (ported { st := .up }) 0 (passing 2) = .drop true
    ∧ passOf (ported { st := .up, sentUnits := [255, 0, 0, 0] }) 0 (passing 1) = .wait
    ∧ sget none (ported { st := .up }).f.dropLog 0 = none := by decide +kernel
/-- Port 1 is UP and sends towards port 0, which is OFF. -/
theorem wit_forward_off : let s : State := { ported {} with c := { (ported {}).c with route := List.replicate 8416 0 ++ List.replicate 4096 0 ++ [0x80, 0x80] } }
    passOf s 1 (passing 1) = .drop false := by decide +kernel

/-- A mirror copy into the owner ranges from member 1, and its frame. The binding lies across two stacks. -/
def bind32 : Bytes := wordsBytes ([0, 0, place 44 4 1 ||| 32, ref 1 1 4096, ref 1 1 8192] ++ List.replicate 11 0)
def copying (m : MirrorCopy) : State :=
  let s := withHbm 0x7FFFFFFC0 bind32 (ported { st := .up })
  { s.setReg .brcOwnerList 0 0 (place 48 16 1 ||| 0x7FFFFFFC0) with f := { s.f with copy := some m } }
def take1 : MirrorCopy := { source := false, peer := 1, srcMirror := false, dstMirror := false, ticket := none, timer := 0 }
def mcopy (src : Nat) : Frame := (copyFrame (peer1.setReg .cfgMemberId 0 0 (BitVec.ofNat 64 src)) 0 0 (rec64 3)).sealed
theorem wit_mcopy : ∀ n ∈ [1, 2], (mcopy n).type = 5 ∧ acceptFrame (mcopy n) = .ok ∧ isLocal (copying take1) 0 (mcopy n) = true
    ∧ (mcopy n).src = n ∧ (copying take1).f.copy = some take1 ∧ Memory.wf (copying take1) = true ∧ (copying take1).f.buffer = [] := by decide +kernel
theorem wit_mcopy_range : (copyRanges (returnCredit (copying take1) 0 (mcopy 1)) false).1 = some [(8192, 256)]
    ∧ (mcopy 1).offset + (mcopy 1).payload.length ≤ 256 ∧ 0 < (mcopy 1).payload.length
    ∧ denied (copyRanges (returnCredit (copying take1) 0 (mcopy 1)) false).2 .ddma true 8192 64 = none
    ∧ (∀ l ∈ linesOf 8192 64, (copyRanges (returnCredit (copying take1) 0 (mcopy 1)) false).2.lineMeta l = {}) := by decide +kernel
/-- The copy's activity runs at this end, with ticket 1; its list is empty. -/
def copyEnds (src : Bool) : State :=
  let s := { hostT with maint := { running := [⟨some 1, none, if src then .mirrorCopy 1 false false else .mirrorTake 1, 0⟩] } }
  { s with f := { s.f with copy := some { take1 with source := src, ticket := some 1 } } }
theorem wit_copy_done : ∀ b ∈ [true, false], (copyEnds b).f.copy = some { take1 with source := b, ticket := some 1 } ∧ (copyEnds b).m.rung = .none
    ∧ (copyAct (copyEnds b)).isSome = true ∧ ((copyAct (copyEnds b)).bind (·.ticket)) = some 1 ∧ ((copyEnds b).ticket 1).isSome = true
    ∧ (copyRanges (copyEnds b) false).1 = some [] ∧ totalBytes [] ≤ take1.done ∧ val (copyDigest (copyEnds b) false) = some (some 0) := by decide +kernel

/-! Witnesses and tests: maintenance, scrub and refresh (14, 07). -/

def loadAct (n : Nat) : Act := ⟨some (BitVec.ofNat 32 n), none, .kernelLoad 0 1 7 4096 64, 0⟩
def routeAct (n : Nat) : Act := ⟨some (BitVec.ofNat 32 n), none, .routeLoad 4096 64, 0⟩
def maint (r q : List Act) : State := { hostT with maint := { running := r, queued := q } }
/-- A stack with one row to repair, and its resource. -/
def repairable : State := (hostT.setReg .hbmPprCand 0 0 (placeBit 63 true)).setReg .hbmPprAvail 0 0 0xFFFFFFFF
theorem wit_maint_accepts : ∀ c ∈ [0x60, 0x61, 0x80, 0x73], accepts repairable req c = true := by decide +kernel
theorem wit_maint_free : (maint [] []).m.rung = .none ∧ clashes (maint [] []) [] (.kernelLoad 0 1 7 4096 64) = false
    ∧ clashes (maint [] []) [] (.routeLoad 4096 64) = false ∧ clashes (maint [] []) [] (.mirrorCopy 1 false false) = false
    ∧ clashes repairable [] (.rowRepair 0 0 false) = false := by decide +kernel
theorem wit_maint_starts : (startRefusal (heard hostT req) (.kernelLoad 0 1 7 4096 64)).1 = none
    ∧ (startRefusal (heard hostT req) (.routeLoad 4096 64)).1 = none ∧ (startRefusal (heard hostT req) (.mirrorCopy 1 false false)).1 = none
    ∧ (startRefusal (heard hostT req) (.kernelLoad 0 1 0 4096 64)).1 = some 0x0701
    ∧ (startRefusal (heard hostT req) (.rowRepair 0 0 false)).1 = some 0x0901 := by decide +kernel
theorem wit_maint_clash : clashes (maint [routeAct 1] []) [routeAct 1] (.routeLoad 0 64) = true ∧ (maint [routeAct 1] []).maint.queued.length < 16
    ∧ 16 ≤ (maint [routeAct 1] (List.replicate 16 (routeAct 1))).maint.queued.length
    ∧ rungComes { hostT with m := { hostT.m with delayed := [(.module, 5)] } } = true ∧ rungComes (maint [] []) = false := by decide +kernel
theorem test_kst_queued : status (after (.kstLoad req 0 1 7 4096 64) (maint [loadAct 1] [])) = some 2 := by decide +kernel
theorem wit_maint_queued : (maint [] [loadAct 1]).maint.queued = [loadAct 1] ∧ (loadAct 1).ticket = some 1 ∧ ((maint [] [loadAct 1]).ticket 1).isSome = true
    ∧ clashes (maint [] [loadAct 1]) [] (loadAct 1).what = false ∧ (startRefusal (maint [] []) (loadAct 1).what).1 = none
    ∧ (startRefusal (maint [] []) (.kernelLoad 0 1 0 4096 64)).1 = some 0x0701 := by decide +kernel
theorem wit_cancel : accepts (maint [] [loadAct 1]) req 0x81 = true ∧ ((maint [] [loadAct 1]).maint.queued.find? fun a : Act => a.ticket == some 1) = some (loadAct 1)
    ∧ (maint [] []).ticket 1 = some (tk 1) ∧ isMaintOpcode (tk 1).opcode.toNat = true ∧ (maint [] []).ticket 2 = none := by decide +kernel
theorem test_cancel : status (after (.mntCancel req 1) (maint [] [])) = some 0x0902 := by decide +kernel
def tackLoad : State :=
  let t := fly 300 (descOf 0x40 0 [(5, place 48 16 0x30), (8, 4096), (9, 64), (10, 1), (11, 7)]) .executing host
  { t with d := { t.d with tack := [run0 0x30] } }
theorem wit_tack_load : startedRun tackLoad 0 rtKstLoad = some (run0 0x30) ∧ loadRun tackLoad 0 = none ∧ tackLoad.m.rung = .none
    ∧ loadArgs (runWords tackLoad (run0 0x30)) 0 = .kernelLoad 0 1 7 4096 64
    ∧ clashes tackLoad [] (.kernelLoad 0 1 7 4096 64) = false
    ∧ (startRefusal (setRun tackLoad (run0 0x30) .kernelLoad) (.kernelLoad 0 1 7 4096 64)).1 = none := by decide +kernel

theorem wit_load_done : (maint [loadAct 1] []).maint.running = [⟨some 1, none, .kernelLoad 0 1 7 4096 64, 0⟩] ∧ Lists.wf (maint [loadAct 1] []) = true
    ∧ Memory.wf (maint [loadAct 1] []) = true ∧ val (memRead (maint [loadAct 1] []) .fetch {} 4096 64) = some (List.replicate 64 0)
    ∧ kernelGood (List.replicate 64 0) = false := by decide +kernel
theorem wit_route_done : (maint [routeAct 1] []).maint.running = [⟨some 1, none, .routeLoad 4096 64, 0⟩]
    ∧ val (memRead (maint [routeAct 1] []) .fetch {} 4096 64) = some (List.replicate 64 0)
    ∧ routeRefusal (memRead (maint [routeAct 1] []) .fetch {} 4096 64).2 (List.replicate 64 0) = some 0x0704 := by decide +kernel
def repairAct : Act := ⟨some 1, none, .rowRepair 0 0 true, 0⟩
def repairing : State := { repairable with maint := { running := [repairAct] } }
theorem wit_repair : repairing.maint.running = [⟨some 1, none, .rowRepair 0 0 true, 0⟩] ∧ (repairing.ticket 1).isSome = true ∧ Memory.wf repairing = true
    ∧ repairing.m.rung = .none ∧ repairing.mem.lines = [] := by decide +kernel

/-- Scrub at the last line of stack 0, and a line 0 that it cannot read. -/
def scrubbing (pos : Nat) (m : LineMeta) : State :=
  let s := powered [60, 61, 62, 63] ((host.setReg .hbmScrubCtrl 0 0 1).setReg .hbmScrubStat 0 0 (BitVec.ofNat 64 pos))
  { s with mem := { s.mem with lines := if m = {} then [] else [(0, m)] } }
/-- Three symbols in error whose first two syndromes are 0. -/
def bad3 : LineMeta := { sym := [(71, 6), (70, 5), (69, 3)] }
theorem wit_scrub : ∀ z ∈ [(0, ({} : LineMeta)), (536870911, {}), (0, bad3)], let s := scrubbing z.1 z.2
    Memory.wf s = true ∧ Lists.wf s = true ∧ bit (s.reg .hbmScrubCtrl 0 0) 0 = true ∧ s.domainOn 60 = true ∧ stackLocked s 0 = false
    ∧ s.fld .hbmScrubStat 0 0 0 32 = z.1 ∧ s.mem.sbg = [] := by decide +kernel
theorem gfMul_zero (b : Nat) : gfMul 0 b = 0 := by
  have h (n b : Nat) : gfMulGo n 0 b = 0 := by
    induction n generalizing b with
    | zero => rfl
    | succ n ih => simp [gfMulGo, gfDouble, ih]
  exact h 8 b
theorem syndromes_zero (is_ : List Nat) : syndromes (is_.map fun i => (i, (0 : Byte))) = List.replicate 6 0 := by
  have h (j n : Nat) : (is_.map fun i => (i, (0 : Byte))).foldl (fun a x => a ^^^ gfMul x.2.toNat (gfPow (symLocator x.1) j)) n = n := by
    induction is_ generalizing n with
    | nil => rfl
    | cons i r ih => simpa [gfMul_zero] using ih n
  simp only [syndromes, h]
  decide
/-- R263: an error whose first two syndromes are 0, and not all, is beyond the code. -/
theorem locate_none (syn : List Nat) (h0 : syn.getD 0 0 = 0) (h1 : syn.getD 1 0 = 0) (h : syn.all (· == 0) = false)
    (hn : syn ≠ List.replicate 6 0) : locate syn = none := by
  have h2 (i : Nat) : (syndromes [(i, (0 : Byte))] == syn) = false := by
    rw [show [(i, (0 : Byte))] = [i].map fun i => (i, (0 : Byte)) from rfl, syndromes_zero]; simpa using Ne.symm hn
  have h3 (i k : Nat) : (syndromes [(i, (0 : Byte)), (k, 0)] == syn) = false := by
    rw [show [(i, (0 : Byte)), (k, 0)] = [i, k].map fun i => (i, (0 : Byte)) from rfl, syndromes_zero]; simpa using Ne.symm hn
  have e : BitVec.ofNat 8 0 = (0 : Byte) := rfl
  simp only [locate, h, h0, h1, gfMul_zero, Nat.xor_self, e, h2, h3, Bool.false_eq_true, if_false]
  rw [List.find?_eq_none.mpr (by simp), List.find?_eq_none.mpr (by simp)]
  rfl
theorem syndromes_bad : syndromes [(71, (6 : Byte)), (70, 5), (69, 3)] = [0, 0, 34, 238, 113, 58] := by
  simp [syndromes, symLocator, gfPow, gfMul, gfMulGo, gfDouble, List.range_succ]
theorem locate_bad : locate (syndromes bad3.sym) = none := by
  show locate (syndromes [(71, (6 : Byte)), (70, 5), (69, 3)]) = none
  rw [syndromes_bad]; exact locate_none _ rfl rfl rfl (by simp [List.replicate])
theorem decode_uncorrectable (bs : Bytes) (m : LineMeta) (h : locate (syndromes m.sym) = none) : (decodeLine bs m).1 = .uncorrectable := by
  simp [decodeLine, h]
theorem wit_scrub_bad (bs : Bytes) : (decodeLine bs bad3).1 = .uncorrectable := decode_uncorrectable bs bad3 locate_bad
theorem test_bad_tag : (decodeLine (List.replicate 64 0) { tagXor := 1 }).1 = .badTag := by decide +kernel
/-- R252's worked example: 0x52_3456_7840 in the two maps. -/
theorem test_address_map : stackOf host 0x5234567840 = 10 ∧ channelOf host 0x5234567840 = 8
    ∧ stackOf (host.setReg .hbmMap 1 0 1) 0x5234567840 = 8 ∧ channelOf (host.setReg .hbmMap 1 0 1) 0x5234567840 = 15 := by decide +kernel
def readings : List (Option (BitVec 8)) := some 96 :: none :: List.replicate 30 (some 20)
theorem wit_temps : readings.length = 32 ∧ (∀ k < 4, (scrubbing 0 {}).domainOn (60 + k) = true) ∧ readings[0]? = some (some 96)
    ∧ readings[1]? = some none
    ∧ sget 0 ({ scrubbing 0 {} with m := { (scrubbing 0 {}).m with failedReads := [(1, 2)] } } : State).m.failedReads 1 = 2 := by decide +kernel

/-! Witnesses and tests: boot, configuration, firmware, rungs (14, 15), power and thermal control (13). -/

theorem wit_power_on : State.reset.m.supplied = false ∧ Memory.wf State.reset = true ∧ host.m.supplied = true := by decide +kernel
theorem test_power_on : (after .inputQualified State.reset).m.bootStage = .verify := by decide +kernel
def booting (b : BootStage) : State := { State.reset with m := { supplied := true, st := .boot, bootStage := b } }
/-- R531: an empty slot fails check 1; a right header alone fails check 4. -/
def headed : FwSlot := { mem := ((wordsBytes [place 32 32 0x46576432 ||| place 16 16 1 ||| 0x6432, 0, 0, 0, 0]).zipIdx.filter fun x => x.1 ≠ 0).map fun x => (x.2, x.1) }
theorem wit_boot : ∀ b ∈ [BootStage.verify, .training], (booting b).m.supplied = true ∧ (booting b).m.st = .boot ∧ (booting b).m.bootStage = b
    ∧ Memory.wf (booting b) = true := by decide +kernel
theorem wit_boot_failing : failingCheck (booting .verify) ((booting .verify).slot 0) = some 1 ∧ failingCheck (booting .verify) ((booting .verify).slot 1) = some 1
    ∧ selectedSlot (booting .verify) = 0 ∧ failingCheck (booting .verify) headed = some 4 := by decide +kernel

def waitHost (hw : Bool) : State := { host with m := { host.m with st := .waitHost, hwFailed := hw } }
theorem wit_cfg_load : accepts (waitHost false) req 0x40 = true ∧ Lists.wf (waitHost false) = true ∧ accepts (waitHost true) req 0x40 = true
    ∧ (4294959104 : BitVec 32).toNat + 8192 ≤ 2 ^ 32 := by decide +kernel
theorem test_cfg_load : sget 0 (after (.cfgLoad req 5 [0, 9]) (waitHost false)).c.staged 6 = 9 ∧ sget false (after (.cfgLoad req 5 [0, 9]) (waitHost false)).c.received 5 = true := by
  decide +kernel
/-- Table 14-8: an image with nothing received is incomplete at its first byte (reason 2); failed hardware comes first. -/
theorem wit_cfg_commit : accepts (waitHost false) req 0x41 = true ∧ (waitHost false).m.rung = .none ∧ Memory.wf (waitHost false) = true
    ∧ commitFailure (waitHost false) 0 = some (2, 0) ∧ commitFailure (waitHost true) 0 = some (1, 0) := by decide +kernel
def committing : State := { hostT with m := { hostT.m with st := .committing }, c := { commit := some 1 } }
theorem wit_commit_complete : committing.m.st = .committing ∧ committing.c.commit = some 1 ∧ (committing.ticket 1).isSome = true
    ∧ Memory.wf committing = true ∧ Lists.wf committing = true := by decide +kernel

theorem wit_fw_update : accepts host req 0x42 = true ∧ Lists.wf host = true ∧ (16769024 : BitVec 32).toNat % 64 = 0
    ∧ (16769024 : BitVec 32).toNat + 8192 ≤ 16777216 ∧ 16777216 < (16777216 : BitVec 32).toNat + 1 := by decide +kernel
theorem wit_fw_incomplete : imageComplete (host.slot (1 - runSlot host)) = false := by decide +kernel
/-- Every byte of an image without payload has been received; its header is empty. -/
def fullSlot : FwSlot := { got := (List.range 4224).map fun i => (i, true) }
theorem wit_fw_failing : failingCheck host fullSlot = some 1 ∧ imageLength fullSlot = 0 := by decide +kernel
theorem sget_range (n a k : Nat) (h : a ≤ k) (hk : k < a + n) : sget false ((List.range' a n).map fun i => (i, true)) k = true := by
  induction n generalizing a with
  | zero => omega
  | succ n ih =>
    by_cases hx : a = k
    · simp [List.range'_succ, sget, hx]
    · simp [List.range'_succ, sget, hx, ih (a + 1) (by omega) (by omega), show a ≤ k by omega]
theorem wit_fw_complete : imageComplete fullSlot = true := by
  have hl : imageLength fullSlot = 0 := by decide +kernel
  have h (k : Nat) (hk : k < 4224) : sget false fullSlot.got k = true := by
    rw [fullSlot, List.range_eq_range']; exact sget_range 4224 0 k (by omega) (by omega)
  simp only [imageComplete, hl, Bool.and_eq_true, List.all_eq_true, List.mem_range]
  exact ⟨fun x hx => h x (by omega), fun x hx => h _ (by omega)⟩
def attesting (e : Option (BitVec 25)) (spent : Bool) : State :=
  { host with h := { host.h with portA := { lastSid := 1, session := some { ses with egress := e } } }, sec := { host.sec with hssSpent := spent } }
theorem wit_attest : ∀ e ∈ [none, some 64], ∀ b ∈ [false, true], accepts (attesting e b) req 0x43 = true
    ∧ (attesting e b).session 0 = some { ses with egress := e } ∧ Memory.wf (attesting e b) = true ∧ (attesting e b).fld .secHssIndex 0 0 0 20 < 0xFFFFF :=
  each (by decide +kernel)

theorem wit_rungs : accepts host req 0x44 = true ∧ Memory.wf host = true ∧ Lists.wf host = true ∧ host.m.rung = .none ∧ noneInFlight host = true
    ∧ rungAllowed host = true ∧ noneInFlight (fly 300 [] .issued host) = false ∧ accepts (waitHost false) req 0x44 = true
    ∧ rungAllowed { host with m := { host.m with st := .committing } } = false := by decide +kernel
theorem wit_rung_drain : let s : State := { fly 300 [] .issued hostT with m := { hostT.m with st := .resetting, rung := .function 1 0 } }
    s.m.rung = .function 1 0 ∧ s.maint.running = [] ∧ noneInFlight s = false ∧ (s.ticket 1).isSome = true ∧ Memory.wf s = true ∧ Lists.wf s = true := by
  decide +kernel
theorem wit_rung_start : ∀ r ∈ [Rung.module, .power], let s : State := { host with m := { host.m with delayed := [(r, 5)] } }
    s.m.delayed = [(r, 5)] ∧ hardRepair s = false ∧ Memory.wf s = true := by decide +kernel
theorem test_rung_start : (after .rungStart { host with m := { host.m with delayed := [(.module, 5)] } }).m.lastRung = 2
    ∧ (after .rungStart { host with m := { host.m with delayed := [(.power, 5)] } }).m.powerCode = true := by decide +kernel

/-- Domain 3 as given. -/
def dom3 (x : Domain) : State := { hostT with m := { hostT.m with domains := [(3, x)] } }
def req3 (on : Bool) : DomReq := ⟨on, 1, 0⟩
theorem wit_domain : accepts (dom3 {}) req 0x91 = true ∧ Memory.wf (dom3 {}) = true ∧ Lists.wf (dom3 {}) = true ∧ switchable 3 = true
    ∧ switchable 60 = false ∧ switchable 76 = false ∧ ((dom3 { waiting := [req3 true, req3 false] }).domain 3).waiting.length = 2
    ∧ ((dom3 { st := .on }).domain 3).st = .on ∧ ((dom3 {}).domain 3).st = .off ∧ ((dom3 { st := .rampUp }).domain 3).st = .rampUp := by decide +kernel
/-- R482: a group with work in flight is not quiet; a session cannot turn off its own port. -/
theorem wit_domain_off : offRefusal (dom3 { st := .on }) 3 (req3 false) = none ∧ offRefusal hostT 77 (req3 false) = some 0x0108 := by decide +kernel
theorem wit_ramp : ∀ z ∈ [(DomState.rampUp, true), (.rampUp, false), (.rampDown, true)],
    let s := dom3 { st := z.1, active := z.2, due := 5, turn := some (req3 (z.1 == .rampUp)) }
    (s.domain 3).waiting = [] ∧ (s.domain 3).turn = some (req3 (z.1 == .rampUp)) ∧ (s.ticket 1).isSome = true ∧ Memory.wf s = true ∧ Lists.wf s = true
    ∧ (s.domain 3).st = z.1 ∧ (s.domain 3).active = z.2 := by decide +kernel
theorem test_ramp_done : ((after (.domainRampDone 3) (dom3 { st := .rampUp, active := true, turn := some (req3 true) })).domain 3).st = .on := by decide +kernel

/-- The cap of 1,000 W, VMIN 600, HYST 3, REINED_MV 700 of 13.4's worked example, at an operating point. -/
def reining (v g : Nat) : State :=
  let s := ((host.setFld .pwrCap 0 0 0 12 1000).setFld .pwrVlimit 0 0 0 10 600).setFld .pwrVlimit 0 0 16 10 750
  setPoint ((s.setFld .pwrReinCtrl 0 0 16 4 3).setFld .pwrReinCtrl 0 0 0 10 700) v g
theorem wit_rein : ∀ z ∈ [(750, 100), (600, 100), (600, 65), (600, 10)], let s := reining z.1 z.2
    reinRuns s = true ∧ Memory.wf s = true ∧ vmin s ≤ vcore s ∧ vcore s ≤ vmax s ∧ vmax s ≤ 850 ∧ 10 ≤ gate s ∧ gate s ≤ 100 ∧ capWatts s = 1000 := by
  decide +kernel
theorem wit_cap : accepts host req 0x90 = true ∧ 1000 ≤ (1000 : BitVec 12).toNat ∧ (3600 : BitVec 12).toNat ≤ 3600 ∧ (999 : BitVec 12).toNat < 1000
    ∧ 3600 < (3601 : BitVec 12).toNat := by decide +kernel
/-- R489's worked example, row by row. -/
theorem test_rein_example : nextPoint (reining 750 100) 3200 750 100 true = (700, 100) ∧ nextPoint (reining 750 100) 2400 700 100 true = (650, 100)
    ∧ nextPoint (reining 750 100) 1700 650 100 true = (600, 100) ∧ nextPoint (reining 750 100) 1150 600 100 true = (600, 95)
    ∧ nextPoint (reining 750 100) 1017 600 70 true = (600, 65) ∧ nextPoint (reining 750 100) 995 600 65 true = (600, 65) := by decide +kernel
theorem wit_gate : ({ host with m := { host.m with gateLevel := 95 } } : State).m.gateOpen = true ∧ reinRuns host = true := by decide +kernel
theorem test_gate : (after (.gateWindow true) { host with m := { host.m with gateLevel := 95 } }).m.gateOpen = false := by decide +kernel
theorem wit_reined_exit : ({ host with m := { host.m with reinedEnd := some 5 } } : State).m.reinedEnd = some 5 := by decide +kernel

theorem wit_samples : host.m.supplied = true ∧ Memory.wf host = true ∧ reinRuns host = true ∧ ([(700 : BitVec 14), 800, 800, 800, 800, 1200].length = 6)
    ∧ ((List.replicate 7 (some (90 : BitVec 8))).length = 7) := by decide +kernel
def limiting : State := (reining 700 100).setFld .pwrStat 0 0 3 1 1
theorem wit_limit : reinRuns limiting = true ∧ bit (limiting.reg .pwrStat 0 0) 3 = true ∧ vmin limiting < vcore limiting
    ∧ vcore ((reining 600 100).setFld .pwrStat 0 0 3 1 1) ≤ vmin ((reining 600 100).setFld .pwrStat 0 0 3 1 1) := by decide +kernel
/-- R495: a rail at 700 mV is below its minimum of 740. -/
theorem test_rail : bit ((sampleRail host 0 700).reg .pwrRail 0 0) 29 = true ∧ bit ((sampleRail host 0 790).reg .pwrRail 0 0) 28 = true
    ∧ bit ((sampleRail host 0 800).reg .pwrRail 0 0) 28 = false := by decide +kernel
def hot : State := { (host.setReg .thmJunc 2 0 105) with m := { host.m with hotJunctions := [(2, 3)] } }
theorem wit_trip : hot.m.supplied = true ∧ hot.m.st ≠ .tripped ∧ tripCause hot = some (srcDie 2, 105, false) ∧ Memory.wf hot = true ∧ Lists.wf hot = true := by
  decide +kernel

/-! Witnesses and tests: dispatch (05). -/

/-- COPY of 64 bytes of HBM at 0 to the bench at 0. -/
def copyWords (slot : Nat) : List Word := descOf 0x20 slot [(5, ref 1 0 0), (6, ref 2 0 0), (7, place 24 20 1 ||| 64)]
def nopWords : List Word := descOf 0 0 []
/-- Every line of HBM is good, and no stack is locked. -/
theorem readable_of (s : State) (c : Machine.Class) (a n : Nat) (h : a + n ≤ hbmSize) (hd : denied s c false a n = none) (hl : s.mem.lines = []) :
    Readable s c a n := ⟨h, hd, fun l _ => by simp [State.lineMeta, hl, sget]⟩
theorem writable_of (s : State) (c : Machine.Class) (a n : Nat) (h : a + n ≤ hbmSize) (hd : denied s c true a n = none) (hl : s.mem.lines = []) :
    Writable s c a n := ⟨h, hd, fun l _ => by simp [State.lineMeta, hl, sget]⟩
theorem unlocked_of (s : State) (h : s.maint.running = []) (a n : Nat) : hbmLocked s a n = false := by
  simp [hbmLocked, stackLocked, h]

/-- Stirrup 5 with some words fetched; 0 of ring 4. -/
def onHead (ws : List Word) : State := heading 5 ws host
theorem wit_fetch : ((onHead nopWords).stir 5).st = .run ∧ ringSlots (onHead nopWords) 5 = 4 ∧ ((onHead nopWords).stir 5).fetched.length ≤ 24
    ∧ Lists.wf (onHead nopWords) = true ∧ (onHead nopWords).mem.lines = [] ∧ (onHead nopWords).maint.running = []
    ∧ ∀ i < 8, denied (onHead nopWords) .fetch false (128 * slotAfter (onHead nopWords) 5 (1 + i)) 128 = none := by decide +kernel
theorem wit_stop : let s := (onHead nopWords).setReg .dspStopSlot 5 0 0x80000000 |>.setReg .dspStopStep 5 0 1
    stopsAt s 5 (s.stir 5).head (s.stepOf 5) = true ∧ (s.stir 5).st = .run ∧ ringSlots s 5 ≠ 0 ∧ Lists.wf s = true := by decide +kernel
def badHead : List Word := nopWords.set 1 0
theorem wit_bad_complement : ((onHead badHead).stir 5).fetched.head? = some ⟨0, badHead, none⟩ ∧ dWord badHead 8 ≠ ~~~dWord badHead 0
    ∧ stopsAt (onHead badHead) 5 ((onHead badHead).stir 5).head ((onHead badHead).stepOf 5) = false
    ∧ recordLocked (onHead badHead) 5 0 = false ∧ denied (onHead badHead) .fetch true (cplAddr (onHead badHead) 5 0) 32 = none
    ∧ Memory.wf (onHead badHead) = true := by decide +kernel
theorem test_bad_complement : ((after (.descriptorIssue 5) (onHead badHead)).stir 5).st = .halted := by decide +kernel
/-- Check 3: an unknown opcode, one of a die stirrup, a wrong slot (Table 5-10, R587). -/
theorem wit_check_three : checkThree 5 (some 0) (descOf 0x7F 0 []) = some 0x05 ∧ checkThree 5 (some 0) (descOf 0x40 0 []) = some 0x06
    ∧ checkThree 5 (some 0) (descOf 0 1 []) = some 0x04 ∧ checkThree 5 (some 0) nopWords = none := by decide +kernel
def banked (b : Nat) : State := { onHead nopWords with d := { (onHead nopWords).d with banks := [(b, { st := .sealed, gen := 1 })] } }
theorem wit_banks : bankHolds (banked 2) 0 0 1 = false ∧ bankHolds (banked 2) 0 1 1 = false ∧ bankHolds (banked 1) 0 1 1 = true
    ∧ bankHolds (banked 1) 0 0 1 = false ∧ ((banked 1).stir 5).bank ≤ 1 ∧ dKgen nopWords = 1 := by decide +kernel
theorem wit_head_ready : checkThree 5 (some 0) nopWords = none ∧ bankHolds (onHead nopWords) 0 0 1 = true
    ∧ (onHead nopWords).reg .dspStepInv 5 0 = ~~~(onHead nopWords).stepOf 5 ∧ waitOn (dWait nopWords 0) = false ∧ waitOn (dWait nopWords 1) = false
    ∧ waitsMet (onHead nopWords) nopWords 1 = true ∧ slotFree (onHead nopWords) 5 nopWords = true ∧ (onHead nopWords).m.gateOpen = true
    ∧ (ownIssue 5 0 nopWords (onHead nopWords)).1 = none := by decide +kernel
def waitWords : List Word := descOf 0 0 [(2, placeBit 63 true ||| place 48 12 9 ||| place 24 24 1 ||| place 0 24 0xFFFFFE)]
theorem wit_head_waits : let s := (onHead waitWords).setReg .dspCtr 9 0 (place 24 24 0xFFFFFF)
    waitOn (dWait waitWords 0) = true ∧ waitTermInv (dWait waitWords 0) = 2 ^ 24 - 1 - waitTerm (dWait waitWords 0)
    ∧ ctrInv s 9 = 2 ^ 24 - 1 - ctrValue s 9 ∧ waitsMet s waitWords 1 = false ∧ checkThree 5 (some 0) waitWords = none := by decide +kernel
theorem wit_head_held : slotFree (fly 5 (copyWords 0) .issued host) 5 (copyWords 0) = true
    ∧ slotFree (fly 300 (descOf 0x38 0 []) .issued (fly 300 (descOf 0x01 0 []) .issued host)) 300 (descOf 0x01 0 []) = true
    ∧ slotFree (fly 300 (descOf 0x01 0 []) .issued host) 300 (descOf 0x01 0 []) = false := by decide +kernel
theorem test_issue : ((after (.descriptorIssue 5) (onHead nopWords)).stir 5).head = 1
    ∧ ((after (.descriptorIssue 5) (onHead nopWords)).stir 5).flight.length = 1 := by decide +kernel

/-- A descriptor of stirrup 5 that has ended; SIGNAL names counter 9, and EVENT as given. -/
def endedWords (ev : Bool) : List Word :=
  let w0 : Word := dWord (descOf 0x20 0 []) 0 ||| placeBit 38 ev
  ((descOf 0x20 0 [(4, placeBit 31 true ||| 9)]).set 0 w0).set 1 (~~~w0)
def ended (ev : Bool) (fault : Option (Nat × Word)) : State :=
  let s := fly 5 (endedWords ev) .ended (host.setReg .dspCplBase 5 0 4096)
  { s with d := { s.d with stirrups := [(5, { st := .run, flight := [{ flyOf (endedWords ev) .ended with fault := fault }] })] } }
theorem wit_complete : ∀ z ∈ [(true, none), (false, none), (true, some (0x21, (64 : Word)))], let s := ended z.1 z.2
    ((s.stir 5).flight.find? fun f : InFlight => f.slot == (0 : BitVec 24).toNat && f.phase == .ended) = some { flyOf (endedWords z.1) .ended with fault := z.2 }
    ∧ recordLocked s 5 0 = false ∧ s.m.rung = .none ∧ Memory.wf s = true ∧ Lists.wf s = true ∧ dEvent (endedWords z.1) = z.1
    ∧ denied s .fetch true (cplAddr s 5 0) 32 = none ∧ cplAddr s 5 0 = 4096 ∧ s.mem.lines = [] ∧ (s.stir 5).st ≠ .off := by decide +kernel
/-- R178: the counter named by SIGNAL is signalled only without a fault. -/
theorem test_complete_signals : (after (.descriptorComplete 5 0) (ended true none)).d.signals = [9]
    ∧ (after (.descriptorComplete 5 0) (ended true (some (0x21, 64)))).d.signals = [] := by decide +kernel
theorem wit_nop : oldest (fly 5 nopWords .issued host) 5 0x00 .issued = some (flyOf nopWords .issued)
    ∧ recordLocked (fly 5 nopWords .issued host) 5 0 = false ∧ Lists.wf (fly 5 nopWords .issued host) = true := by decide +kernel
def begins (got : Bool) : State :=
  let s := fly 300 (descOf 0x01 0 []) .issued fed
  if got then { s with a := { s.a with got := [(0, ([0, 1, 2, 3] : List Nat).map fun k => (2048 * k, true))] } } else s
theorem wit_step_begin : ∀ b ∈ [true, false], oldest (begins b) 300 0x01 .issued = some (flyOf (descOf 0x01 0 []) .issued) ∧ Lists.wf (begins b) = true
    ∧ (begins b).role ≠ 0xFFF ∧ 1 ≤ stepDiff 1 (lastReleased (begins b)) ∧ stepDiff 1 (lastReleased (begins b)) ≤ depth (begins b)
    ∧ inputsComplete (begins b) 1 = b := by decide +kernel
def signalling : State := { host with d := { host.d with signals := [9, 4, 9] } }
theorem wit_signal : 9 ∈ signalling.d.signals ∧ Memory.wf signalling = true ∧ ctrGood signalling 9 = true := by decide +kernel
theorem test_signal : let t := after (.counterSignal 9) signalling; ctrValue t 9 = 1 ∧ t.d.signals = [4, 9] ∧ ctrGood t 9 = true := by decide +kernel

def switching : State := { banked 1 with d := { (banked 1).d with stirrups := [(5, { st := .run, fetched := [⟨0, nopWords, none⟩], switching := true })] } }
theorem wit_bank_switch : (switching.stir 5).switching = true ∧ headCheck switching 5 = .hold 4
    ∧ ((switching.stir 5).flight.all fun f : InFlight => !fetches (switching.stir 5).bank f) = true := by decide +kernel
theorem wit_quiescent : host.d.quiescent = false ∧ isQuiescent host = true ∧ isQuiescent (onHead nopWords) = false := by decide +kernel
/-- Stirrup 5 may prefetch the COPY after its head (R188). -/
def ahead : State :=
  let s := ((onHead nopWords).setFld .dspCtrl 5 0 12 4 2).setFld .dspCtrl 5 0 0 9 1
  { s with d := { s.d with stirrups := [(5, { st := .run, fetched := [⟨0, nopWords, none⟩, ⟨1, copyWords 1, none⟩] })] } }
theorem wit_run_ahead : ((ahead.stir 5).fetched.zipIdx.find? fun z : Fetched × Nat => eligible ahead 5 z.2 z.1) = some (⟨1, copyWords 1, none⟩, 1)
    ∧ (match storeModeOf ahead (copyWords 1) (stepAfter ahead 5 1) with | .ok _ => true | .error _ => false) = true
    ∧ Lists.wf ahead = true ∧ Memory.wf ahead = true ∧ ahead.mem.lines = [] := by decide +kernel
theorem test_run_ahead : ((after (.runAheadPrefetch 5) ahead).stir 5).prefetched = [1] := by decide +kernel
theorem wit_halt : ∀ c ∈ [0x50, 0x51, 0x52, 0x53], accepts (onHead nopWords) req c = true := by decide +kernel
def asked (st : StirrupState) (r : Option Bool) : State := powered [1] { host with d := { host.d with stirrups := [(5, { st := st, request := r })] } }
theorem wit_halt_arrives : ∀ h ∈ [true, false], ((asked .run (some h)).stir 5).st = .run ∧ ((asked .run (some h)).stir 5).request = some h := by decide +kernel
theorem test_halt_arrives : ((after (.haltRequestArrival 5) (asked .run (some true))).stir 5).st = .halted
    ∧ ((after (.haltRequestArrival 5) (asked .run (some false))).stir 5).st = .stopped := by decide +kernel
theorem wit_resume : ((asked .stopped none).stir 5).st = .stopped ∧ (asked .stopped none).domainOn (stirrupDomain 5) = true ∧ (asked .stopped none).a.dry = none
    ∧ ((asked .halted none).stir 5).st = .halted ∧ accepts (asked .stopped none) req 0x51 = true ∧ Memory.wf (asked .stopped none) = true
    ∧ Lists.wf (asked .stopped none) = true := by decide +kernel
theorem test_resume : ((after (.dspResume req 5) (asked .stopped none)).stir 5).st = .run ∧ status (after (.dspResume req 5) (asked .halted none)) = some 0x0601 := by
  decide +kernel
theorem test_stop_at : (after (.dspStopAt req 5 7 3 true) host).reg .dspStopSlot 5 0 = 0x80000003 := by decide +kernel
theorem wit_snapshot : snapFits 3 [0] (snapRanges (field (([0] : List Word).headD 0) 0 7) ([0] : List Word).tail) = true ∧ isQuiescent host = true := by decide +kernel
/-! Witnesses: SaddlesMultiplyInFixedOrder, DrainsChecksAndScaleLoads. -/

/-- MATMUL of saddle 5, M = N = K = 1, E4M3 at bench 0 and 8,192, G = 16, FP32 accumulators, drained as FP32 to 65,536. -/
def matWs (accum : Bool) : List Word := descOf 0x10 0 [(5, ref 2 5 0), (6, ref 2 5 8192), (7, ref 2 2 65536),
  (14, place 52 9 1 ||| place 43 9 1 ||| place 22 21 1 ||| place 18 2 2 ||| placeBit 16 accum ||| placeBit 13 true)]
def benched (xs : List (Nat × Byte)) (s : State) : State := { s with mem := { s.mem with bench := xs.map fun x => (5 * 3145728 + x.1, x.2) } }
/-- A is 2, B is 3. -/
def mat0 : State := benched [(0, 0x40), (8192, 0x44)] (fly 5 (matWs false) .issued host)
def matRun (pass groups drained : Nat) (cs : List ShadowCheck) : MatRun :=
  { slot := 0, step := 1, guard := 0, narrow := 0, hist := 0, pass := pass, groups := groups, drained := drained, checks := cs }
def matting (ph : Nat × Nat × Nat) (cs : List ShadowCheck) (y : Saddle) : State :=
  { benched [(0, 0x40), (8192, 0x44)] (fly 5 (matWs false) .executing host) with sdl := [(5, { y with runs := [matRun ph.1 ph.2.1 ph.2.2 cs] })] }
theorem wit_matmul : oldest mat0 5 0x10 .issued = some (flyOf (matWs false) .issued) ∧ matMayStart mat0 5 (flyOf (matWs false) .issued) = true
    ∧ Memory.wf mat0 = true ∧ Lists.wf mat0 = true ∧ tileFault mat0 5 (matOf (matWs false)) = none
    ∧ (matOf (matWs false)).narrow = false ∧ isBlock (matOf (matWs false)).b.fmt = false ∧ (matOf (matWs false)).acc = some .fp32
    ∧ ((mat0.stir 5).flight.filter fun g : InFlight => g.slot == 0 && g.step == 1) = [flyOf (matWs false) .issued] := by decide +kernel
theorem wit_matmul_bench : benchBad mat0 5 8192 1024 = none ∧ ∀ x ∈ benchWordsOf 8192 1024, mat0.benchWord 5 x = .good := by decide +kernel
theorem wit_matmul_fault : tileFault (mat0.setFld .sdlStat 5 0 24 1 1) 5 (matOf (matWs true)) = some 0x12 := by decide +kernel
theorem test_matmul : ((after (.matmul 5) mat0).saddle 5).runs.map (fun r => (r.slot, r.pass, r.groups)) = [(0, 0, 0)] := by decide +kernel
theorem test_matmul_shadow : sget 0 ((after (.matmul 5) mat0).saddle 5).shadow 0 = 0x4008000000000000 := by decide +kernel
def st3 : Saddle := { shadow := [(0, 0x4008000000000000)], active := [(0, 0x4008000000000000)] }
theorem wit_switch : ∀ g ∈ [0, 1], streaming (matting (0, g, 0) [] st3) 5 = some (matRun 0 g 0 []) ∧ Memory.wf (matting (0, g, 0) [] st3) = true
    ∧ Lists.wf (matting (0, g, 0) [] st3) = true ∧ (matting (0, g, 0) [] st3).m.gateOpen = true := by decide +kernel
theorem wit_switch_bench : let s := matting (0, 1, 0) [] st3
    benchBad s 5 0 (33 * 32) = none ∧ ∀ x ∈ benchWordsOf 0 (33 * 32), s.benchWord 5 x = .good := by decide +kernel
/-- The second of four groups of 8. -/
def midway : State :=
  { matting (0, 1, 0) [] st3 with d := (fly 5 ((matWs false).set 14 (dWord (matWs false) 112 - place 18 2 1)) .executing host).d }
theorem wit_switch_mid : streaming midway 5 = some (matRun 0 1 0 []) ∧ Memory.wf midway = true ∧ Lists.wf midway = true ∧ midway.m.gateOpen = true
    ∧ (matOf (matWords midway 5 (matRun 0 1 0 []))).q = 4 ∧ (matOf (matWords midway 5 (matRun 0 1 0 []))).quad = false := by decide +kernel
/-- 2 × 3 = 6, in FP32. -/
theorem test_switch : sget 0 ((after (.weltSwitch 5 1) (matting (0, 1, 0) [] st3)).saddle 5).tiles 0 = 0x40C00000 := by decide +kernel

/-! The drain, its checks, SCALE_LOAD. -/

def st6 : Saddle := { tiles := [(0, 0x40C00000)] }
def draining (cs : List ShadowCheck) : State := matting (1, 0, 0) cs st6
theorem wit_drain : let s := draining []
    drainable s 5 = some (matRun 1 0 0 []) ∧ matFlight s 5 (matRun 1 0 0 []) = some (flyOf (matWs false) .executing)
    ∧ scalePending s 5 (flyOf (matWs false) .executing) (matOf (matWs false)) 0 = false ∧ Memory.wf s = true ∧ Lists.wf s = true
    ∧ tileFlag s 5 0 3 = false ∧ srfBad s 5 (matOf (matWs false)) 0 = false ∧ (storeModeOf s (matWs false) 1).isOk = true
    ∧ (matOf (matWs false)).d.space = 2 ∧ isBlock (matOf (matWs false)).d.fmt = false ∧ dHist (matWs false) = 0
    ∧ (matOf (matWs false)).dscale = 0 ∧ (matOf (matWs false)).fused = 0 ∧ (matOf (matWs false)).amaxDst = none := by decide +kernel
theorem wit_drain_invalid : tileFlag ((draining []).setFld .sdlAccFlags 5 0 3 1 1) 5 0 3 = true := by decide +kernel
theorem test_drain : (after (.tileDrain 5) (draining [])).benchRaw 5 65536 4 = [0, 0, 0xC0, 0x40]
    ∧ (((after (.tileDrain 5) (draining [])).stir 5).flight.map fun f => (f.phase, f.fault)) = [(.ended, none)] := by decide +kernel
/-- A per-channel scale entry with a reserved bit (Table 4-7). -/
def scaledWs : List Word := (matWs false).set 15 (place 60 2 2)
theorem wit_drain_srf : srfBad ((draining []).setReg .sdlSrf 5 0 64) 5 (matOf scaledWs) 0 = true := by decide +kernel
def check0 (b : Nat) : ShadowCheck := ⟨0, 0, 0, 0, 0x40C00000, b, 0, 0⟩
def sumChecking (b : Nat) (act : Word) : State :=
  { draining [] with sdl := [(5, { st6 with runs := [{ matRun 1 0 0 [check0 b] with narrow := act }] })] }
theorem wit_sum_verdict : ∀ z ∈ [(0x40C00000, (0 : Word)), (0x40C00001, 0), (0x40C00001, 0x200)], let s := sumChecking z.1 z.2
    ((s.saddle 5).runs.find? fun r : MatRun => !r.checks.isEmpty) = some { matRun 1 0 0 [check0 z.1] with narrow := z.2 }
    ∧ Memory.wf s = true ∧ Lists.wf s = true
    ∧ (matOf (matWords s 5 { matRun 1 0 0 [check0 z.1] with narrow := z.2 })).acc = some .fp32
    ∧ matFlight s 5 { matRun 1 0 0 [check0 z.1] with narrow := z.2 } = some (flyOf (matWs false) .executing) := by decide +kernel
theorem wit_sum_bad : mismatch .fp32 0 0x40C00000 0x40C00001 = true ∧ mismatch .fp32 0 0x40C00000 0x40C00000 = false
    ∧ mismatch .fp32 1 0x40C00000 0x40C00001 = false ∧ bit (0x200 : Word) 9 = true := by decide +kernel
theorem test_sum_verdict : (after (.shadowCheckVerdict 5) (sumChecking 0x40C00000 0)).fld .sdlShadowCnt 5 0 0 40 = 1
    ∧ (after (.shadowCheckVerdict 5) (sumChecking 0x40C00001 0)).fld .sdlShadowCnt 5 0 40 24 = 1
    ∧ tileFlag (after (.shadowCheckVerdict 5) (sumChecking 0x40C00001 0x200)) 5 0 3 = true := by decide +kernel
/-- A checker stream of A that slips at block 0 (Table 4-6): tags 0 and 1 of block 0. -/
def slipWs : List Word := (((matWs false).set 5 (ref 2 13 0)).set 6 (ref 2 13 8192))
def slipping : State :=
  let r : MatRun := { matRun 1 0 0 [check0 0x40C00000] with slips := [⟨false, true, .first, 0, 1⟩] }
  { draining [] with sdl := [(5, { st6 with runs := [r] })], d := (fly 5 slipWs .executing host).d }
theorem wit_sum_skew : ((slipping.saddle 5).runs.map fun r => checkerSkew (matOf slipWs) r (check0 0x40C00000)) =
      [some ⟨false, some ⟨0, 0, 1⟩, none⟩]
    ∧ (((slipping.saddle 5).runs.map fun r => matFlight slipping 5 r) = [some (flyOf slipWs .executing)]) := by decide +kernel
theorem test_sum_skew : ((((after (.shadowCheckVerdict 5) slipping).stir 5).flight.map fun f => f.fault) = [some (0x1D, 0)])
    ∧ (after (.shadowCheckVerdict 5) slipping).reg .sdlSkewLast 5 0 = 0x82000001 := by decide +kernel
def scaleWs : List Word := descOf 0x11 0 [(5, ref 2 0 256), (6, place 32 10 1022 ||| 2)]
def scaling : State := benched [(256, 7), (264, 9)] (fly 5 scaleWs .issued host)
theorem wit_scale : oldest scaling 5 0x11 .issued = some (flyOf scaleWs .issued) ∧ scaleHeld scaling 5 (flyOf scaleWs .issued) = false
    ∧ Memory.wf scaling = true ∧ Lists.wf scaling = true ∧ benchBad scaling 5 256 16 = none
    ∧ ∀ x ∈ benchWordsOf 256 16, scaling.benchWord 5 x = .good := by decide +kernel
theorem test_scale : (after (.scaleLoad 5) scaling).reg .sdlSrf 5 1022 = 7 ∧ (after (.scaleLoad 5) scaling).reg .sdlSrf 5 1023 = 9 := by decide +kernel

/-! Witnesses: VectorLanesCompute, VectorUnitsMoveAndRun. -/

/-- An instruction's fields below its opcode (Table 6-4): TYPE, VD, VA, VB, VC, IMM. -/
def vf (ty vd va vb vc imm : Nat) : BitVec 56 :=
  BitVec.setWidth 56 (place 49 3 ty ||| place 43 6 vd ||| place 37 6 va ||| place 31 6 vb ||| place 25 6 vc ||| place 0 25 imm)
def unit5 : VecUnit := .saddle 5
def unitB : VecUnit := .burnisher 2
theorem wit_vec_unit : ∀ u ∈ [unit5, unitB], (host.vecOf u).running = false ∧ (host.vecOf u).wait = none ∧ (host.vecOf u).need = 0
    ∧ host.m.gateOpen = true ∧ Lists.wf host = true := by decide +kernel
/-- A legal form of each lane-wise opcode (Table 6-5). -/
def laneForms : List (Nat × BitVec 56) :=
  [0x10, 0x11, 0x12, 0x19, 0x1A].map (fun op => (op, vf 3 1 2 3 0 0)) ++ [(0x13, vf 0 1 2 3 4 0), (0x14, vf 1 1 2 3 0 0)]
    ++ [0x15, 0x16, 0x17, 0x18, 0x1B, 0x1C, 0x1E].map (fun op => (op, vf 1 1 2 0 0 0)) ++ [(0x1D, vf 1 1 2 0 0 3)]
    ++ [0x20, 0x21, 0x22, 0x23, 0x24, 0x25, 0x26, 0x27].map (fun op => (op, vf 2 1 2 3 0 0))
    ++ [(0x30, vf 0 1 2 3 0 2), (0x31, vf 0 1 2 3 0 1), (0x32, vf 0 1 2 3 0 0), (0x33, vf 0 1 2 3 0 0), (0x34, vf 0 1 2 0 0 0),
      (0x38, vf 0 1 2 0 0 5), (0x39, vf 3 1 2 0 0 0), (0x3A, vf 1 1 2 0 0 1), (0x3B, vf 2 1 2 3 4 2), (0x3C, vf 3 1 0 0 0 7)]
theorem wit_vec_lanes : ∀ u ∈ [unit5, unitB], ∀ z ∈ laneForms, illegal host u (inBody host u) (vecInstrOf z.1 false z.2) = none := by decide +kernel
theorem wit_vec_scalar_form : ∀ z ∈ laneForms, z.1 ≤ 0x14 → illegal host unitB (inBody host unitB) (vecInstrOf z.1 true z.2) = none := by decide +kernel
theorem wit_vec_illegal : illegal host unit5 (inBody host unit5) (vecInstrOf 0x14 false (vf 2 1 2 3 0 0)) = some 0x29
    ∧ illegal host unit5 (inBody host unit5) (vecInstrOf 0x10 false (vf 3 33 2 3 0 0)) = some 0x2A := by decide +kernel
theorem wit_vec_seed : (seedFor host 7 (host.vecOf unit5).ctx.mirror).isOk = true := by decide +kernel
/-- R228, Table 6-5: INT32 wraps in VADD and saturates in VADDS; the absolute value of the most negative number is stated
nowhere; FP32 0.1 + 0.2; a comparison with a NaN is unordered. -/
theorem test_lanes : laneOp 0x10 3 0 0x7FFFFFFF 1 0 = (some 0x80000000, 0) ∧ laneOp 0x26 3 0 0x7FFFFFFF 1 0 = (some 0x7FFFFFFF, 1)
    ∧ laneOp 0x1B 3 0 0x80000000 0 0 = (none, 0) ∧ laneOp 0x10 1 0 0x3DCCCCCD 0x3E4CCCCD 0 = (some 0x3E99999A, 0)
    ∧ laneOp 0x23 3 0 1 33 0 = (some 2, 0) ∧ laneOp 0x25 3 0 0x80000000 1 0 = (some 0xC0000000, 0)
    ∧ laneCompare 1 4 0x7FC00000 0 = true ∧ laneCompare 1 0 0 0x80000000 = true := by decide +kernel
theorem test_functions : laneOp 0x15 1 0 0x40800000 0 0 = (some 0x40000000, 0) ∧ laneOp 0x16 1 0 0x40800000 0 0 = (some 0x3F000000, 0)
    ∧ laneOp 0x17 1 0 0x40400000 0 0 = (some 0x41000000, 0) ∧ laneOp 0x18 1 0 0x41000000 0 0 = (some 0x40400000, 0) := by decide +kernel
theorem test_reduce : reduceGroup 0x38 3 [some 1, none, some 0x7FFFFFFF, some 5] = some (0x7FFFFFFF, true)
    ∧ reduceGroup 0x39 3 [some 1, none, some 0xFFFFFFFF] = some (1, false) := by decide +kernel
/-- A burnisher with v2 and v3 set in lane 1. -/
def lanes2 : State := { host with vec := [(302, { v := [(2, [(1, 7)]), (3, [(1, 0xFFFFFFFF)])], p := [(2, [(1, true)])], sr := [(4, 9)], ctx := { count := 256 } })] }
theorem test_vadd : (vreg unitB ((after (.vadd unitB false (vf 3 1 2 3 0 0)) lanes2).vecOf unitB) 1).getD 1 0 = 6
    ∧ (vreg unitB ((after (.vadd unitB true (vf 3 1 2 4 0 0)) lanes2).vecOf unitB) 1).getD 0 0 = 9 := by decide +kernel
theorem test_vec_fault : ((after (.vdiv unitB false (vf 2 1 2 3 0 0)) lanes2).vecOf unitB).fault = some ⟨0x29, 0, 0⟩ := by decide +kernel
theorem wit_vec_moves : ∀ z ∈ [(0x04, vf 3 1 0 0 0 0), (0x05, vf 1 1 2 0 0 0), (0x06, vf 1 1 2 0 0 3), (0x07, vf 1 1 2 3 0 0),
      (0x08, vf 0 1 2 3 0 0), (0x09, vf 0 7 0 0 0 0x1FFFFFF), (0x0A, vf 2 1 0 0 0 0), (0x3E, vf 0 0 0 0 0 4096)],
    illegal host unit5 (inBody host unit5) (vecInstrOf z.1 false z.2) = none := by decide +kernel
theorem wit_rep_len : repLen (BitVec.setWidth 64 (vf 0 0 0 0 0 4098)) = 1 := by decide +kernel
theorem test_aadd : areg ((after (.aadd unit5 false (vf 0 7 0 0 0 0x1FFFFFF)) host).vecOf unit5) 7 = -1 := by decide +kernel
/-- A REP of one instruction, three times (R222). -/
def repW : Word := place 56 8 0x3E ||| 4098
def repeating : State := { host with vec := [(5, { block := [repW], need := 1 })] }
theorem wit_rep : (repeating.vecOf unit5).running = false ∧ (repeating.vecOf unit5).wait = none ∧ (repeating.vecOf unit5).need = 1
    ∧ (repeating.vecOf unit5).block = [repW] ∧ (repeating.vecOf unit5).done = 0 ∧ (repeating.vecOf unit5).restarts = 0
    ∧ (repeating.vecOf unit5).fault = none ∧ Lists.wf repeating = true ∧ isRep repW = true ∧ repLen repW = 1 ∧ repCount repW = 3
    ∧ illegal repeating unit5 (inBody repeating unit5) (vinstrOf repW) = none
    ∧ illegal repeating unit5 (inBody repeating unit5) (vecInstrOf 0x09 false (vf 0 7 0 0 0 8)) = none := by decide +kernel
theorem test_rep : areg ((after (.aadd unit5 false (vf 0 7 0 0 0 8)) repeating).vecOf unit5) 7 = 24 := by decide +kernel

/-! Vector memory, kernels, held instructions. -/

/-- A memory instruction in the lanes of p3: TYPE FP32, FMT FP32, address register a0, a displacement of 8 × off. -/
def vm (r off : Nat) (load : Bool) : BitVec 56 :=
  BitVec.setWidth 56 (place 53 3 3 ||| place 49 3 1 ||| (if load then place 43 6 r else place 37 6 r) ||| place 13 4 2 ||| place 0 13 off)
def vmem (err : List (Nat × WordError)) (wr : Bool) : State :=
  let s := benched [(1026, 0xC0), (1027, 0x40)] host
  { s with mem := { s.mem with benchErr := err.map fun x => (5 * 393216 + x.1 / 8, x.2) }
           vec := [(5, { p := [(3, [(0, true), (1, true)])], ar := [(0, 1024)], ctx := { ranges := [(1024, 64, wr)] } })] }
theorem wit_vld : let s := vmem [] false
    let x := s.vecOf unit5
    let i := vecInstrOf 0x01 false (vm 1 0 true)
    illegal s unit5 (inBody s unit5) i = none ∧ i.space = 0 ∧ Memory.wf s = true ∧ Lists.wf s = true
    ∧ ∀ e ∈ activeList (activeLanes unit5 x i), elementFault s 5 x i e = none ∧ needsFix s 5 x i e = false := by decide +kernel
theorem wit_vld_range : let s := vmem [] false
    let x := s.vecOf unit5
    let i := vecInstrOf 0x01 false (vm 1 8 true)
    illegal s unit5 (inBody s unit5) i = none ∧ activeList (activeLanes unit5 x i) = [0, 1] ∧ inRanges x i false (benchAddr x i 0) = false := by decide +kernel
def sldF (off : Nat) : BitVec 56 := BitVec.setWidth 56 (place 49 3 1 ||| place 43 6 1 ||| place 13 4 2 ||| place 0 13 off)
theorem wit_sld : let s := vmem [] false
    let i := vecInstrOf 0x03 false (sldF 1)
    illegal s unit5 (inBody s unit5) i = none ∧ i.space = 0 ∧ elementFault s 5 (s.vecOf unit5) i 0 = none
    ∧ needsFix s 5 (s.vecOf unit5) i 0 = false := by decide +kernel
theorem wit_vst : let s := vmem [] true
    let x := s.vecOf unit5
    let i := vecInstrOf 0x02 false (vm 1 0 false)
    illegal s unit5 (inBody s unit5) i = none ∧ i.space = 0 ∧ i.smode = false ∧ x.ctx.mode = 0
    ∧ (x.ctx.ranges.all fun r : Nat × Nat × Bool => decide (r.1 + r.2.1 ≤ benchSize)) = true
    ∧ ∀ e ∈ activeList (activeLanes unit5 x i), inRanges x i true (benchAddr x i e) = true := by decide +kernel
theorem wit_vst_range : let s := vmem [] false
    let x := s.vecOf unit5
    let i := vecInstrOf 0x02 false (vm 1 0 false)
    illegal s unit5 (inBody s unit5) i = none
    ∧ ((activeList (activeLanes unit5 x i)).find? fun e => !inRanges x i true (benchAddr x i e)) = some 0 := by decide +kernel
theorem test_vld : sget [] ((after (.vld unit5 false (vm 1 0 true)) (vmem [] false)).vecOf unit5).v 1 = [(0, 0x40C00000)] := by decide +kernel
theorem test_vld_fault : ((after (.vld unit5 false (vm 1 8 true)) (vmem [] false)).vecOf unit5).fault = some ⟨0x2B, 0, 0⟩ := by decide +kernel
/-- A correctable word holds the load; VEC_RESTART corrects it and runs it (R238). -/
theorem test_restart : let s := after (.vld unit5 false (vm 1 0 true)) (vmem [(1024, .correctable)] false)
    let t := after (.vecRestart unit5) s
    (s.vecOf unit5).wait.isSome = true ∧ sget [] (t.vecOf unit5).v 1 = [(0, 0x40C00000)] ∧ t.reg .sdlVecRestart 5 0 = 1
    ∧ t.benchWord 5 1024 = .good := by decide +kernel
theorem wit_restart : let s := after (.vld unit5 false (vm 1 0 true)) (vmem [(1024, .correctable)] false)
    Memory.wf s = true ∧ Lists.wf s = true ∧ (s.vecOf unit5).running = false ∧ (s.vecOf unit5).block.length = 1 := by decide +kernel

/-- A kernel image with one kernel, index 7, version 1: prologue AADD a0, 8; body AADD a1, 1. -/
def kimage : Bytes :=
  wordsBytes [1, 104, 0, 64, 0, 0, 0, 0, place 48 16 7 ||| place 32 16 1, place 39 19 80 ||| place 26 13 1 ||| place 13 13 1,
    place 56 8 9 ||| 8, place 56 8 9 ||| place 43 6 1 ||| 1]
def vecWs : List Word := descOf 0x18 0 [(5, place 48 16 7 ||| place 32 16 1 ||| 3), (7, placeBit 63 true ||| place 22 22 1024 ||| 64)]
def kernelled : State :=
  let s := fly 5 vecWs .issued host
  { s with d := { s.d with banks := [(0, { st := .sealed, gen := 1, image := kimage })] } }
theorem wit_kernel : oldest kernelled 5 0x18 .issued = some (flyOf vecWs .issued) ∧ vecMayStart kernelled 5 (flyOf vecWs .issued) = true
    ∧ (dRef vecWs 120).space = 0 ∧ (findKernel (kernelImage kernelled 5 0) (dKernel vecWs)).isSome = true ∧ Lists.wf kernelled = true
    ∧ ((dRanges vecWs).all fun r : Nat × Nat × Bool => decide (r.1 + r.2.1 ≤ benchSize)) = true := by decide +kernel
theorem test_kernel : let t := after (.vecKernel 5) kernelled
    areg (t.vecOf unit5) 0 = 1032 ∧ areg (t.vecOf unit5) 1 = 3 ∧ ((t.stir 5).flight.map fun f => (f.phase, f.fault)) = [(.ended, none)] := by decide +kernel

/-! Witnesses: CopiesAndGathersMoveData. -/

/-- A COPY of rows of FP32 from HBM 4,096 to bench 256, as FP16. -/
def cpWs (rows cols : Nat) (w10 : Word) : List Word := descOf 0x20 0 [(5, ref 1 2 4096), (6, ref 2 4 256), (7, place 24 20 rows ||| place 0 24 cols),
  (8, place 0 48 (4 * cols)), (9, if w10 = 0 then place 0 48 (2 * cols) else 0), (10, w10)]
def skew1 : Word := place 61 3 1 ||| place 58 2 2 ||| 1
/-- NARROW: INT4 codes, G = 16. -/
def narrowWs : List Word := descOf 0x20 0 [(5, ref 1 13 4096), (6, ref 2 13 256), (7, place 24 20 2 ||| 128), (8, 64),
  (10, place 61 3 2 ||| place 58 2 2 ||| place 56 2 1 ||| 1)]
def cping (ws : List Word) : State := withHbm 4096 [0, 0, 0x80, 0x3F, 0, 0, 0, 0xC0] (fly 5 ws .issued host)
theorem wit_copy : ∀ ws ∈ [cpWs 2 2 0, cpWs 2 2 skew1, narrowWs], let s := cping ws
    let c := copyOf ws
    oldest s 5 0x20 .issued = some (flyOf ws .issued) ∧ copyMayStart s 5 (flyOf ws .issued) = true ∧ dmaCopyGood 5 ws = true ∧ copyIssue ws = none
    ∧ Memory.wf s = true ∧ Lists.wf s = true ∧ c.src.space = 1 ∧ c.dst.space = 2 ∧ (hintOf c.src.hint).discard = false
    ∧ (storeModeOf s ws 1).isOk = true ∧ s.mem.lines = []
    ∧ ∀ i < c.rows, denied s (dmaClass 5) false ((c.src.addr : Int) + i * c.ss).toNat c.srcRow = none := by decide +kernel
theorem wit_copy_apart : let c := copyOf (cpWs 2 2 0)
    ∀ i < c.rows, ∀ j < c.rows, i < j → ((c.dst.addr : Int) + i * c.ds).toNat + c.dstRow ≤ ((c.dst.addr : Int) + j * c.ds).toNat := by decide +kernel
theorem wit_copy_tile : let c := copyOf (descOf 0x20 0 [(5, ref 3 2 0), (6, ref 2 2 256), (7, place 24 20 32 ||| 32), (9, 128)])
    copyTileFault (host.setFld .sdlAccFlags 5 0 3 1 1) 5 c = some 0x14 ∧ copyTileFault (host.setFld .sdlStat 5 0 24 1 1) 5 c = some 0x12 := by
  decide +kernel
/-- 1.0 and −2.0 as FP16. -/
theorem test_copy : (after (.copy 5) (cping (cpWs 1 2 0))).benchRaw 5 256 4 = [0, 0x3C, 0, 0xC0] := by decide +kernel
/-- The example of chapter 07: M = 40 rows of K = 32 BF16 elements with G = 8 make 43 lines of 64 bytes, 2,752 bytes. -/
theorem test_skew_example :
    let c := copyOf (descOf 0x20 0 [(5, ref 1 3 0), (6, ref 2 3 0), (7, place 24 20 40 ||| 32), (10, place 61 3 1 ||| place 58 2 1 ||| 1)])
    c.lines = 43 ∧ c.lineBytes = 64 ∧ c.lines * c.lineBytes = 2752 := by decide +kernel

/-- GATHER of two elements of 8 bytes: indices at HBM 0x40000, sources at HBM 4,096, to bench 256. -/
def gaWs (n : Nat) : List Word := descOf 0x21 0 [(5, ref 1 0 4096), (6, ref 1 7 0x40000), (7, ref 2 0 256), (8, place 48 16 8 ||| 4), (9, word n)]
  where word (n : Nat) : Word := place 0 24 n
def gathering (n i0 i1 : Nat) : State := withHbm 0x40000 ([BitVec.ofNat 8 i0, 0, 0, 0, BitVec.ofNat 8 i1]) (withHbm 4096 [5, 0, 0, 0, 0, 0, 0, 0, 6] (fly 5 (gaWs n) .issued host))
theorem wit_gather : let s := gathering 2 1 0
    oldest s 5 0x21 .issued = some (flyOf (gaWs 2) .issued) ∧ gatherGood (gaWs 2) = true ∧ gatherIssue 5 (gaWs 2) = none ∧ s.gathersOf 5 = []
    ∧ Memory.wf s = true ∧ Lists.wf s = true ∧ s.maint.running = [] ∧ s.mem.lines = []
    ∧ (gatherOf (gaWs 2)).src.space = 1 ∧ (gatherOf (gaWs 2)).idx.space = 1 ∧ (gatherOf (gaWs 2)).dst.space = 2
    ∧ denied s (dmaClass 5) false 0x40000 8 = none
    ∧ ∀ i < 2, let x := leNat (s.bytesAt (0x40000 + 4 * i) 4)
        x < (gatherOf (gaWs 2)).sources ∧ denied s (dmaClass 5) false (4096 + x * 8) 8 = none := by decide +kernel
theorem wit_gather_bad : let s := gathering 2 1 4
    leNat (s.bytesAt 0x40000 4) < 4 ∧ (gatherOf (gaWs 2)).sources ≤ leNat (s.bytesAt 0x40004 4) := by decide +kernel
theorem test_gather : (after (.gather 5) (gathering 1 1 0)).benchRaw 5 256 8 = [6, 0, 0, 0, 0, 0, 0, 0] := by decide +kernel
theorem test_gather_bad : (((after (.gather 5) (gathering 1 4 0)).stir 5).flight.map fun f => f.fault) = [some (0x2F, place 56 8 3)] := by decide +kernel
def heldRun : GatherRun := { slot := 0, step := 1, next := 1, held := [(0, 0)] }
def holding : State :=
  let s := withHbm 0x40000 [1] (withHbm 4096 [5, 0, 0, 0, 0, 0, 0, 0, 6] (fly 5 (gaWs 1) .executing host))
  { s with d := { s.d with gathers := [(5, [heldRun])] } }
theorem wit_group_restart : readyGroup holding 5 = some (heldRun, flyOf (gaWs 1) .executing, 0, 0) ∧ Memory.wf holding = true
    ∧ Lists.wf holding = true ∧ heldRun.held = [(0, 0)] ∧ ceilDiv (gatherOf (gaWs 1)).count 16 ≤ heldRun.next
    ∧ 16 * 0 < (gatherOf (gaWs 1)).count ∧ leNat (holding.bytesAt 0x40000 4) < (gatherOf (gaWs 1)).sources := by decide +kernel
theorem test_group_restart : (after (.gatherGroupRestart 5) holding).fld .dspGatherStat 5 0 40 24 = 1
    ∧ (after (.gatherGroupRestart 5) holding).gathersOf 5 = [] := by decide +kernel

/-! Witnesses: LatigoAssemblesItsRows, CinchChecksThenSolves. -/

/-- LATIGO_ASSEMBLE, LINEAR, COUNT = M = N = 1: A at HBM 4,096, b at 0x40000, indices at 0x80000, no w; the batch area lies
across two stacks. -/
def lataWs : List Word := descOf 0x30 0 [(5, ref 1 1 4096), (6, ref 1 1 0x40000), (7, ref 1 0 0x80000), (9, ref 1 1 0x7FFFFFFC0),
  (10, place 40 16 1 ||| place 20 20 1 ||| 1), (11, 1)]
/-- A is 2, b is 3. -/
def latas (i : Byte) : State :=
  withHbm 4102 [0, 0x40] (withHbm 0x40006 [8, 0x40] (withHbm 0x80000 [i] (fly 300 lataWs .issued host)))
theorem wit_assemble : ∀ i ∈ [(0 : Byte), 1], let s := latas i
    let x := assembleOf lataWs
    oldest s 300 0x30 .issued = some (flyOf lataWs .issued) ∧ s.m.gateOpen = true ∧ Memory.wf s = true ∧ Lists.wf s = true
    ∧ areasLocked s (x.out :: x.ins) = false ∧ assembleGood lataWs = true ∧ assembleIssue lataWs = none ∧ s.mem.lines = []
    ∧ x.kind = 0 ∧ (∀ z ∈ x.ins, (hintOf z.o.hint).discard = false ∧ z.a + z.n ≤ hbmSize ∧ denied s .solv false z.a z.n = none)
    ∧ x.out.a + x.out.n ≤ hbmSize ∧ denied s .solv true x.out.a x.out.n = none
    ∧ (decide (leNat (s.bytesAt 0x80000 4) < x.rows) = (i == 0)) :=
  each (by decide +kernel)
theorem test_assemble_index : (((after (.latigoAssemble 0) (latas 1)).stir 300).flight.map fun f => f.fault) = [some (0x33, 0)] := by decide +kernel

/-- A LINEAR batch of step 1: KIND and sizes, STEP, NOT STEP, then A = 2 and b = 3. -/
def batch1 (w0 step inv : Word) : Bytes := wordsBytes [w0, step, inv, 0, 0, 0, 0, 80, 0x4000000000000000, 0x4008000000000000]
def size1 : Word := place 40 16 1 ||| place 20 20 1 ||| 1
def solWs : List Word := descOf 0x31 0 [(5, ref 1 1 0x7FFFFFFC0), (6, ref 1 1 4096), (7, ref 1 1 0x40000)]
def solving (w0 step inv : Word) : State := withHbm 0x7FFFFFFC0 (batch1 w0 step inv) (fly 300 solWs .issued host)
theorem wit_solve : ∀ z ∈ [(size1, (1 : Word), ~~~(1 : Word)), (size1, 1, 1), (size1, 2, ~~~2), (placeBit 60 true ||| size1, 1, ~~~1)],
    let s := solving z.1 z.2.1 z.2.2
    let x := solveOf solWs
    let b := storedBatch s x
    oldest s 300 0x31 .issued = some (flyOf solWs .issued) ∧ s.m.gateOpen = true ∧ areasLocked s (solveIns solWs b ++ solveOuts solWs b) = false
    ∧ Memory.wf s = true ∧ Lists.wf s = true ∧ x.sys.addr + 64 ≤ hbmSize ∧ denied s .solv false x.sys.addr 64 = none ∧ s.mem.lines = [] :=
  each (by decide +kernel)
theorem wit_solve_checks : let b := fun w0 step inv => storedBatch (solving w0 step inv) (solveOf solWs)
    complOk (b size1 1 1).step (b size1 1 1).stepInv = false
    ∧ (complOk (b size1 2 (~~~2)).step (b size1 2 (~~~2)).stepInv = true ∧ (b size1 2 (~~~2)).step ≠ 1)
    ∧ (b (placeBit 60 true ||| size1) 1 (~~~1)).kind ≠ 0 := by decide +kernel
theorem wit_solve_linear : let s := solving size1 1 (~~~1)
    let x := solveOf solWs
    let b := storedBatch s x
    let body := codesOf 8 (s.bytesAt (x.sys.addr + 64) (b.bytes false - 64))
    let out := (List.range b.count).map fun k => solveLinear x (sRidge solWs) b.n (linearSystem b body k).1 (linearSystem b body k).2
    s.mem.cinErr = [] ∧ x.lm = false ∧ (sWarmIn solWs).absent = true ∧ (sWarmOut solWs).absent = true ∧ (sFact solWs).absent = true
    ∧ (sX solWs).absent = false ∧ (sStat solWs).absent = false ∧ x.sys.absent = false ∧ complOk b.step b.stepInv = true ∧ b.step = 1
    ∧ b.reserved = false ∧ b.kind = 0 ∧ b.m = 1 ∧ b.n = 1 ∧ b.count = 1 ∧ (hintOf x.sys.hint).discard = false
    ∧ (bytesOf 8 (out.flatMap fun r : Solved => r.x)).length = 8 ∧ (wordsBytes (out.flatMap fun r : Solved => r.stat)).length = 32
    ∧ denied s .solv false x.sys.addr 80 = none ∧ denied s .solv true (sX solWs).addr 8 = none
    ∧ denied s .solv true (sStat solWs).addr 32 = none := by decide +kernel
/-- 2x = 3 gives 1.5 with residual 0, by QR and by LDLᵀ. -/
theorem test_solve_linear : ∀ q ∈ [(0 : Nat), 1], (solveLinear { solveOf solWs with method := q } 0 1 [[0x4000000000000000]] [0x4008000000000000]).x
    = [0x3FF8000000000000] := by decide +kernel
theorem wit_solve_input : (∃ l ∈ [[0x7FF0000000000000, 0]], ∃ v ∈ l, fin64 v = false) := by decide +kernel
def adjWs : List Word := descOf 0x32 0 [(5, ref 1 1 0x7FFFFFFC0), (6, ref 1 1 4096), (7, ref 1 1 0x40000), (8, ref 1 1 0x80000),
  (9, ref 1 1 0xC0000), (11, ref 1 1 0x100000)]
theorem wit_adjoint : let s := withHbm 0x7FFFFFFC0 (batch1 size1 1 (~~~1)) (fly 300 adjWs .issued host)
    let x := adjointOf adjWs
    let b := storedBatch s x
    oldest s 300 0x32 .issued = some (flyOf adjWs .issued) ∧ areasLocked s (adjointOut adjWs b :: adjointIns adjWs b) = false
    ∧ Memory.wf s = true ∧ Lists.wf s = true ∧ s.mem.cinErr = [] ∧ x.lm = false ∧ complOk b.step b.stepInv = true ∧ b.step = 1
    ∧ b.reserved = false ∧ b.kind = 0 ∧ (∀ z ∈ adjointIns adjWs b, z.a + z.n ≤ hbmSize ∧ denied s .solv false z.a z.n = none)
    ∧ s.mem.lines = [] ∧ (sFact adjWs).absent = false ∧ factFits x b 1 (s.bytesAt (sFact adjWs).addr 32) = false := by decide +kernel

/-! Witnesses: CinchDriveRunsItsList. -/

/-- An HBM reference with the STREAM hint. -/
def sref (fmt addr : Nat) : Word := ref 1 fmt addr ||| place 48 8 1
def driveWs (inl : Word) : List Word := descOf 0x40 0 [(5, place 48 16 0x20), (6, sref 0 0), (8, inl)]
def driveState (inl : Word) (block : Bytes) : State :=
  let t := withHbm 0 block (latas 0)
  { t with d := { t.d with tack := [run0 0x20], stirrups := sset {} t.d.stirrups 300 { st := .run, flight := [flyOf (driveWs inl) .executing] }
                           banks := [(0, { st := .sealed, gen := 1 })] } }
/-- One entry that signals counter 9: the assembly of `lataWs`, then its solution. -/
def assembleImage : List Word := descOf 0x30 0 [(5, sref 1 4096), (6, sref 1 0x40000), (7, sref 0 0x80000), (9, sref 1 0x7FFFFFFC0),
  (10, place 40 16 1 ||| place 20 20 1 ||| 1), (11, 1)]
def solveImage : List Word := descOf 0x31 0 [(5, sref 1 0x7FFFFFFC0), (6, sref 1 0x1000000), (7, sref 0 0x2000000)]
def drive1 : Bytes := wordsBytes ([1, placeBit 12 true ||| 9] ++ assembleImage ++ solveImage)
theorem wit_drive_call : ∀ z ∈ [((0 : Word), drive1), (1, drive1), (0, wordsBytes [65, 0])], let s := driveState z.1 z.2
    startedRun s 0 rtCinchDrive = some (run0 0x20) ∧ runFlight s (run0 0x20) = some (flyOf (driveWs z.1) .executing) ∧ s.m.gateOpen = true
    ∧ Memory.wf s = true ∧ Lists.wf s = true ∧ argVal (readArgs s (run0 0x20) 16) = some (z.2.take 16) := by decide +kernel
theorem wit_drive_inline : inlineBad (driveWs 1) 0 = some 64 ∧ inlineBad (driveWs 0) 0 = none := by decide +kernel
theorem wit_drive_header : driveHeader 65 0 = false ∧ driveHeader 1 (placeBit 12 true ||| 9) = true := by decide +kernel
def driveRead : State := argSt (readArgs (driveState 0 drive1) (run0 0x20) 16) (driveState 0 drive1)
def driveRead2 : State := argSt (readArgs driveRead (run0 0x20) 272) driveRead
theorem wit_drive_list : argVal (readArgs driveRead (run0 0x20) 272) = some drive1
    ∧ driveList 1 drive1 = [(0, assembleImage, solveImage)] := by decide +kernel
theorem wit_drive_unlocked : areasLocked driveRead2 (imageAreas driveRead2 assembleImage ++ imageAreas driveRead2 solveImage) = false := by decide +kernel
theorem wit_drive_good : (driveEntries 300 0 1 0 (some 9) [(0, assembleImage, solveImage)] driveRead2).1 = none := by decide +kernel
theorem wit_drive_bad : imageFault 300 1 [0x30] (assembleImage.set 1 0) = some 0x01
    ∧ (driveEntries 300 0 1 0 none [(0, assembleImage.set 1 0, solveImage)] driveRead2).1 = some (1, 0) := by decide +kernel
theorem test_drive : (after (.cinchDrive 0) (driveState 0 drive1)).d.signals = [9]
    ∧ (after (.cinchDrive 0) (driveState 0 drive1)).bytesAt 0x1000000 8 = [0, 0, 0, 0, 0, 0, 0xF8, 0x3F] := by decide +kernel

/-! Witnesses: UpdateUnitsRunTheirTrips. -/

/-- A kernel whose body is T0 := T0 − gradient in FP32. -/
def uimage : Bytes :=
  wordsBytes [1, 120, 0, 64, 0, 0, 0, 0, place 48 16 7 ||| place 32 16 1, place 39 19 80 ||| place 13 13 4,
    place 56 8 1 ||| place 49 3 1 ||| place 43 6 1 ||| place 13 4 2,
    place 56 8 1 ||| place 49 3 1 ||| place 43 6 2 ||| place 25 6 1 ||| place 13 4 2,
    place 56 8 0x11 ||| place 49 3 1 ||| place 43 6 1 ||| place 37 6 1 ||| place 31 6 2,
    place 56 8 2 ||| place 49 3 1 ||| place 37 6 1 ||| place 13 4 2]
/-- A binding of COUNT elements of FP32: T0 at HBM 4,096, the gradient at 0x100000. -/
def ubind (count : Nat) (g : Word) : Bytes :=
  wordsBytes ([place 48 16 7 ||| place 32 16 1, 0, place 44 4 2 ||| place 0 40 count, g, sref 2 4096] ++ List.replicate 11 0)
def updWs : List Word := descOf 0x38 0 [(5, sref 0 0x8000), (6, 1)]
def updState (ph : Phase) (q : List UpdWork) : State :=
  let t := withHbm 4098 [0x40, 0x40] (withHbm 0x100002 [0x80, 0x3F] (withHbm 0x8000 (ubind 32 (sref 2 0x100000)) (fly 300 updWs ph host)))
  { t with d := { t.d with banks := [(0, { st := .sealed, gen := 1, image := uimage })] }, u := { t.u with queues := sset [] [] 0 q } }
def uwork (count trips : Nat) : UpdWork := ⟨0, 0, 0, 0x8000, ubind count (sref 2 0x100000), 1, trips, 0⟩
theorem wit_update : let s := updState .issued []
    oldest s 300 0x38 .issued = some (flyOf updWs .issued) ∧ Memory.wf s = true ∧ Lists.wf s = true ∧ hbmLocked s 0x8000 128 = false
    ∧ (hintOf (dBind updWs).hint).discard = false ∧ denied s .upd false 0x8000 128 = none ∧ s.mem.lines = [] ∧ dBindCount updWs = 1 := by decide +kernel
def shut : State := (((updState .issued []).setReg .hbmProtBase 0 0 0x8000).setReg .hbmProtLimit 0 0 0x8000).setReg .hbmProtPerm 0 0 0x8000
theorem wit_update_denied : denied shut .upd false 0x8000 128 = some (0x8000, 0) := by decide +kernel
theorem test_update : ((after (.update 0) (updState .issued [])).updQueue 0).map (fun w => (w.bind, w.index, w.trips)) = [(0x8000, 0, 0)] := by decide +kernel
def noGrad : UpdWork := { uwork 32 0 with bytes := ubind 32 0 }
theorem wit_upd_trip : ∀ w ∈ [uwork 32 0, noGrad, uwork 768 1, uwork 512 1], let s := updState .executing [w]
    s.updQueue 0 = [w] ∧ Memory.wf s = true ∧ Lists.wf s = true ∧ s.m.gateOpen = true ∧ mirrorLocked s = false ∧ stackLocked s 0 = false
    ∧ updFlight s w = some (flyOf updWs .executing) := by decide +kernel
theorem wit_trip_gate : ({ updState .executing [uwork 32 0] with m := { host.m with gateOpen := false } } : State).m.gateOpen = false := by decide +kernel
theorem wit_trip_refused : burnRefuses (updState .executing [noGrad]) 0 0 (bindingOf noGrad.bytes) = some 0x38
    ∧ burnRefuses (updState .executing [uwork 32 0]) 0 0 (bindingOf (uwork 32 0).bytes) = none
    ∧ burnRefuses (updState .executing [uwork 32 0]) 1 0 (bindingOf (uwork 32 0).bytes) = some 0x39 := by decide +kernel
theorem wit_trip_dry : let s : State := { updState .executing [uwork 32 0] with a := { host.a with dry := some 1 } }
    s.a.dry.isSome = true ∧ s.mem.lines = [] ∧ (bindingOf (uwork 32 0).bytes).norm.absent = true
    ∧ ∀ z ∈ bindRanges (bindingOf (uwork 32 0).bytes), (hintOf z.1.hint).discard = false := by decide +kernel
/-- 3 − 1 = 2; the binding's one trip ends the UPDATE. -/
theorem test_trip : let t := after (.updTripStart 0) (updState .executing [uwork 32 0])
    t.bytesAt 4096 4 = [0, 0, 0, 0x40] ∧ ((t.stir 300).flight.map fun f => (f.phase, f.fault)) = [(.ended, none)] ∧ t.updQueue 0 = [] := by decide +kernel
/-- A kernel whose body is one SADD. -/
def uimage2 : Bytes :=
  wordsBytes [1, 120, 0, 64, 0, 0, 0, 0, place 48 16 7 ||| place 32 16 1, place 39 19 80 ||| place 13 13 1, place 56 8 7 ||| place 49 3 1]
/-- A trip of an open binding of it. -/
def urun (w : UpdWork) : Except BindFault Unit × State :=
  let b := bindingOf w.bytes
  let s := ({ updState .executing [w] with d := { (updState .executing [w]).d with banks := [(0, { st := .sealed, gen := 1, image := uimage2 })] } } : State).setVec (.burnisher 0) (startUpd (updCtx b 0 1 256) [])
  match bindCode (s.bank 0 w.bank).image b with
  | some k => runTrip (.burnisher 0) b k w.bind w.step w.trips none s
  | none => (.error ⟨0, 0, 0, none⟩, s)
theorem wit_trip_runs : (match (urun (uwork 512 1)).1 with | .ok _ => true | _ => false) = true := by decide +kernel
theorem wit_trip_runs_on : (match (urun (uwork 768 1)).1 with | .ok _ => true | _ => false) = true
    ∧ (1 + 1) * 256 < (bindingOf (uwork 768 1).bytes).count ∧ (bindingOf (uwork 512 1).bytes).count ≤ (1 + 1) * 256 := by decide +kernel
theorem wit_trip_closes : (match bindCode uimage2 (bindingOf (uwork 512 1).bytes) with
    | some k => (match (closeBinding (.burnisher 0) k ((urun (uwork 512 1)).2.countWrap .updBurnStat 0 0 24 40 1)).1 with | .ok _ => true | _ => false)
    | none => false) = true := by decide +kernel
theorem wit_update_ends : ∀ m < 32, ∀ y ∈ (updState .executing [uwork 512 1]).updQueue m, sameUpdate y (uwork 512 1) = true → m = 0 ∧ y = uwork 512 1 := by
  decide +kernel

/-- A chunk of 32 FP32 elements that lands at port 0 for collective 7. -/
def chunk (trips : Nat) (got : Bool) : Landing :=
  { port := 0, coll := 7, stage := 0, bind := 0x8000, index := 0, step := 1, first := 0, count := 32, width := 4, trips := trips
    got := if got then [(0, true), (1, true)] else [] }
def girthing (x : Landing) (g : Word) (ctrl : Word) : State :=
  let t := withHbm 0x8000 (ubind 32 g) (opened progDone (some true) (linkUp0 {} (call0 3 fed)))
  let t := (t.setReg .updCtrl 0 0 ctrl).setReg .brcLastReleased 0 0 0
  { t with f := { t.f with landing := [x] }, d := { t.d with tack := [⟨0, 0, 1, 3, .collective 7, 0⟩], banks := [(0, { st := .sealed, gen := 1, image := uimage2 })] } }
def girthing0 : State := girthing (chunk 0 true) 0 1
theorem wit_girth_chunk : ∀ b ∈ [true, false], girthChunk (girthing (chunk 0 b) 0 1) 0 = some (chunk 0 b, collOf progDone (some true)) := by
  decide +kernel
theorem wit_girth_wf : Memory.wf girthing0 = true ∧ Lists.wf girthing0 = true := by decide +kernel
theorem wit_girth_passed : priorPassed girthing0 1 = true ∧ girthing0.m.gateOpen = true ∧ mirrorLocked girthing0 = false := by decide +kernel
theorem wit_girth_bind : girthing0.maint.running = [] ∧ denied girthing0 .upd false 0x8000 128 = none ∧ girthing0.mem.lines = []
    ∧ girthing0.f.buffer = [] ∧ bindLocked girthing0 (bindingOf (girthing0.bytesAt 0x8000 128)) = false := by decide +kernel
theorem wit_girth_landed : tripLanded (chunk 0 true) = true ∧ tripLanded (chunk 0 false) = false := by decide +kernel
theorem wit_girth_refused : let s := girthing (chunk 0 true) (sref 2 0x100000) 1
    let b := bindingOf (s.bytesAt 0x8000 128)
    girthRefuses s (chunk 0 true) b (bindCode (s.bank 0 (collBank s (collOf progDone (some true)))).image b) = some 0x38
    ∧ girthRefuses (girthing (chunk 0 true) 0 0) (chunk 0 true) (bindingOf (ubind 32 0)) (some ⟨[], [], []⟩) = some 0x3D
    ∧ collRun s (collOf progDone (some true)) = some ⟨0, 0, 1, 3, .collective 7, 0⟩ ∧ runFlight s ⟨0, 0, 1, 3, .collective 7, 0⟩ = some (flyOf (callWords 3) .executing) := by decide +kernel

/-! Witnesses of further clauses: waiting requests, leases, registers, memory, the Ethernet ports. -/

def queried : State := { host with maint := { held := [(0, .bklQuery req)] } }
theorem wit_step_waiting : serveWaiting host = none ∧ host.pending = [] ∧ queried.maint.held = [(0, .bklQuery req)] ∧ linkUp queried 0 = true
    ∧ (match exec (.bklQuery req) { queried with maint := { queried.maint with held := [] } } with | .next t => t.maint.held == [] | _ => false) = true
    ∧ (serveWaiting queried).isSome = true := by decide +kernel
/-- An unpinned lease that ended at 5; the request comes at 6 (R464). -/
def lateAt (t : Word) : State := { hostB { holder := some (1, 9), expiry := 5 } with time := t }
theorem wit_lease_over : leaseOver (lateAt 6) = true ∧ leaseOver (lateAt 5) = false ∧ accepts (lapse (lateAt 6)) req 0x10 = true
    ∧ leaseMs (lateAt 6) 20000 = some 20000 ∧ leaseOver host = false ∧ leaseOver hostK = false ∧ leaseOver linked = false := by decide +kernel
theorem test_lease_over : (after (.bklAcquire req 20000) (lateAt 6)).h.buckle.holder = some (0, 1)
    ∧ (after (.bklAcquire req 20000) (lateAt 5)).h.buckle.holder = some (1, 9) := by decide +kernel
theorem wit_reg_write_rein : saddleAway host (regAddr .pwrReinCtrl 0 0) = false ∧ saddleAway host (regAddr .thmCtrl 0 0) = false
    ∧ reinRuns host = true ∧ reinedNow (after (.regWrite req (BitVec.ofNat 32 (regAddr .pwrReinCtrl 0 0)) 0x303E8) host) = true := by decide +kernel
/-- R499: the margin follows JUNC_LIMIT at once. -/
theorem test_margin_follows : (after (.regWrite req (BitVec.ofNat 32 (regAddr .thmCtrl 0 0)) 80) host).fld .thmStat 0 0 24 8 = 80 := by decide +kernel
theorem wit_mem_locked : hbmLocked repairing 64 64 = true ∧ accepts repairing req 0x22 = true ∧ accepts repairing req 0x23 = true
    ∧ Memory.wf repairing = true ∧ hbmLocked host 64 8192 = false ∧ hbmLocked guarded 0x1FC0 64 = false := by decide +kernel
theorem test_mem_waits : (after (.memRead req 64 64) repairing).maint.held = [(0, .memRead req 64 64)]
    ∧ (after (.memRead req 64 64) repairing).sent = [] := by decide +kernel
theorem wit_put_unlocked : hbmLocked fed (recordAddr fed 1 3 0) 64 = false
    ∧ multiWaits 1 (~~~1) (entry 100 1 ++ entry 101 2) fed = false ∧ multiWaits 1 (~~~1) (entry 100 1) fed = false
    ∧ recordAddr fed 1 0 0 + 64 ≤ 2 ^ 40 ∧ denied fed .ingress true (recordAddr fed 1 0 0) 64 = none
    ∧ ∀ l ∈ linesOf (recordAddr fed 1 0 0) 64, fed.lineMeta l = {} := by decide +kernel
theorem wit_multi_judged : (recordRefusal fed 1 (~~~1) (wordAt (entry 104 2) 0) (wordAt (entry 104 2) 8)).isSome = true := by decide +kernel
theorem wit_checksum : linkUp host 0 = true ∧ tagsAccepted host 0 [] = true ∧ Memory.wf host = true := by decide +kernel
theorem wit_solicit : portTakes host 0 { peer with form := .udp6 } = true ∧ BitVec.setWidth 32 (host.reg .ethIp4 0 0) ≠ 5 := by decide +kernel
theorem wit_echo_fits : frameFits peer (8 + 2) = true ∧ frameFits peer (8 + 9300) = false ∧ ownAddress ip4Host 0 peer 0xC0A80009 = false := by
  decide +kernel
theorem wit_packet_fits : frameFits peer (udpHead peer + 48) = true := by decide +kernel

/-! Witnesses of further clauses: LOCAL_REDUCE at an unaligned DST, links, mirror copies, maintenance. -/

/-- The LOCAL_REDUCE call above with its DST at 200, and line 3, which DST begins in, as given. -/
def localAt200 (m : LineMeta) : State :=
  let s := withHbm 0 (localArgs (placeBit 63 true) 200) (call0 5 fed)
  { s with mem := { s.mem with lines := if m = {} then [] else [(3, m)] } }
def local200 (m : LineMeta) : State :=
  (readSources 64 (localSrcs (placeBit 63 true)) (argSt (readArgs (localAt200 m) (run0 5) 64) (localAt200 m))).2
theorem wit_local_unaligned : ∀ m ∈ [({} : LineMeta), { poison := true }],
    startedRun (localAt200 m) 0 rtLocalReduce = some (run0 5) ∧ runFlight (localAt200 m) (run0 5) = some (flyOf (callWords 5) .executing)
    ∧ argVal (readArgs (localAt200 m) (run0 5) 64) = some (localArgs (placeBit 63 true) 200) ∧ localArgsClean (localArgs (placeBit 63 true) 200) = true
    ∧ val (readSources 64 (localSrcs (placeBit 63 true)) (argSt (readArgs (localAt200 m) (run0 5) 64) (localAt200 m)))
      = some [some (List.replicate 64 0), some (List.replicate 64 0), none, none]
    ∧ Memory.wf (local200 m) = true ∧ denied (local200 m) .ddma true 200 64 = none
    ∧ (partBad (local200 m) 200 64).isSome = (m != {}) := by decide +kernel
/-- A frame that was coming in when its port fell is counted (R411). -/
theorem wit_port_cut : (ported { st := .up }).port 0 = { st := .up } ∧ (ported { st := .up }).f.landing = [] := by decide +kernel
theorem test_port_cut : (after (.lossOfSignal ⟨0, [frameOf 1 (rec64 3)]⟩) (ported { st := .up })).fld .aflCollCnt 0 0 0 16 = 1 := by decide +kernel
theorem wit_trained_replay : let s := ported { st := .train, fast := true, replay := [(0, some lostFrame), (1, none)] }
    Memory.wf s = true ∧ (s.port 0).st = .train ∧ (s.port 0).fast = true := by decide +kernel
/-- R416: both blocks are sent again, the one with a frame with it, and counted. -/
theorem test_trained_replay : let t := after (.portTrained 0) (ported { st := .train, fast := true, replay := [(0, some lostFrame), (1, none)] })
    t.sent.length = 3 ∧ t.fld .aflPortErr 0 0 8 32 = 2 := by decide +kernel
/-- Two spares of its die are port 0's own, and the neighbour has two. -/
def spared (x : LinkPort) : State :=
  (ported { x with st := .up, version := 2, ident := some (peerIdent 2) }).setReg .aflSpareMap 0 0 (place 15 1 1 ||| place 23 1 1)
theorem wit_lane_waits : laneWaits ((laned 2 { again := [3] }).port 0) 3 = true ∧ laneWaits ((laned 2 {}).port 0) 3 = false
    ∧ laneWaits ((laned 2 { sparing := some ⟨4, 0, true, false⟩ }).port 0) 3 = false
    ∧ (freeSpare (spared { sparing := some ⟨4, 0, true, false⟩ }) 0).isSome = true
    ∧ laneWaits ((spared { sparing := some ⟨4, 0, true, false⟩ }).port 0) 3 = false ∧ ((spared { sparing := some ⟨4, 0, true, false⟩ }).port 0).sparing ≠ none
    ∧ laneWaits ((laned 2 { lanes := [9, 1, 2, 3, 4, 5, 6, 7], failed := [(3, some 0)] }).port 0) 3 = false
    ∧ Memory.wf (laned 2 {}) = true := by decide +kernel
theorem wit_spare_next : let s := laned 2 { sparing := some ⟨3, 0, true, true⟩, again := [5] }
    (s.port 0).st = .up ∧ (s.port 0).again ≠ [] ∧ (0, 1) ∈ usableSpares s 0 ∧ (s.port 0).nextSeq.toNat % 64 = 0 := by decide +kernel
theorem wit_ident_queue : ((ported { st := .ident }).port 0).queue = [] ∧ ((ported { st := .held }).port 0).queue = []
    ∧ (ported { st := .ident }).m.gateOpen = true := by decide +kernel
/-- An UP port judges what it receives (R412): a fitting IDENT and STAMP_UPDATE, an unfit version, another member's. -/
theorem wit_up_judged : ∀ z ∈ [(1, identWord 1 1 3 true, true, true), (2, identWord 1 1 3 true, true, true), (1, identWord 1 4 5 true, true, false),
      (1, identWord 2 1 3 true, false, true), (2, identWord 2 1 3 true, false, true)],
    let f := ctrlOf z.1 z.2.1 5 (~~~5)
    let s := ported { st := .up }
    f.type = 4 ∧ acceptFrame f = .ok ∧ f.kind = z.1 ∧ ctrlPayloadFits f = true ∧ complOk (wordAt f.payload 8) (wordAt f.payload 16) = true
      ∧ (s.port 0).st = .up ∧ (s.port 0).nak = false ∧ neighbourFits s 0 z.2.1 = z.2.2.1 ∧ (agreeVersion s z.2.1).isSome = z.2.2.2 := by decide +kernel
theorem test_up_held : ((after (.identReceived 0 (ctrlOf 1 (identWord 2 1 3 true) 5 (~~~5))) (ported { st := .up })).port 0).st = .held
    ∧ (after (.stampUpdateReceived 0 (ctrlOf 2 (identWord 2 1 3 true) 5 (~~~5))) (ported { st := .up })).reg .aflNeighStamp 0 0 = 0 := by decide +kernel
theorem wit_not_nak : ((staged false).port 0).nak = false ∧ ((ported { st := .up }).port 0).nak = false ∧ ((copying take1).port 0).nak = false := by
  decide +kernel
theorem wit_mcopy_waits : (copying take1).f.copyHeld = [] ∧ take1.peer ≠ (mcopy 2).src ∧ (let s := ported { st := .up }
      s.f.copy = none ∧ takeCopy { s with maint := { running := [repairAct] } } 1 false = none) ∧ take1.source = false := by decide +kernel
theorem wit_copy_ends : ∀ b ∈ [true, false], (copyEnds b).f.copyHeld = [] ∧ (copyEnds b).m.rung = .none := by decide +kernel
theorem wit_copy_none : let s : State := { ported { st := .up } with f := { (ported { st := .up }).f with copyHeld := [⟨0, mcopy 1, false, 0⟩] } }
    s.f.copy = none ∧ s.f.copyHeld ≠ [] := by decide +kernel
theorem wit_tack_queued : loadFits (runWords tackLoad (run0 0x30)) = true ∧ rungComes tackLoad = false ∧ rungComes (maint [] []) = false
    ∧ clashes { tackLoad with maint := { running := [loadAct 2] } } [loadAct 2] (loadArgs (runWords tackLoad (run0 0x30)) 0) = true
    ∧ startedRun { tackLoad with maint := { running := [loadAct 2] } } 0 rtKstLoad = some (run0 0x30)
    ∧ loadRun { tackLoad with maint := { running := [loadAct 2] } } 0 = none := by decide +kernel
/-- A load that the tack routine queued starts when it can (R194, R522). -/
def tackQueued : State := { tackLoad with maint := { queued := [⟨none, some 0, .kernelLoad 0 1 7 4096 64, 0⟩] } }
theorem wit_tack_queued_starts : (⟨none, some 0, .kernelLoad 0 1 7 4096 64, 0⟩ : Act).ticket.getD 0 = 0
    ∧ clashes tackQueued [] (.kernelLoad 0 1 7 4096 64) = false
    ∧ (startRefusal { tackQueued with maint := {} } (.kernelLoad 0 1 7 4096 64)).1 = none := by decide +kernel
theorem test_tack_queued_starts : (after (.mntActivityStart 0) tackQueued).maint.running.length = 1 := by decide +kernel
theorem wit_route_quiet : fabricBusy (maint [routeAct 1] []) = false ∧ (maint [routeAct 1] []).m.rung = .none ∧ Memory.wf (maint [routeAct 1] []) = true
    ∧ repairing.f.copyHeld = [] := by decide +kernel

/-! Witnesses of further clauses: boot, rungs, sensors, dispatch, saddles, vector units, the solver, update units. -/

theorem smoke_boot_temps : wellFormed (.bootHwTrainingDone 0 0 0 ⟨false, []⟩) = false := by decide +kernel
theorem smoke_lane_frames : wellFormed (.laneFailure 0 ⟨0, [{ frame0 1 with payload := List.replicate 65 0 }]⟩) = false := by decide +kernel
theorem smoke_signal_frames : wellFormed (.lossOfSignal ⟨0, [{ frame0 1 with payload := List.replicate 65 0 }]⟩) = false := by decide +kernel
theorem smoke_rein_domain : wellFormed (.reinPeriod [(80, 0, 0)]) = false := by decide +kernel
theorem wit_boot_temps : readings.length = 32 := by decide +kernel
theorem wit_cfg_load_most : (4294959048 : BitVec 32).toNat + 8248 ≤ 2 ^ 32 := by decide
theorem wit_function_refused : (waitHost false).m.st ≠ .running ∧ (committing).m.st ≠ .running ∧ host.m.st = .running ∧ host.maint.queued = [] := by
  decide +kernel
theorem wit_ramp_fabric : (dom3 { st := .on }).f.colls = [] := by decide +kernel
theorem wit_reined_no_more : reinedNow { reining 750 100 with m := { host.m with reinedEnd := some 5 } } = false ∧ reinedNow (reining 600 65) = true := by decide +kernel
theorem wit_junction_hot : (host.fld .thmCtrl 0 0 0 8 : Int) ≤ (hottest (after (.junctionSample (List.replicate 7 (some 96))) host)).1
    ∧ bit (host.reg .pwrStat 0 0) 3 = false ∧ (let s := host.setFld .pwrStat 0 0 3 1 1
      bit (s.reg .pwrStat 0 0) 3 = true ∧ (hottest (after (.junctionSample (List.replicate 7 (some 60))) s)).1 ≤ (s.fld .thmCtrl 0 0 0 8 : Int) - 3) := by
  decide +kernel
theorem wit_trip_quiet : hot.maint.running ++ hot.maint.queued = [] := by decide +kernel
theorem wit_step_held : ∀ z ∈ [(true, none), (false, none), (true, some (0x21, (64 : Word)))], ((ended z.1 z.2).stir 5).past = [] := by decide +kernel
theorem wit_nop_held : ((fly 5 nopWords .issued host).stir 5).past = [] := by decide +kernel
theorem wit_resume_away : groupAway { asked .stopped none with m := { host.m with domains := [] } } 5 = true ∧ groupAway (asked .halted none) 5 = false
    ∧ (asked .halted none).domainOn 1 = true := by decide +kernel
theorem wit_switch_plain : (matRun 0 1 0 []).slips = [] ∧ (matOf (matWs false)).histDst = none ∧ (matOf (matWs false)).a.space = 2
    ∧ isBlock (matOf (matWs false)).a.fmt = false ∧ (matOf (matWs false)).quad = false := by decide +kernel
theorem wit_sum_tags : ∀ z ∈ [((0x40C00000 : Nat), (0 : Word)), (0x40C00001, 0), (0x40C00001, 0x200)],
    checkerSkew (matOf (matWs false)) { matRun 1 0 0 [check0 z.1] with narrow := z.2 } (check0 z.1) = none := by decide +kernel
theorem wit_sum_skew_checks : ((slipping.saddle 5).runs.map MatRun.checks) = [[check0 0x40C00000]] ∧ Memory.wf slipping = true
    ∧ Lists.wf slipping = true := by decide +kernel
theorem wit_restart_gate : (after (.vld unit5 false (vm 1 0 true)) (vmem [(1024, .correctable)] false)).m.gateOpen = true
    ∧ ({ host with m := { host.m with gateOpen := false } } : State).m.gateOpen = false := by decide +kernel
theorem wit_gather_bridge : (gathering 2 1 0).mem.bridgeErr = [] ∧ (gathering 2 1 4).mem.bridgeErr = [] ∧ holding.mem.bridgeErr = [] := by decide +kernel
theorem wit_drive_free : ∀ z ∈ [((0 : Word), drive1), (1, drive1), (0, wordsBytes [65, 0])], solverBusy (driveState z.1 z.2) 300 = false := by decide +kernel
theorem wit_drive_busy : solverBusy (fly 300 solWs .executing (driveState 0 drive1)) 300 = true := by decide +kernel
theorem wit_upd_alone : ∀ m < 32, ∀ y ∈ (updState .executing [uwork 32 0]).updQueue m, m ≠ 0 → y.trips = 0 := by decide +kernel
theorem wit_upd_read : ∀ w ∈ [uwork 32 0, noGrad, uwork 768 1, uwork 512 1],
    rangeUnread (updState .executing [w]) w.step (bindingOf w.bytes) = false := by decide +kernel
theorem wit_girth_read : rangeUnread girthing0 1 (bindingOf (girthing0.bytesAt 0x8000 128)) = false := by decide +kernel
/-- A checkpoint of step 1 is still to read the range that the binding of step 2 writes (R396). -/
theorem wit_upd_unread : rangeUnread (withHbm 0x8000 (ubind 32 (sref 2 0x100000)) ((ckpt true).setReg .brcOwnerList 0 0 (place 48 16 1 ||| 0x8000))) 2
    (bindingOf (ubind 32 (sref 2 0x100000))) = true := by decide +kernel

/-! Witnesses: LeasesImagesCopiesAndSensorsComplete. -/

theorem wit_plain_leases : leaseMs (hostB {}) 20000 = some 20000 ∧ accepts (hostB {}) req 0x10 = true ∧ (hostB {}).h.buckle.holder = none
    ∧ accepts host req 0x11 = true ∧ host.h.buckle.holder = some (req.port, req.session) ∧ accepts host req 0x13 = true
    ∧ host.h.buckle.pins = [] := by decide +kernel
theorem wit_plain_limits : reinRuns limiting = true ∧ Memory.wf limiting = true ∧ bit (limiting.reg .pwrStat 0 0) 3 = true ∧ vmin limiting < vcore limiting := by
  decide +kernel
theorem wit_plain_gate : let s : State := { host with m := { host.m with gateLevel := 95 } }
    reinRuns s = true ∧ Memory.wf s = true ∧ s.m.gateOpen = true ∧ s.m.gateLevel < 100 := by decide +kernel
theorem wit_plain_sensors : host.m.supplied = true ∧ Memory.wf host = true ∧ ([(700 : BitVec 14), 800, 800, 800, 800, 1200][0]? = some 700)
    ∧ ((List.replicate 7 (some (90 : BitVec 8)))[0]? = some (some 90)) ∧ hot.m.st ≠ .tripped ∧ (tripCause hot).isSome = true := by decide +kernel

/-! Witnesses of further clauses: leases, pins, mixed packets, the step check, the verdict, restore. -/

theorem wit_lease_own : 1 ≤ (1 : BitVec 32).toNat ∧ (600000 : BitVec 32).toNat ≤ 600000 ∧ leaseMs host 1 = some 1
    ∧ leaseMs host 600000 = some 600000 := by decide +kernel
theorem wit_pins_held : (hostP [4]).h.buckle.holder = some (req.port, req.session) ∧ (hostP [4]).h.buckle.pins ≠ []
    ∧ accepts (hostP [4]) req 0x11 = true ∧ leaseMs (hostP [4]) 20000 = some 20000 ∧ accepts (hostP [4]) req 0x02 = true
    ∧ (hostP [4]).session 0 = some ses ∧ (hostT.ticket 1).isSome = true ∧ ((opInfo 0x21).map fun o => o.buckle) = some true := by decide +kernel
/-- R465: the lease of a pinned buckle runs out and the buckle stays held. -/
theorem test_pinned : (after (.bye req) (hostP [4])).h.buckle.holder = some (0, 1)
    ∧ (after (.sessionIdleExpiry 0) (hostP [4])).h.buckle.holder = some (0, 1) := by decide +kernel
/-- Two records that are stored with one between them that is refused (R468). -/
def mixed : Bytes := entry 100 1 ++ (entry 104 2 ++ entry 101 3)
/-- A second slot base, so that two records stand apart. -/
def fedApart : State := fed.setReg .brcSlotBase 1 0 0x100000
theorem wit_mixed : accepts fedApart req 0x31 = true ∧ (gotOf fedApart 1).length + 3 ≤ nPos fedApart * fragCount fedApart
    ∧ multiFits fedApart mixed.length = true ∧ multiWaits 1 (~~~1) mixed fedApart = false ∧ Memory.wf fedApart = true := by decide +kernel
theorem wit_mixed_judged : ∀ z ∈ [(0, none), (1, some 0x0404), (2, none)],
    recordRefusal fedApart 1 (~~~1) (wordAt mixed (z.1 * 80)) (wordAt mixed (z.1 * 80 + 8)) = z.2 := each (by decide +kernel)
theorem wit_mixed_areas : ∀ z ∈ [((100 : Word), 0), (101, 0x100000)], recordAddr fedApart 1 (posIndex fedApart 1 z.1) 0 = z.2
    ∧ denied fedApart .ingress true z.2 64 = none ∧ (∀ l ∈ linesOf z.2 64, fedApart.lineMeta l = {}) := each (by decide +kernel)
theorem test_mixed : let t := after (.dataPutMulti req 1 (~~~1) mixed) fedApart
    t.byte 0 = 1 ∧ t.byte 0x100000 = 3 ∧ reply t = some (0, [0, 0, 4, 4, 0, 0]) := by decide +kernel
theorem wit_own_now : ip4Addr ip4Host 0 = some 0xC0A80001 ∧ peer.form = .udp4 := by decide +kernel
/-- R454: a service written to the port serves the module's own packets once a packet has come in. -/
theorem test_own_now : ((packetIn (host.setFld .ethCfg 0 0 32 16 0x1234) 0).session 0).map (fun x => x.peer.service) = some 0x1234 := by decide +kernel

/-- Row repair of stack 0 runs, so that its lock is held (R273). -/
def rowLocked (s : State) : State := { s with maint := { running := [repairAct] } }
theorem wit_check_locked : argsLocked (rowLocked (checking 5 (~~~5))) (run0 0x10) 16 = true ∧ stepRecordLocked (rowLocked (checking 5 (~~~5))) 1 = true
    ∧ startedRun (rowLocked (checking 5 (~~~5))) 0 rtStepCheck = some (run0 0x10) := by decide +kernel
theorem wit_check_unlocked : ∀ z ∈ [((5 : Word), ~~~(5 : Word)), (5, 5), (0x7FF0000000000000, ~~~0x7FF0000000000000)],
    argsLocked (checking z.1 z.2) (run0 0x10) 16 = false ∧ stepRecordLocked (checking z.1 z.2) 1 = false
    ∧ argsLocked (chk1 z.1 z.2) (run0 0x10) 32 = false ∧ rangesLocked (chk2 z.1 z.2) [(32, 16), (48, 8)] = false :=
  each (by decide +kernel)

/-- Schedule 0 of a leaf, whose parent is role 1, and of a tree of one member. -/
def lone (parent : Nat) : Bytes := wordsBytes [place 60 4 2 ||| place 48 12 parent, 0, 0, 0, 0, 0, 0, 0]
def loneX (parent : Nat) : Bytes := wordBytes 0x80000000000110E0 ++ (List.replicate 8184 0 ++ lone parent)
def checkLone (parent : Nat) : State := let s := checking 5 (~~~5)
  { s with c := { s.c with route := imageX (loneX parent) }, f := { s.f with ports := [(0, { st := .up })] } }
def lone1 (parent : Nat) : State := argSt (readArgs (checkLone parent) (run0 0x10) 16) (checkLone parent)
def lone2 (parent : Nat) : State := argSt (readArgs (lone1 parent) (run0 0x10) 32) (lone1 parent)
def lone3 (parent : Nat) : State := (memRead (lone2 parent) .ddma {} 32 16).2
def lone4 (parent : Nat) : State := (readPartials [(48, 1)] (lone3 parent)).2
def loneSched (parent : Nat) : Sched := ⟨2, parent, [], []⟩
theorem lone_sched (s : State) (parent : Nat) (hp : parent = 1 ∨ parent = 0xFFF) (hs : s.c.route = imageX (loneX parent)) :
    schedule s 0 = some (loneSched parent) := by
  have h1 : imgNat (imageX (loneX parent)) 61664 8 = 2 ^ 63 + 69856 := by
    rw [imgNat, imageX_rest _ _ (Nat.le_refl _), Nat.sub_self, List.drop_zero]
    rcases hp with rfl | rfl <;> decide +kernel
  have hl : (wordBytes 0x80000000000110E0).length = 8 := by decide +kernel
  have h2 (k : Nat) : imgWord (imageX (loneX parent)) (69856 + k) = imgWord (lone parent) k := by
    rw [imgWord, imgNat, imageX_rest _ _ (by omega), loneX, drop_behind _ _ _ (by rw [hl]; omega), hl,
      drop_behind _ _ _ (by rw [List.length_replicate]; omega), List.length_replicate, show 69856 + k - 61664 - 8 - 8184 = k by omega]
    rfl
  have h3 : schedOffset (imageX (loneX parent)) 0 = some 69856 := by simp only [schedOffset, h1]; decide +kernel
  have h4 : schedWords (imageX (loneX parent)) 69856 = schedWords (lone parent) 0 := by
    have h0 := h2 0
    simp only [Nat.add_zero] at h0
    simp only [schedWords, h0, h2, Nat.add_assoc, Nat.zero_add]
  rw [schedule, hs, h3, Option.map_some, h4]
  rcases hp with rfl | rfl <;> decide +kernel
theorem wit_lone_reads : ∀ p ∈ [1, 0xFFF], let s := checkLone p
    startedRun s 0 rtStepCheck = some (run0 0x10) ∧ s.coll 0xFF = none ∧ inlineBad (runWords s (run0 0x10)) 0 = none
    ∧ argVal (readArgs s (run0 0x10) 16) = some (wordsBytes [32, 1]) ∧ argVal (readArgs (lone1 p) (run0 0x10) 32) = some (wordsBytes [32, 1, 48, 1])
    ∧ val (memRead (lone2 p) .ddma {} 32 16) = some (wordsBytes [5, ~~~5]) ∧ val (readPartials [(48, 1)] (lone3 p)) = some [0x3FF0000000000000]
    ∧ schedFits (lone4 p) (loneSched p) 2 3 0 = true ∧ (lone4 p).f.buffer = [] ∧ (loneSched p).children = [] := each (by decide +kernel)
theorem wit_lone_sched : schedule (lone4 1) 0 = some (loneSched 1) ∧ schedule (lone4 0xFFF) 0 = some (loneSched 0xFFF) :=
  ⟨lone_sched _ 1 (.inl rfl) rfl, lone_sched _ 0xFFF (.inr rfl) rfl⟩
theorem wit_leaf : roleMember (lone4 1).c.route 1 = some 1 ∧ leaveOf (lone4 1) 1 = .out 0 0 := by
  have h : (lone4 1).c.route = imageX (loneX 1) := rfl
  refine ⟨by rw [h]; decide +kernel, ?_⟩
  simp only [leaveOf, h, routeX]
  decide +kernel

theorem wit_verdict_locked : (rowLocked (judging [])).coll 0xFF = some (verdictColl []) ∧ stepRecordLocked (rowLocked (judging [])) 1 = true := by
  decide +kernel
theorem wit_verdict_unlocked : ∀ rec_ ∈ [[place 8 2 3, 7, 0x3FF0000000000000, 9, 9], [0, 7, 0x4020000000000000, 9, 9]],
    stepRecordLocked (judging rec_) 1 = false := each (by decide +kernel)
theorem wit_shards_unlocked : shardLocked mirrored false = false ∧ shardLocked mirrored true = false ∧ (ver1 true).held = true
    ∧ shardLocked (ckpt true) false = false ∧ verdictOf (ckpt true) 2 = none ∧ heldBad (ckpt true) = none := by decide +kernel
theorem wit_rails : health.m.railsRead = false ∧ reinRuns { health with m := { health.m with railsRead := true } } = true := by decide +kernel
theorem wit_restore_unlocked : ∀ z ∈ [(true, (2 : Word)), (false, 3)], shardLocked fed false = false
    ∧ wordAt (restoreData z.1 z.2) (128 + 8 * 0) ≠ streamCounter (seedPair fed (seedKind 0 false)).1 0 3 := each (by decide +kernel)
theorem wit_takeover_held : regHeld spare .cfgRole = true ∧ regHeld fed .cfgRole = true := by decide +kernel

/-! Witnesses of further clauses: tack calls, collectives and their frames. -/
def unnamed (args : List (Nat × Word)) : State := fly 300 (descOf 0x40 0 ((5, place 48 16 0x50) :: args)) .issued host
def unnamedRun : TackRun := ⟨0, 0, 1, 0x50, .started, 0⟩
/-- As its routine has begun. -/
def unnamedBegun (args : List (Nat × Word)) : State :=
  let s := fly 300 (descOf 0x40 0 ((5, place 48 16 0x50) :: args)) .executing host
  s.setRuns [unnamedRun]
theorem wit_unnamed : ∀ args ∈ [[], [(6, ref 1 0 0x20000000000)]],
    oldest (unnamed args) 300 0x40 .issued = some (flyOf (descOf 0x40 0 ((5, place 48 16 0x50) :: args)) .issued)
    ∧ putFlight (unnamed args) 300 (flyOf (descOf 0x40 0 ((5, place 48 16 0x50) :: args)) .issued)
        (flyOf (descOf 0x40 0 ((5, place 48 16 0x50) :: args)) .executing)
      = fly 300 (descOf 0x40 0 ((5, place 48 16 0x50) :: args)) .executing host
    ∧ dRoutine (descOf 0x40 0 ((5, place 48 16 0x50) :: args)) = 0x50
    ∧ argsLocked (unnamedBegun args) unnamedRun (blockBytes (unnamedBegun args) unnamedRun) = false := each (by decide +kernel)
theorem wit_unnamed_none : readArgs (unnamedBegun []) unnamedRun (blockBytes (unnamedBegun []) unnamedRun) = none := by
  have h : (dArgs (runWords (unnamedBegun []) unnamedRun)).absent = true := by decide +kernel
  simp [readArgs, h]
/-- A block beyond the end of HBM, however much of it the routine reads. -/
theorem wit_unnamed_range : ∃ e, readArgs (unnamedBegun [(6, ref 1 0 0x20000000000)]) unnamedRun
    (blockBytes (unnamedBegun [(6, ref 1 0 0x20000000000)]) unnamedRun) = some (.error e, unnamedBegun [(6, ref 1 0 0x20000000000)]) := by
  have h : (dArgs (runWords (unnamedBegun [(6, ref 1 0 0x20000000000)]) unnamedRun)).absent = false
      ∧ (dArgs (runWords (unnamedBegun [(6, ref 1 0 0x20000000000)]) unnamedRun)).addr = 0x20000000000 := by decide +kernel
  simp only [readArgs, h.1, h.2, memRead]
  rw [if_pos (show hbmSize < 0x20000000000 + _ from Nat.lt_of_lt_of_le (by decide) (Nat.le_add_right _ _))]
  exact ⟨_, rfl⟩

theorem wit_coll_unlocked : ∀ z ∈ collKinds, argsLocked (collCall z.1 z.2.1 z.2.2.2.1 z.2.2.2.2) (run0 z.1) 64 = false
    ∧ hbmLocked (coll1 z.1 z.2.1 z.2.2.2.1 z.2.2.2.2) 0 0 = false := each (by decide +kernel)
theorem wit_local_unlocked : (∀ x ∈ [placeBit 63 true, (0 : Word)], argsLocked (localCall x) (run0 5) 64 = false
      ∧ rangesLocked (local1 x) (localAreas (localArgs x 192)) = false)
    ∧ ∀ m ∈ [({} : LineMeta), { poison := true }], argsLocked (localAt200 m) (run0 5) 64 = false
      ∧ rangesLocked (argSt (readArgs (localAt200 m) (run0 5) 64) (localAt200 m)) (localAreas (localArgs (placeBit 63 true) 200)) = false :=
  ⟨each (by decide +kernel), each (by decide +kernel)⟩
theorem wit_send_unlocked : sendLocked (staged true) (collOf progDone (some true)) twoStages[1] = false := by decide +kernel
theorem wit_frame_unlocked : ∀ c ∈ [collOf progOn (some true), collOf [{}, {}] none, collKids [{}, {}]], ∀ k ∈ [1, 2, 3],
    frameLocked (staged false) c (frameOf k (rec64 3)) = false := by
  intro c hc k hk
  exact each (p := fun c => ∀ k ∈ [1, 2, 3], frameLocked (staged false) c (frameOf k (rec64 3)) = false) (by decide +kernel) c hc k hk
/-- A stage that combines what it receives, and one that hands it to a girth. -/
def stageOp (op : Nat) : Stage := ⟨op, op == 2, false, false, 1, 0xFFF, 0, 0, 1, 0⟩
def collOp (op : Nat) : Coll := { collOf progOn (some true) with stages := [stageOp op, twoStages[1]], binds := [(0x8000, 0)] }
def stagedOp (op : Nat) : State := { staged false with f := { (staged false).f with colls := [collOp op] } }
theorem wit_frame_ops : ∀ op ∈ [2, 3], let s := stagedOp op
    let f := frameOf 1 (rec64 3)
    s.coll f.coll = some (collOp op) ∧ Memory.wf s = true ∧ isLocal s 0 f = true ∧ frameMisfits (collOp op) f = false
    ∧ frameLocked s (collOp op) f = false ∧ stageFor (collOp op) f = some 0 ∧ f.w3 = (collOp op).stamp ∧ (s.port 0).st = .up
    ∧ (4096 + 64 * f.len ≤ 2 ^ 40 ∧ denied s .ddma false 4096 64 = none ∧ ∀ l ∈ linesOf 4096 64, s.lineMeta l = {})
    ∧ denied s .ddma true 4096 64 = none ∧ landedBytes s 0 + 64 * f.len ≤ 2097152 ∧ s.f.buffer = [] ∧ s.f.ended = [] := each (by decide +kernel)
theorem test_frame_lands : ((after (.dataFrameReceived 0 (frameOf 1 (rec64 3))) (stagedOp 3)).f.landing.map fun x => (x.bind, x.got.length))
    = [(0x8000, 1)] := by decide +kernel

/-! Witnesses of further clauses: links, mirror copies, maintenance. -/

theorem wit_timeout_fast : (ported { st := .train, fast := true }).port 0 = { st := .train, fast := true }
    ∧ Memory.wf (ported { st := .train, fast := true }) = true := by decide +kernel
/-- A frame being received, and one of a collective that waits to be sent, are discarded and counted (R411, R423). -/
theorem test_timeout_fast : let x : LinkPort := { st := .train, fast := true, queue := [⟨1, frameOf 2 (rec64 0), none⟩] }
    (after (.trainingTimeout ⟨0, [frameOf 1 (rec64 3)]⟩) (ported x)).fld .aflCollCnt 0 0 0 16 = 2 := by decide +kernel
theorem wit_spare_receives : let s := laned 2 { sparing := some ⟨3, 0, true, true⟩ }
    (s.port 0).sparing = some ⟨3, 0, true, true⟩ ∧ (0, 1) ∈ usableSpares s 0 ∧ isLocal s 0 (frameOf 1 (rec64 3)) = true := by decide +kernel
theorem wit_up_unfit : ((ported { st := .up }).port 0).queue = [] ∧ neighbourFits (ported { st := .up }) 0 (identWord 2 1 3 true) = false := by decide +kernel
theorem test_stamp_held : ((after (.stampUpdateReceived 0 (ctrlOf 2 (identWord 2 1 3 true) 5 (~~~5))) (ported { st := .up })).port 0).st = .held := by
  decide +kernel
/-- An OPEN that waits on VC 1, after frames of step 9. -/
def openWaits : State := ported { st := .up, queue := [⟨1, frameOf 2 (rec64 0), none⟩], step := some 9 }
theorem wit_transmit_coll : openWaits.m.gateOpen = true ∧ portsLocked openWaits = false ∧ (frameOf 2 (rec64 0)).ofColl = true
    ∧ firstOn (openWaits.port 0) 1 = some ⟨1, frameOf 2 (rec64 0), none⟩ ∧ canStart (openWaits.port 0) 1 (frameOf 2 (rec64 0)) = true
    ∧ (openWaits.port 0).step = some 9 ∧ (frameOf 2 (rec64 0)).w1 ≠ 9 ∧ Memory.wf openWaits = true ∧ (frame0 1).ofColl = false
    ∧ (passing 1).ofColl = true := by decide +kernel
/-- R361: the totals of step 9 are published as the port's step moves on. -/
theorem test_transmit_coll : (after (.frameTransmit 0 1) openWaits).reg .aflPortPtStep 0 0 = 9 := by decide +kernel
/-- A copy from member 1, and a frame of member 2 that waits for the lock since before the copy's last progress. -/
def copyBehind : State := let s := copying { take1 with timer := 5 }
  { s with f := { s.f with copyHeld := [⟨0, mcopy 2, false, 3⟩] } }
theorem wit_copy_behind : copyBehind.f.copy = some { take1 with timer := 5 } ∧ firstWaiting copyBehind.f.copyHeld = some ⟨0, mcopy 2, false, 3⟩
    ∧ (mcopy 2).src ≠ take1.peer ∧ (3 : Word).toNat < (5 : Word).toNat := by decide +kernel
theorem test_copy_behind : (after (.copyTimeout false) copyBehind).f.copyHeld = [] := by decide +kernel
theorem wit_copy_role : accepts { hostT with regs := (hostT.setReg .cfgRole 0 0 1).regs } req 0x73 = true
    ∧ regHeld { hostT with regs := (hostT.setReg .cfgRole 0 0 1).regs } .cfgRole = false ∧ regHeld repairable .cfgRole = true := by decide +kernel
theorem wit_stamp_held : firstUnheld (maint [loadAct 1] []) stampValues = none ∧ firstUnheld (maint [routeAct 1] []) stampValues = none := by decide +kernel
/-- One symbol in error is corrected (R263). -/
theorem wit_scrub_correctable : (match decodeLine ((scrubbing 0 { sym := [(3, 6)] }).line 0) ((scrubbing 0 { sym := [(3, 6)] }).lineMeta 0) with
    | (.corrected syms, _, m) => decide (syms.length = 1 ∧ m = {}) | _ => false) = true ∧ (scrubbing 0 { sym := [(3, 6)] }).mem.sbg = []
    ∧ (scrubbing 0 { sym := [(3, 6)] }).mem.under = [] ∧ (scrubbing 0 bad3).mem.under = [] ∧ Lists.wf (scrubbing 0 { sym := [(3, 6)] }) = true
    ∧ Memory.wf (scrubbing 0 { sym := [(3, 6)] }) = true := by decide +kernel
/-- R269: the line is written back corrected, and counted. -/
theorem test_scrub_correctable : let t := after (.scrubLine 0) (scrubbing 0 { sym := [(3, 6)] })
    t.lineMeta 0 = {} ∧ t.fld .hbmEccCnt 0 0 32 32 = 1 := by decide +kernel
/-- R268: scrub rewrites HBM beneath a clean slice copy, which stays as it is. -/
theorem test_scrub_beneath : let s := scrubbing 0 bad3
    let t := setBeneath { s with mem := { s.mem with sbg := [⟨0, .normal, none⟩] } } 0 (List.replicate 64 1) {}
    t.lineMeta 0 = bad3 ∧ t.byte 0 = 0 := by decide +kernel

/-- The input stage of a module that has no power, as given. -/
def staged0 (x : InputStage) : State := { State.reset with m := { State.reset.m with input := x } }
theorem wit_input : inputQualifies State.reset.m.input = true ∧ State.reset.m.supplied = false
    ∧ ∀ x ∈ [({ mated := false } : InputStage), { modEn := false }, { vinHeld := 9999999 }, { offFor := 1999999999 }],
      inputQualifies x = false ∧ (staged0 x).m.supplied = false := ⟨by decide +kernel, by decide +kernel, each (by decide +kernel)⟩
/-- R570: the 2 s run from the last cause of removal. -/
theorem test_input_again : (after .inputPowerRemoval State.reset).m.input.offFor = 0
    ∧ (match exec .inputQualified (after .inputPowerRemoval State.reset) with | .refused _ => true | _ => false) = true := by decide +kernel
theorem wit_rein_outside : ∀ z ∈ [(550, 100), (800, 100)], let s := reining z.1 z.2
    reinRuns s = true ∧ Memory.wf s = true ∧ (vcore s < vmin s ∨ vmax s < vcore s) ∧ vmin s ≤ vmax s ∧ vmax s ≤ 850 ∧ 10 ≤ gate s ∧ gate s ≤ 100 :=
  each (by decide +kernel)
/-- 249 periods above the cap, or 249 at or below it with CAP_UNATTAINABLE set. -/
def reinAfter (above under : Nat) (set : Nat) : State :=
  let s := (reining 600 10).setFld .pwrStat 0 0 2 1 set
  { s with m := { s.m with overPeriods := above, underPeriods := under } }
theorem wit_rein_periods : ∀ z ∈ [(249, 0, 0), (0, 249, 1), (3, 0, 0)], let s := reinAfter z.1 z.2.1 z.2.2
    reinRuns s = true ∧ Memory.wf s = true ∧ vmin s = min (vmax s) (max (vmin s) (vcore s)) ∧ gate s = 10 ∧ bit (s.reg .pwrStat 0 0) 2 = (z.2.2 == 1)
    ∧ s.m.overPeriods = z.1 ∧ s.m.underPeriods = z.2.1 := each (by decide +kernel)
theorem test_input_time : (match step { staged0 { offFor := 5 } with pending := [] } with | .next t => t.m.input.offFor | _ => 0) = 6 := by decide +kernel
/-- Ramp-ups that wait take the places that become free (R484). -/
theorem test_ramp_waits : let d : Nat → Bool → Nat × Domain := fun k a => (k, { st := .rampUp, active := a, due := 5, turn := some (req3 true) })
    let s : State := { hostT with m := { hostT.m with domains := [d 0 true, d 1 true, d 2 true, d 3 true, d 4 false] } }
    ((after (.domainRampDone 3) s).domain 4).active = true := by decide +kernel

/-! Witnesses of further clauses: completion, histograms, resume, snapshots. -/

/-- A MATMUL of stirrup 5 that counted 3 in bin 2, with its histogram record at 0x10000. -/
def countedWs (dst : Bool) : List Word :=
  let ws := (matWs false).set 4 (placeBit 31 true ||| 9)
  if dst then ws.set 11 (placeBit 63 true ||| place 32 22 0x10000) else ws
def countedFly (dst : Bool) : InFlight := { flyOf (countedWs dst) .ended with counts := some (5, [(2, 3)]) }
def counted (dst : Bool) : State :=
  let s := host.setReg .dspCplBase 5 0 4096
  { s with d := { s.d with stirrups := [(5, { st := .run, flight := [countedFly dst] })] }, sdl := [(5, { bank := [(2, 1)] })] }
theorem wit_counted : ∀ b ∈ [true, false], let s := counted b
    ((s.stir 5).flight.find? fun f : InFlight => f.slot == (0 : BitVec 24).toNat && f.phase == .ended) = some (countedFly b)
    ∧ recordLocked s 5 0 = false ∧ histLocked s 5 (countedFly b) = false ∧ pastLocked s 5 1 = false ∧ s.m.rung = .none ∧ Memory.wf s = true
    ∧ Lists.wf s = true ∧ denied s .fetch true (cplAddr s 5 0) 32 = none ∧ s.mem.lines = [] ∧ cplAddr s 5 0 = 4096
    ∧ (matOf (countedWs b)).histDst = (if b then some 0x10000 else none) ∧ denied s .sdma true 0x10000 272 = none ∧ (s.stir 5).past = [] :=
  each (by decide +kernel)
/-- R74: the counts join the bank, and the snapshot is published. -/
theorem test_counted : let t := after (.descriptorComplete 5 0) (counted false)
    t.reg .sdlHistBin 5 2 = 4 ∧ t.fld .sdlHistSeq 5 0 0 32 = 1 ∧ (histRecord t 5)[8]? = some 4 := by decide +kernel
/-- R97: a histogram record that cannot be written leaves the bank and the snapshot as they were. -/
theorem test_counted_denied :
    let s := (((counted true).setReg .hbmProtBase 0 0 0x10000).setReg .hbmProtLimit 0 0 0x10000).setReg .hbmProtPerm 0 0 0x8000
    let t := after (.descriptorComplete 5 0) s
    t.fld .sdlHistSeq 5 0 0 32 = 0 ∧ t.reg .sdlHistBin 5 2 = 0 := by decide +kernel
theorem wit_complete_unlocked : ∀ z ∈ [(true, none), (false, none), (true, some (0x21, (64 : Word)))],
    histLocked (ended z.1 z.2) 5 { flyOf (endedWords z.1) .ended with fault := z.2 } = false ∧ pastLocked (ended z.1 z.2) 5 1 = false := each (by decide +kernel)
theorem wit_nop_unlocked : pastLocked (fly 5 nopWords .issued host) 5 1 = false := by decide +kernel
theorem wit_issue_unlocked : phaseLocked (onHead nopWords) 5 1 = false := by decide +kernel
theorem wit_begin_held : ∀ b ∈ [true, false], regHeld (begins b) .cfgRole = true ∧ regHeld (begins b) .brcLastReleased = true := each (by decide +kernel)

/-- Every domain is ON, and stirrup 5 is as given. -/
def allOn (st : StirrupState) : State := powered (List.range 80) (asked st none)
theorem wit_resume_all : accepts (allOn .stopped) req 0x51 = true ∧ Memory.wf (allOn .stopped) = true ∧ Lists.wf (allOn .stopped) = true
    ∧ ((List.range 304).all fun t => !groupAway (allOn .stopped) t && !groupAway (allOn .halted) t) = true
    ∧ ((List.range 304).all fun t => decide (((allOn .stopped).stir t).st ≠ .halted)) = true ∧ (allOn .stopped).a.dry = none
    ∧ ((allOn .stopped).stir 5).st = .stopped ∧ ((allOn .halted).stir 5).st = .halted := by decide +kernel
theorem test_resume_all : ((after (.dspResume req 0x1FF) (allOn .stopped)).stir 5).st = .run
    ∧ status (after (.dspResume req 0x1FF) (allOn .halted)) = some 0x0601 := by decide +kernel
theorem wit_snapshot_out : isQuiescent (attesting (some 64) false) = true ∧ destinations (attesting (some 64) false) ≠ [] ∧ destinations host = []
    ∧ (snapRanges (field (([0] : List Word).headD 0) 0 7) ([0] : List Word).tail).any snapPast = false
    ∧ (snapRanges (field (([0] : List Word).headD 0) 0 7) ([0] : List Word).tail).findSome? (snapDenied (attesting (some 64) false)) = none
    ∧ accepts (attesting (some 64) false) req 0x53 = true := by decide +kernel

/-! Witnesses of further clauses: MATMULs, welt switches and drains of every shape. -/

/-- Every range of a list is empty or readable, found by running through it. -/
def rangesOk (s : State) (n : Nat) (rs : List Range) : Bool :=
  rs.all fun z => z.2 == 0 || (benchBad s n z.1 z.2 == none && (benchWordsOf z.1 z.2).all fun x => s.benchWord n x == .good)
theorem ranges_good {s : State} {n : Nat} {rs : List Range} (h : rangesOk s n rs = true) : RangesGood s n rs := by
  intro z hz
  have h1 := List.all_eq_true.mp h z hz
  simp only [Bool.or_eq_true, Bool.and_eq_true, beq_iff_eq, List.all_eq_true] at h1
  exact h1.imp_right fun h2 => ⟨h2.1, fun x hx => by simpa using h2.2 x hx⟩
def matIssued (ws : List Word) : State := benched [(0, 0x40), (8192, 0x44)] (fly 5 ws .issued host)
def matStream (ws : List Word) (g : Nat) : State :=
  { benched [(0, 0x40), (8192, 0x44)] (fly 5 ws .executing host) with sdl := [(5, { st3 with runs := [matRun 0 g 0 []] })] }
/-- The MATMUL in a narrow pair, in quadrants, with its histogram, and with B in tile 1. -/
def quadWs : List Word := (matWs false).set 14 (dWord (matWs false) 112 ||| placeBit 21 true)
def histWs (h : Nat) : List Word := (matWs false).set 4 (place 62 2 h)
def tileWs : List Word := (matWs false).set 6 (ref 3 2 1)
theorem wit_shapes : (matOf slipWs).narrow = true ∧ (matOf quadWs).quads = 4 ∧ (matOf quadWs).w = 16 ∧ dHist (histWs 1) = 1 ∧ dHist (histWs 2) = 2
    ∧ (matOf tileWs).b.space = 3 := by decide +kernel
theorem wit_matmul_shapes : ∀ ws ∈ [matWs false, slipWs, quadWs, histWs 1, histWs 2], let s := matIssued ws
    oldest s 5 0x10 .issued = some (flyOf ws .issued) ∧ matMayStart s 5 (flyOf ws .issued) = true ∧ Memory.wf s = true ∧ Lists.wf s = true
    ∧ tileFault s 5 (matOf ws) = none ∧ (s.saddle 5).slips = []
    ∧ ((List.range (matOf ws).quads).all fun q => rangesOk s 5 (chunkRanges (matOf ws) 0 q)
        && (reservedIn (matOf ws) 0 0 (rangeBytes s 5 (chunkRanges (matOf ws) 0 q) 0)).isNone) = true := each (by decide +kernel)
theorem wit_matmul_tile : let s := (matIssued tileWs).setFld .sdlAccFlags 5 1 0 2 1
    oldest s 5 0x10 .issued = some (flyOf tileWs .issued) ∧ matMayStart s 5 (flyOf tileWs .issued) = true ∧ tileFault s 5 (matOf tileWs) = none
    ∧ rangesOk s 5 (chunkRanges (matOf tileWs) 0 0) = true ∧ reservedIn (matOf tileWs) 0 0 (rangeBytes s 5 (chunkRanges (matOf tileWs) 0 0) 0) = none := by
  decide +kernel
/-- Four lanes' groups of 8, of which the first clears the cells. -/
def midWs (quad : Bool) : List Word := (matWs false).set 14 ((dWord (matWs false) 112 - place 18 2 1) ||| placeBit 21 quad)
theorem wit_switch_first : ∀ b ∈ [true, false], let s := matStream (midWs b) 0
    streaming s 5 = some (matRun 0 0 0 []) ∧ matWords s 5 (matRun 0 0 0 []) = midWs b ∧ 0 + 1 < (matOf (midWs b)).q ∧ Memory.wf s = true
    ∧ Lists.wf s = true ∧ s.m.gateOpen = true ∧ shapeBad (matOf (midWs b)) = false ∧ 0 % (matOf (midWs b)).kc = 0
    ∧ passCells (matOf (midWs b)) (0 / (matOf (midWs b)).kc) ≠ [] := each (by decide +kernel)
theorem wit_switch_last : ∀ ws ∈ [matWs false, slipWs, quadWs, histWs 1], let s := matStream ws ((matOf ws).q - 1)
    let r := matRun 0 ((matOf ws).q - 1) 0 []
    streaming s 5 = some r ∧ matWords s 5 r = ws ∧ 1 ≤ (matOf ws).q ∧ Memory.wf s = true ∧ Lists.wf s = true ∧ s.m.gateOpen = true ∧ r.slips = []
    ∧ shapeBad (matOf ws) = false ∧ (matOf ws).a.space ≠ 3 ∧ (matOf ws).passes ≤ r.pass + 1
    ∧ ((List.range (matOf ws).quads).all fun q => rangesOk s 5 (streamRanges (matOf ws) 0 0 (matOf ws).aCount q)) = true := each (by decide +kernel)
/-- A comes from tile 1, which is no output tile; and the first of two chunks, whose successor can be loaded. -/
def fromTileWs : List Word := (matWs false).set 5 (ref 3 2 1)
def deepWs : List Word := (matWs false).set 14 (dWord (matWs false) 112 ||| place 22 21 33)
theorem wit_switch_tile : let s := matStream fromTileWs 1
    streaming s 5 = some (matRun 0 1 0 []) ∧ matWords s 5 (matRun 0 1 0 []) = fromTileWs ∧ 1 + 1 = (matOf fromTileWs).q
    ∧ (matOf fromTileWs).a.space = 3 ∧ (matOf fromTileWs).a.addr = 1 ∧ (matOf fromTileWs).outTiles = [0]
    ∧ rangesOk s 5 (streamRanges (matOf fromTileWs) 0 0 (matOf fromTileWs).aCount 0) = true := by decide +kernel
theorem wit_switch_next : let s := matStream deepWs 1
    streaming s 5 = some (matRun 0 1 0 []) ∧ (matOf deepWs).passes = 2 ∧ badLoadRow s 5 (matOf deepWs) 1 = none
    ∧ rangesOk s 5 (streamRanges (matOf deepWs) 0 0 (matOf deepWs).aCount 0) = true := by decide +kernel

/-- Whether no two of a list of writes touch a byte in common. -/
def apart : List Put → Bool
  | [] => true
  | p :: ps => ps.all (fun q => decide (p.1 + p.2.length ≤ q.1 ∨ q.1 + q.2.length ≤ p.1)) && apart ps
theorem puts_apart : ∀ {ps : List Put}, apart ps = true → List.Pairwise PutsApart ps
  | [], _ => .nil
  | p :: ps, h => by
    simp only [apart, Bool.and_eq_true, List.all_eq_true, decide_eq_true_eq] at h
    exact .cons h.1 (puts_apart h.2)
/-- The drain with a per-channel scale, requantised, in quadrants, into blocks, with row maxima, with captured magnitudes, into tile 1, with its
histogram. -/
def withWord (i : Nat) (w : Word) (ws : List Word) : List Word := ws.set i (dWord ws (8 * i) ||| w)
def drainScaled : List Word := withWord 15 (place 60 2 1) (matWs false)
def drainRequant : List Word := withWord 15 (place 60 2 2) ((((matWs false).set 5 (ref 2 8 0)).set 6 (ref 2 8 8192)).set 7 (ref 2 8 65536))
def drainQuad : List Word := withWord 13 (place 34 17 1) quadWs
def drainBlock : List Word := withWord 11 (placeBit 31 true ||| place 0 22 81920) ((matWs false).set 7 (ref 2 11 65536))
def drainFused : List Word := withWord 14 (place 14 2 3) (withWord 12 (placeBit 31 true ||| place 0 22 81920) (matWs false))
def drainAmax : List Word := withWord 15 (place 11 2 1) (withWord 12 (placeBit 63 true ||| place 32 22 81920) (matWs false))
def drainTile : List Word := (matWs false).set 7 (ref 3 2 1)
def drainOf (ws : List Word) : State :=
  let s := { fly 5 ws .executing host with sdl := [(5, { st6 with runs := [matRun 1 0 0 []] })] }
  s.setReg .sdlSrf 5 0 0x4000000000000000
def drainPuts (ws : List Word) : List Put :=
  let s := drainOf ws
  let x := matOf ws
  let rows := drainRows s 5 x 0
  let acc := x.acc.getD .fp64
  let fused := rows.foldl (fuseRow x acc false true) ([], [], {})
  rows.flatMap (fun y : Row => (rowOut s 5 x .rne 0 y).1) ++ amaxPuts x 0 rows ++ fusedPuts x acc rows fused.1 fused.2.1
theorem store_rne (s : State) (ws : List Word) (step : Word) (h : dStoreMode ws = 0) : storeModeOf s ws step = .ok .rne := by
  simp [storeModeOf, h]
theorem wit_drain_shapes : ∀ ws ∈ [drainScaled, drainRequant, drainQuad, drainBlock, drainFused, drainAmax, drainTile, histWs 1], let s := drainOf ws
    let x := matOf ws
    drainable s 5 = some (matRun 1 0 0 []) ∧ matFlight s 5 (matRun 1 0 0 []) = some (flyOf ws .executing)
    ∧ scalePending s 5 (flyOf ws .executing) x 0 = false ∧ Memory.wf s = true ∧ Lists.wf s = true ∧ shapeBad x = false
    ∧ (matRanges ws).all rangeFits = true ∧ tileFlag s 5 x.a0 3 = false ∧ srfBad s 5 x 0 = false ∧ dStoreMode ws = 0
    ∧ matGood ws = true ∧ x.nt ≤ 0 / x.mt + 1 ∧ apart (drainPuts ws) = true := each (by decide +kernel)
theorem wit_drain_kinds : (matOf drainScaled).dscale = 1 ∧ (matOf drainRequant).dscale = 2 ∧ (matOf drainRequant).acc = some .int32 ∧ (matOf drainQuad).quad = true ∧ 1 * 1 * 4 ≤ 32 * (matOf drainQuad).qsD
    ∧ isBlock (matOf drainBlock).d.fmt = true ∧ (matOf drainFused).fused = 3 ∧ (matOf drainAmax).amaxDst = some 81920
    ∧ (matOf drainTile).d.space = 3 ∧ accFmtOf (matOf drainTile).d.fmt = some .fp32 ∧ dHist (histWs 1) ≠ 0
    ∧ (∀ ws ∈ [drainScaled, drainRequant, drainQuad], (matOf ws).d.space = 2 ∧ isBlock (matOf ws).d.fmt = false ∧ (matOf ws).fused = 0
      ∧ (matOf ws).amaxDst = none) := by decide +kernel
theorem wit_drain_plain : matGood (matWs false) = true ∧ apart (drainPuts (matWs false)) = true ∧ shapeBad (matOf (matWs false)) = false
    ∧ (matRanges (matWs false)).all rangeFits = true := by decide +kernel
/-- A SCALE_LOAD that is older holds a drain that reads its entry, and no other (R138). -/
theorem test_scale_pending : let s := drainOf drainScaled
    let older : InFlight := { flyOf (descOf 0x11 1 [(5, ref 2 0 256), (6, 1)]) .issued with slot := 1 }
    let t := { s with d := { s.d with stirrups := [(5, { st := .run, flight := [older, flyOf drainScaled .executing] })] } }
    scalePending t 5 (flyOf drainScaled .executing) (matOf drainScaled) 0 = true
    ∧ scalePending t 5 (flyOf drainScaled .executing) (matOf (matWs false)) 0 = false := by decide +kernel

/-! Witnesses of further clauses: whole kernels, the solver, update units. -/

/-- A kernel that stirrup 5 names, as it starts. -/
def kernelOf (image : Bytes) (args : Word) : State :=
  let s := fly 5 (vecWs.set 15 args) .issued host
  { s with d := { s.d with banks := [(0, { st := .sealed, gen := 1, image := image })] } }
def kernelStart (args : Word) (s : State) : Vec :=
  let ws := vecWs.set 15 args
  let o := dRef ws 120
  startVec (vecCtxOf (flyOf ws .issued)) (if o.space = 0 then [] else bytesWords 16 (if o.space = 4 then paramBytes s o.addr 128 else s.benchRaw 5 o.addr 128))
    ((List.range 6).map fun i => match dRange ws i with
      | some r => r.1
      | none => 0)
def kernelFine (image : Bytes) (args : Word) : Bool :=
  let s := kernelOf image args
  let x := kernelStart args s
  match findKernel (kernelImage s 5 0) (dKernel vecWs) with
  | none => false
  | some e =>
    let c := codeOf (kernelImage s 5 0) e
    let fine := fun (sect : Nat) (w : Word) => (illegal s unit5 { x with sect := sect } (vinstrOf w)).isNone && decide (3 < (vinstrOf w).base)
      && (vinstrOf w).base != 0x3E && (vinstrOf w).base != 0x3C
    c.pro.all (fine 0) && c.body.all (fine 1) && c.epi.all (fine 2)
      && (runKernel unit5 c x (putFlight s 5 (flyOf (vecWs.set 15 args) .issued) (flyOf (vecWs.set 15 args) .executing))).x.wait.isNone
theorem wit_kernel_fine : ∀ z ∈ [(kimage, (0 : Word)), (uimage2, 0), (uimage2, ref 4 0 0), (uimage2, ref 2 0 256)], let s := kernelOf z.1 z.2
    oldest s 5 0x18 .issued = some (flyOf (vecWs.set 15 z.2) .issued) ∧ vecMayStart s 5 (flyOf (vecWs.set 15 z.2) .issued) = true ∧ Lists.wf s = true
    ∧ kernelFine z.1 z.2 = true ∧ (dRef (vecWs.set 15 z.2) 120).space = field z.2 60 4 ∧ rangesOk s 5 [(256, 128)] = true := each (by decide +kernel)
/-- SADD alone moves no address register by itself (R221). -/
theorem wit_kernel_bases : (match findKernel (kernelImage (kernelOf uimage2 0) 5 0) (dKernel vecWs) with
    | none => false
    | some e => let c := codeOf (kernelImage (kernelOf uimage2 0) 5 0) e
      (c.pro ++ c.body ++ c.epi).all fun w => (vinstrOf w).base != 0x09) = true := by decide +kernel
/-- A kernel whose instruction faults waits for nothing, and ends its descriptor with the fault. -/
def badImage : Bytes :=
  wordsBytes [1, 120, 0, 64, 0, 0, 0, 0, place 48 16 7 ||| place 32 16 1, place 39 19 80 ||| place 13 13 1, place 56 8 0x7F]
theorem test_kernel_fault : ((((after (.vecKernel 5) (kernelOf badImage 0)).stir 5).flight.map fun f => (f.phase, f.fault.isSome)) = [(.ended, true)]) := by
  decide +kernel
def vldTile : Word := place 56 8 1 ||| place 49 3 1 ||| place 43 6 1 ||| place 25 6 1 ||| place 13 4 2
/-- A held block whose tile a MATMUL still writes does not restart (R115). -/
theorem wit_restart_tile : let s := { matStream (matWs false) 1 with
      vec := sset {} [] 5 { (({} : State).vecOf unit5) with wait := some 0, running := false, block := [vldTile] } }
    s.m.gateOpen = true ∧ (s.vecOf unit5).wait = some 0 ∧ (s.vecOf unit5).running = false
    ∧ blockFree s unit5 (s.vecOf unit5) (s.vecOf unit5).block = false := by decide +kernel

/-! Witnesses: an adjoint with a fitting factor, the list of CINCH_DRIVE locked, a girth's trips that run. -/

/-- The factor of 2x = 3 by QR: R is 2, and the solution's STAT says USE. -/
def fact1 : Bytes := wordsBytes [1, ~~~1, 0, place 40 16 1 ||| 1, 0x4000000000000000]
def adjoining : State :=
  withHbm 0x80000 fact1 (withHbm 0x7FFFFFFC0 (batch1 size1 1 (~~~1)) (fly 300 adjWs .issued host))
theorem wit_adjoint_fits : let s := adjoining
    let x := adjointOf adjWs
    let b := storedBatch s x
    let ins := adjointIns adjWs b
    let o := adjointOut adjWs b
    oldest s 300 0x32 .issued = some (flyOf adjWs .issued) ∧ s.m.gateOpen = true ∧ Memory.wf s = true ∧ Lists.wf s = true
    ∧ s.mem.cinErr = [] ∧ areasLocked s (o :: ins) = false ∧ x.lm = false ∧ complOk b.step b.stepInv = true ∧ b.step = 1
    ∧ b.reserved = false ∧ b.kind = 0 ∧ factFits x b 1 (s.bytesAt (ins.getD 3 o).a (ins.getD 3 o).n) = true
    ∧ x.sys.addr + 64 ≤ hbmSize ∧ denied s .solv false x.sys.addr 64 = none ∧ s.mem.lines = []
    ∧ (∀ z ∈ ins, (hintOf z.o.hint).discard = false ∧ (z.n = 0 ∨ z.a + z.n ≤ hbmSize ∧ denied s .solv false z.a z.n = none))
    ∧ o.n = 48 ∧ o.a + o.n ≤ hbmSize ∧ denied s .solv true o.a o.n = none := by decide +kernel
/-- The adjoint of an output gradient of 2 on 2x = 3: λ is 2/(2·2), and q is 1. -/
theorem wit_adjoint_words :
    let y := linearAdjoint (adjointOf adjWs) 1 [[0x4000000000000000]] [0x4008000000000000] [0x3FF8000000000000] [2 ^ 63, 0, 0, 0] [0x4000000000000000] [0x4000000000000000] 0
    y.words = [0, 0, 0x3FF8000000000000, 0x3FE0000000000000, 0, 0x3FF0000000000000] ∧ y.zeroed = false := by decide +kernel
theorem wit_drive_locked : let s := rowLocked (driveState 0 drive1)
    startedRun s 0 rtCinchDrive = some (run0 0x20) ∧ argsLocked s (run0 0x20) 16 = true
    ∧ argsLocked (driveState 0 drive1) (run0 0x20) 16 = false ∧ argsLocked driveRead (run0 0x20) 272 = false := by decide +kernel

/-- A chunk of n elements whose first 128 units of the gradient have landed. -/
def chunkOf (n trips : Nat) : Landing :=
  { chunk trips true with count := n, got := (List.range 128).map fun i => (i, true) }
def girthingOf (n trips : Nat) : State :=
  withHbm 0x8000 (ubind n 0) (girthing (chunkOf n trips) 0 1)
def girthOpen (n trips : Nat) : State :=
  (girthingOf n trips).setVec (.girth 0) (startUpd (updCtx (bindingOf (ubind n 0)) 0 1 1024) [])
theorem wit_girth_more : let s := girthOpen 3008 1
    let x := chunkOf 3008 1
    girthChunk s 0 = some (x, collOf progDone (some true)) ∧ tripLanded x = true ∧ priorPassed s x.step = true ∧ s.m.gateOpen = true
    ∧ mirrorLocked s = false ∧ hbmLocked s x.bind 128 = false ∧ bindLocked s (bindingOf (s.bytesAt x.bind 128)) = false
    ∧ rangeUnread s x.step (bindingOf (s.bytesAt x.bind 128)) = false ∧ denied s .upd false x.bind 128 = none ∧ s.mem.lines = []
    ∧ Memory.wf s = true ∧ Lists.wf s = true ∧ s.f.buffer = [] ∧ 1024 * (x.trips + 1) < x.count := by decide +kernel

/-- What the second trip of that chunk comes to: the trip after it is still to come. -/
theorem wit_girth_trip_runs : let s := girthOpen 3008 1
    (match bindCode (s.bank 0 0).image (bindingOf (ubind 3008 0)) with
     | some k => (runTrip (.girth 0) (bindingOf (ubind 3008 0)) k 0x8000 1 1 (some (List.replicate 1024 0)) s).1.isOk
     | none => false) = true := by decide +kernel
/-- A chunk opens its binding: its kernel is SADD alone, and it has no window. -/
theorem wit_girth_opens : ∀ n ∈ [32, 3008], let s := girthingOf n 0
    let x := chunkOf n 0
    let b := bindingOf (s.bytesAt 0x8000 128)
    let c := collOf progDone (some true)
    girthChunk s 0 = some (x, c) ∧ tripLanded x = true ∧ priorPassed s x.step = true ∧ s.m.gateOpen = true
    ∧ mirrorLocked s = false ∧ hbmLocked s x.bind 128 = false ∧ bindLocked s b = false ∧ rangeUnread s x.step b = false
    ∧ denied s .upd false x.bind 128 = none ∧ s.mem.lines = [] ∧ Memory.wf s = true ∧ Lists.wf s = true ∧ s.f.buffer = []
    ∧ girthRefuses s x b (bindCode (s.bank c.die (collBank s c)).image b) = none ∧ b.storeMode = 0 ∧ b.hyper.absent = true ∧ b.norm.absent = true :=
  each (by decide +kernel)
/-- Its legal instructions, and the windows of its tensors. -/
theorem wit_girth_kernel : ∀ n ∈ [32, 3008], let s := girthingOf n 0
    let b := bindingOf (s.bytesAt 0x8000 128)
    let c := collOf progDone (some true)
    let y := startUpd (updCtx b c.slot 1 1024) []
    let fine := fun (sect : Nat) (w : Word) => (illegal s (.girth 0) { y with sect := sect } (vinstrOf w)).isNone
      && decide (3 < (vinstrOf w).base) && (vinstrOf w).base != 0x3E && (vinstrOf w).base != 0x3C
    (match bindCode (s.bank c.die (collBank s c)).image b with
     | some k => k.pro.all (fine 0) && k.body.all (fine 1) && k.epi.all (fine 2)
     | none => false) = true
    ∧ (tripWindows b 1024 0).all (fun z => z.1.absent || decide ((hintOf z.1.hint).discard = false
        ∧ z.1.addr + z.2.2.2.1 * z.2.1 + z.2.2.2.2 * z.2.1 ≤ hbmSize
        ∧ denied s .upd false (z.1.addr + z.2.2.2.1 * z.2.1) (z.2.2.2.2 * z.2.1) = none
        ∧ denied s .upd true (z.1.addr + z.2.2.2.1 * z.2.1) (z.2.2.2.2 * z.2.1) = none)) = true := each (by decide +kernel)

end Sys2Proof.Tests
end

namespace Sys2Proof.Machine

/-! The buckle's pins (R465). -/

variable {s t : State} {n m : BitVec 32} {ps : List (BitVec 32)}

/-! What a notification and a log entry leave of the buckle and of module time. -/

@[simp] theorem notify_buckle (s : State) (a : Fin 2) (kind : Nat) (n : BitVec 32) (p : Bytes) :
    (notify s a kind n p).h.buckle = s.h.buckle := by
  unfold notify
  split
  · rfl
  · exact setSession_buckle s a _

@[simp] theorem notify_time (s : State) (a : Fin 2) (kind : Nat) (n : BitVec 32) (p : Bytes) :
    (notify s a kind n p).time = s.time := by
  unfold notify; split <;> rfl

@[simp] theorem notifyEntry_buckle (s : State) (a : Fin 2) (n : BitVec 32) (e : LogEntry) :
    (notifyEntry s a n e).h.buckle = s.h.buckle := by
  unfold notifyEntry; split <;> simp

@[simp] theorem logEvent_buckle (s : State) (code : Nat) (src : Src) (d : Option (Word × BitVec 24)) (p0 p1 p2 : Word) :
    (logEvent s code src d p0 p1 p2).h.buckle = s.h.buckle := by
  simp [logEvent]

@[simp] theorem logModule_buckle (s : State) (code : Nat) (src : Src) (p0 p1 p2 : Word) :
    (logModule s code src p0 p1 p2).h.buckle = s.h.buckle := logEvent_buckle s code src none p0 p1 p2

/-! Freeing the buckle. -/

@[simp] theorem freeBuckle_holder (s : State) : (freeBuckle s).h.buckle.holder = none := rfl

@[simp] theorem expireBuckle_holder (s : State) : (expireBuckle s).h.buckle.holder = none := by
  unfold expireBuckle
  split
  · assumption
  · simp

/-- What expiry makes of the buckle rests on the buckle and on module time alone. -/
theorem expireBuckle_congr (hb : t.h.buckle = s.h.buckle) (ht : t.time = s.time) :
    (expireBuckle t).h.buckle = (expireBuckle s).h.buckle := by
  unfold expireBuckle
  rw [hb]
  split
  · exact hb
  · simp [freeBuckle, hb, ht]

/-! Taking a pin off. -/

/-- The state with other pins on its buckle. -/
def withPins (s : State) (ps : List (BitVec 32)) : State :=
  { s with h := { s.h with buckle := { s.h.buckle with pins := ps } } }

theorem unpin_of_last (h : s.h.buckle.pins = [n]) :
    unpin s n = if s.h.buckle.release then freeBuckle (withPins s [])
      else if s.h.buckle.expiry.toNat ≤ s.time.toNat then expireBuckle (withPins s []) else withPins s [] := by
  simp [unpin, h, withPins]

theorem unpin_of_more (h : s.h.buckle.pins = n :: m :: ps) : unpin s n = withPins s (m :: ps) := by
  simp [unpin, h, withPins]

theorem unpin_last_frees (h : s.h.buckle.pins = [n])
    (hf : s.h.buckle.release = true ∨ s.h.buckle.expiry.toNat ≤ s.time.toNat) : (unpin s n).h.buckle.holder = none := by
  rw [unpin_of_last h]
  rcases hf with hr | he
  · simp [hr]
  · rw [if_pos he]
    split <;> simp

theorem unpin_last_holds (h : s.h.buckle.pins = [n]) (hr : s.h.buckle.release = false)
    (he : s.time.toNat < s.h.buckle.expiry.toNat) : (unpin s n).h.buckle = { s.h.buckle with pins := [] } := by
  rw [unpin_of_last h]
  simp [hr, Nat.not_le.mpr he, withPins]

/-- What taking a pin off makes of the buckle rests on the buckle and on module time alone. -/
theorem unpin_congr (hb : t.h.buckle = s.h.buckle) (ht : t.time = s.time) (n : BitVec 32) :
    (unpin t n).h.buckle = (unpin s n).h.buckle := by
  unfold unpin
  simp only [hb, ht]
  split
  · split
    · split
      · simp [freeBuckle]
      · split
        · exact expireBuckle_congr rfl rfl
        · rfl
    · rfl
  · exact hb

/-- A DONE takes its ticket's pin off, and does no more to the buckle. -/
theorem finishTicketWith_buckle (status : Nat) (detail : Word) (more : List Word) (h : (s.ticket n).isSome = true) :
    (finishTicketWith s n status detail more).h.buckle = (unpin s n).h.buckle := by
  obtain ⟨k, hk⟩ := Option.isSome_iff_exists.mp h
  unfold finishTicketWith
  rw [hk]
  apply unpin_congr <;> dsimp only <;> split
  · split <;> simp
  · rfl
  · split <;> simp
  · rfl

theorem acceptTicket_pins (q : Req) {code : Nat} (status : Nat) (after : BitVec 32 → State → State) {o : OpInfo}
    (ho : opInfo code = some o) (hb : o.buckle = true) :
    let r := acceptTicket s q code status after
    r.ticket = s.h.nextTicket ∧ r.st.h.buckle = { s.h.buckle with pins := r.ticket :: s.h.buckle.pins } := by
  simp [acceptTicket, openTicket, ho, hb]

/-! Expiry and the holder's commands while the buckle is pinned. -/

theorem leaseOver_of_pinned (h : s.h.buckle.pins ≠ []) : leaseOver s = false := by
  simp [leaseOver, h]

theorem execBklExpired_of_pinned (h : s.h.buckle.pins ≠ []) : execBklExpired s = disabled "BKL_EXPIRED" := by
  simp [execBklExpired, h]

theorem touchSession_buckle (s : State) (a : Fin 2) (x : Session) : (touchSession s a x).h.buckle = s.h.buckle :=
  setSession_buckle s a _

/-- BKL_RELEASE's own checks and effect. -/
def releaseBuckle (s : State) (q : Req) : Res :=
  if s.h.buckle.holder = some (q.port, q.session) then
    if s.h.buckle.pins.isEmpty then buckleRes (freeBuckle s) stOk 0
    else buckleRes { s with h := { s.h with buckle := { s.h.buckle with release := true } } } stOk 8
  else buckleRes s (notHolder s q) 0

theorem exec_bklRelease (q : Req) (s : State) :
    exec (.bklRelease q) s = omcp "BKL_RELEASE" (.bklRelease q) s q 0x12 true [] fun s => releaseBuckle s q := rfl

theorem releaseBuckle_of_pinned {q : Req} (hh : s.h.buckle.holder = some (q.port, q.session)) (hp : s.h.buckle.pins ≠ []) :
    releaseBuckle s q = buckleRes { s with h := { s.h with buckle := { s.h.buckle with release := true } } } stOk 8 := by
  simp [releaseBuckle, hh, hp]

theorem bklRelease_of_pinned {q : Req} (ha : accepts s q 0x12 = true) (hh : s.h.buckle.holder = some (q.port, q.session))
    (hp : s.h.buckle.pins ≠ []) :
    ∃ t, exec (.bklRelease q) s = .next t ∧ t.h.buckle = { s.h.buckle with release := true }
      ∧ Replied s t q fun p => p.status = 0 ∧ p.flags = 8 := by
  obtain ⟨x, -, -, -, hrun⟩ := omcp_answers "BKL_RELEASE" (.bklRelease q) [] (fun s => releaseBuckle s q) ha
  have hb := touchSession_buckle s q.port x
  obtain ⟨u, hu, -, -, -, ⟨-, hub, -⟩, -, hsent⟩ :=
    hrun _ (releaseBuckle_of_pinned (by rw [hb, hh]) (by rwa [hb])) rfl
  refine ⟨u, (exec_bklRelease q s).trans hu, hub.trans ?_, _, [], [], hsent, rfl, rfl, rfl, rfl⟩
  simp [buckleRes, hb]

theorem leaseMs_touchSession (s : State) (a : Fin 2) (x : Session) (lease : BitVec 32) :
    leaseMs (touchSession s a x) lease = leaseMs s lease := rfl

theorem bklRenew_of_holder {q : Req} {lease : BitVec 32} {ms : Nat} (ha : accepts s q 0x11 = true)
    (hh : s.h.buckle.holder = some (q.port, q.session)) (hl : leaseMs s lease = some ms) :
    ∃ t, exec (.bklRenew q lease) s = .next t
      ∧ t.h.buckle = { s.h.buckle with expiry := s.time + BitVec.ofNat 64 (ms * 1000000) } := by
  obtain ⟨x, -, -, -, hrun⟩ := omcp_answers "BKL_RENEW" (.bklRenew q lease) [] (fun s => renewBuckle s q lease) ha
  have hb := touchSession_buckle s q.port x
  have hr : renewBuckle (touchSession s q.port x) q lease = buckleRes (holdBuckle (touchSession s q.port x) q ms) stOk 0 := by
    simp [renewBuckle, leaseMs_touchSession, hl, hb, hh]
  obtain ⟨u, hu, -, -, -, ⟨-, hub, -⟩, -, -⟩ := hrun _ hr rfl
  refine ⟨u, hu, hub.trans ?_⟩
  simp [buckleRes, holdBuckle, hh, State.after, msNs, touchSession]

/-! A session that closes. -/

@[simp] theorem closeSession_session (s : State) (a : Fin 2) : (closeSession s a).session a = none :=
  session_setSession s a none

@[simp] theorem closeSession_buckle (s : State) (a : Fin 2) : (closeSession s a).h.buckle = s.h.buckle :=
  setSession_buckle s a none

theorem bye_keeps_buckle {q : Req} (ha : accepts s q 0x02 = true) :
    ∃ t, exec (.bye q) s = .next t ∧ t.session q.port = none ∧ t.h.buckle = s.h.buckle := by
  obtain ⟨x, -, -, -, hrun⟩ := omcp_answers "BYE" (.bye q) []
    (fun s => { st := closeSession s q.port, status := stOk }) ha
  obtain ⟨u, hu, -, -, -, ⟨-, hub, -⟩, hsess, -⟩ := hrun _ rfl rfl
  refine ⟨u, hu, by simpa using hsess, ?_⟩
  calc u.h.buckle = (closeSession (touchSession s q.port x) q.port).h.buckle := hub
    _ = s.h.buckle := by rw [closeSession_buckle, touchSession_buckle]

theorem sessionIdleExpiry_keeps_buckle {a : Fin 2} {x : Session} (hx : s.session a = some x) :
    ∃ t, exec (.sessionIdleExpiry a) s = .next t ∧ t.session a = none ∧ t.h.buckle = s.h.buckle := by
  have he : exec (.sessionIdleExpiry a) s =
      .next (closeSession (s.atTime (x.last + BitVec.ofNat 64 (s.fld .omcCtrl 0 0 0 16 * 1000000000))) a) := by
    change execSessionIdleExpiry a s = _
    simp only [execSessionIdleExpiry, hx]
  exact ⟨_, he, closeSession_session _ a, by rw [closeSession_buckle, State.atTime_h]⟩

/-- Settles O9: each clause is a fact about `unpin`, the tickets that pin, or a command that finds the buckle pinned. -/
theorem pinsHoldTheBuckle : Obligations.PinsHoldTheBuckle := by
  unfold Obligations.PinsHoldTheBuckle
  refine ⟨?expired, ?release, ?last, ?more, ?accept, ?done, ?renew, ?bye, ?idle⟩
  case expired => exact fun s hp => execBklExpired_of_pinned hp
  case release => exact fun q s ha hh hp => bklRelease_of_pinned ha hh hp
  case last => exact fun s n hp _ => ⟨unpin_last_frees hp, unpin_last_holds hp⟩
  case more => exact fun s n m ps hp => by rw [unpin_of_more hp]; rfl
  case accept => exact fun s q code status after o ho hb => acceptTicket_pins q status after ho hb
  case done => exact fun s n status detail more hk => finishTicketWith_buckle status detail more hk
  case renew =>
    exact fun q lease ms s hh hp => ⟨leaseOver_of_pinned hp, fun ha hl => bklRenew_of_holder ha hh hl⟩
  case bye => exact fun q s ha _ => bye_keeps_buckle ha
  case idle => exact fun a x s hx _ => sessionIdleExpiry_keeps_buckle hx

end Sys2Proof.Machine

namespace Sys2Proof.Machine

/-! Reading and writing registers through the host (R544, R546). -/

variable {s : State} {q : Req} {a : Nat}

/-! One register. -/

/-- What a register reads as (R549). -/
def regValue (s : State) (a : Nat) (r : RegKind × Nat × Nat) : Word :=
  if saddleAway s a then 0 else (viewState s r.1 r.2.1 r.2.2).getD (s.reg r.1 r.2.1 r.2.2)

theorem readReg_of_register {r : RegKind × Nat × Nat} (ha : a % 8 = 0) (hr : regFind a = some r) :
    readReg s a = some (regValue s a r) := by
  unfold readReg regValue
  rw [if_pos ha, hr]
  dsimp only
  split <;> rfl

/-- Both ways of naming no register (R543, R544). -/
theorem ite_regFind_eq_none (h : a % 8 ≠ 0 ∨ regFind a = none) : (if a % 8 = 0 then regFind a else none) = none := by
  rcases h with h8 | hf
  · exact if_neg h8
  · rw [hf, ite_self]

theorem readReg_of_no_register (h : a % 8 ≠ 0 ∨ regFind a = none) : readReg s a = none := by
  rw [readReg, ite_regFind_eq_none h]

theorem writeReg_of_no_register (v : Word) (h : a % 8 ≠ 0 ∨ regFind a = none) : writeReg s a v = (stRegInvalid, s) := by
  rw [writeReg, ite_regFind_eq_none h]

/-! Consecutive registers. -/

theorem readRegs_eq_some {ws : List Word} (h : ∀ n, n < ws.length → readReg s (a + 8 * n) = ws[n]?) :
    readRegs s ws.length a = some ws := by
  induction ws generalizing a with
  | nil => rfl
  | cons w ws ih =>
    have hw : readReg s a = some w := h 0 (Nat.succ_pos _)
    have hws : readRegs s ws.length (a + 8) = some ws := ih fun n hn => by
      rw [show a + 8 + 8 * n = a + 8 * (n + 1) by omega]
      exact h (n + 1) (Nat.succ_lt_succ hn)
    simp [readRegs, hw, hws]

theorem readRegs_eq_none {n m : Nat} (hm : m < n) (h : readReg s (a + 8 * m) = none) : readRegs s n a = none := by
  induction n generalizing a m with
  | zero => exact absurd hm (Nat.not_lt_zero m)
  | succ n ih =>
    cases m with
    | zero =>
      have ha : readReg s a = none := h
      simp [readRegs, ha]
    | succ m =>
      have hrest : readRegs s n (a + 8) = none := ih (Nat.lt_of_succ_lt_succ hm) (by
        rw [show a + 8 + 8 * m = a + 8 * (m + 1) by omega]
        exact h)
      simp [readRegs, hrest]

/-- The values of consecutive registers, in their order. -/
def regValues (s : State) (a : Nat) (rs : List (RegKind × Nat × Nat)) : List Word :=
  rs.zipIdx.map fun r => regValue s (a + 8 * r.2) r.1

theorem readRegs_of_registers {rs : List (RegKind × Nat × Nat)}
    (h : ∀ n, n < rs.length → (a + 8 * n) % 8 = 0 ∧ regFind (a + 8 * n) = rs[n]?) :
    readRegs s rs.length a = some (regValues s a rs) := by
  have hl : (regValues s a rs).length = rs.length := by simp [regValues]
  rw [← hl]
  refine readRegs_eq_some fun n hn => ?_
  rw [hl] at hn
  obtain ⟨h8, hf⟩ := h n hn
  rw [List.getElem?_eq_getElem hn] at hf
  simpa [regValues, hn] using readReg_of_register h8 hf

/-- A read that meets an address which is no register (R544). -/
theorem readRegs_of_no_register {n : Nat} (hn : 1 ≤ n) (h : a % 8 ≠ 0 ∨ ∃ m, m < n ∧ regFind (a + 8 * m) = none) :
    readRegs s n a = none := by
  rcases h with h8 | ⟨m, hm, hf⟩
  · exact readRegs_eq_none hn (readReg_of_no_register (Or.inl h8))
  · exact readRegs_eq_none hm (readReg_of_no_register (Or.inr hf))

/-! A session that is heard from leaves what every register reads. -/

variable {p : Fin 2} {x : Session}

theorem viewBuckle_touchSession : viewBuckle (touchSession s p x) = viewBuckle s := by
  unfold viewBuckle remainMs
  rw [touchSession_buckle]
  rfl

theorem viewEvents_touchSession : viewEvents (touchSession s p x) = viewEvents s := by
  unfold viewEvents heldEntries touchSession
  rw [setSession_log, setSession_logHead]

/-- The identity, version, highest SEQ and egress stream of the session stay. -/
theorem viewSession_touchSession (hx : s.session p = some x) (b : Fin 2) :
    viewSession (touchSession s p x) b = viewSession s b := by
  unfold viewSession touchSession
  by_cases hb : p = b
  · subst hb
    rw [session_setSession, hx]
  · rw [session_setSession_other s _ hb]

theorem viewState_touchSession (hx : s.session p = some x) (k : RegKind) (i j : Nat) :
    viewState (touchSession s p x) k i j = viewState s k i j := by
  cases k with
  | omcBklStat => exact congrArg some viewBuckle_touchSession
  | omcEventStat => exact congrArg some viewEvents_touchSession
  | omcSession => exact congrArg some (viewSession_touchSession hx (Fin.ofNat 2 i))
  | _ => rfl

theorem regValue_touchSession (hx : s.session p = some x) (a : Nat) (r : RegKind × Nat × Nat) :
    regValue (touchSession s p x) a r = regValue s a r := by
  unfold regValue
  rw [viewState_touchSession hx]
  rfl

theorem regValues_touchSession (hx : s.session p = some x) (a : Nat) (rs : List (RegKind × Nat × Nat)) :
    regValues (touchSession s p x) a rs = regValues s a rs := by
  simp [regValues, regValue_touchSession hx]

/-! The two commands. -/

/-- An accepted request without an effect of its own is answered with its status and payload, and leaves everything but its
session as it was. -/
theorem omcp_only_answers {code status : Nat} {payload : Bytes} (row : String) (c : Instr) (echo : Bytes) (body : State → Res)
    (ha : accepts s q code = true)
    (hbody : ∀ x, s.session q.port = some x →
      body (touchSession s q.port x) = { st := touchSession s q.port x, status := status, payload := payload }) :
    ∃ t, omcp row c s q code true echo body = .next t ∧ t.regs = s.regs ∧ HostKeptBut q.port s t ∧ DatapathKept s t
      ∧ ModuleKept s t ∧ Answered s t q status payload := by
  obtain ⟨x, hx, -, -, hrun⟩ := omcp_answers row c echo body ha
  obtain ⟨u, hu, hregs, hdata, hmod, hhost, -, hsent⟩ := hrun _ (hbody x hx) rfl
  obtain ⟨hhost0, -, -, -, -, -⟩ := touchSession_kept s q.port x
  exact ⟨u, hu, hregs, hhost0.trans hhost, hdata, hmod, _, [], [], hsent, rfl, rfl, rfl, rfl, rfl⟩

/-- REG_READ's own checks and result. -/
def registersRead (a n : Nat) (s : State) : Res :=
  if s.m.st = .fwRecovery ∧ ¬ recoveryReads a n then { st := s, status := stState }
  else match readRegs s n a with
    | some ws => { st := s, status := stOk, payload := wordsBytes ws }
    | none => { st := s, status := stRegInvalid }

theorem registersRead_of_some {n : Nat} {ws : List Word} (hm : s.m.st = .fwRecovery → recoveryReads a n = true)
    (h : readRegs s n a = some ws) : registersRead a n s = { st := s, status := stOk, payload := wordsBytes ws } := by
  rw [registersRead, if_neg (fun hc => hc.2 (hm hc.1)), h]

theorem registersRead_of_none {n : Nat} (hm : s.m.st = .fwRecovery → recoveryReads a n = true)
    (h : readRegs s n a = none) : registersRead a n s = { st := s, status := stRegInvalid } := by
  rw [registersRead, if_neg (fun hc => hc.2 (hm hc.1)), h]

theorem exec_regRead (q : Req) (addr : BitVec 32) (count : BitVec 8) (s : State) (h1 : 1 ≤ count.toNat) (h2 : count.toNat ≤ 128) :
    exec (.regRead q addr count) s =
      omcp "REG_READ" (.regRead q addr count) s q 0x20 true [] (registersRead addr.toNat count.toNat) := by
  change omcp "REG_READ" (.regRead q addr count) s q 0x20 (decide (1 ≤ count.toNat ∧ count.toNat ≤ 128)) [] _ = _
  rw [decide_eq_true ⟨h1, h2⟩]
  rfl

theorem regRead_of_registers {addr : BitVec 32} {count : BitVec 8} {rs : List (RegKind × Nat × Nat)}
    (ha : accepts s q 0x20 = true) (h1 : 1 ≤ count.toNat) (h2 : count.toNat ≤ 128)
    (hm : s.m.st = .fwRecovery → recoveryReads addr.toNat count.toNat = true) (hl : rs.length = count.toNat)
    (h : ∀ n, n < count.toNat → (addr.toNat + 8 * n) % 8 = 0 ∧ regFind (addr.toNat + 8 * n) = rs[n]?) :
    ∃ t, exec (.regRead q addr count) s = .next t ∧ t.regs = s.regs ∧ HostKeptBut q.port s t ∧ DatapathKept s t
      ∧ ModuleKept s t ∧ Answered s t q 0 (wordsBytes (regValues s addr.toNat rs)) := by
  rw [exec_regRead q addr count s h1 h2]
  refine omcp_only_answers "REG_READ" _ [] _ ha fun x hx => ?_
  refine registersRead_of_some hm ?_
  rw [← regValues_touchSession hx, ← hl]
  exact readRegs_of_registers (hl ▸ h)

theorem regRead_of_no_register {addr : BitVec 32} {count : BitVec 8} (ha : accepts s q 0x20 = true) (h1 : 1 ≤ count.toNat)
    (h2 : count.toNat ≤ 128) (hm : s.m.st = .fwRecovery → recoveryReads addr.toNat count.toNat = true)
    (h : addr.toNat % 8 ≠ 0 ∨ ∃ n, n < count.toNat ∧ regFind (addr.toNat + 8 * n) = none) :
    ∃ t, exec (.regRead q addr count) s = .next t ∧ t.regs = s.regs ∧ HostKeptBut q.port s t ∧ DatapathKept s t
      ∧ ModuleKept s t ∧ Answered s t q 0x0303 [] := by
  rw [exec_regRead q addr count s h1 h2]
  exact omcp_only_answers "REG_READ" _ [] _ ha fun _ _ => registersRead_of_none hm (readRegs_of_no_register h1 h)

/-- REG_WRITE's own effect. -/
def registerWritten (a : Nat) (v : Word) (s : State) : Res :=
  { st := (writeReg s a v).2, status := (writeReg s a v).1 }

theorem exec_regWrite (q : Req) (addr : BitVec 32) (v : Word) (s : State) :
    exec (.regWrite q addr v) s = omcp "REG_WRITE" (.regWrite q addr v) s q 0x21 true [] (registerWritten addr.toNat v) := rfl

theorem regWrite_of_no_register {addr : BitVec 32} (v : Word) (ha : accepts s q 0x21 = true)
    (h : addr.toNat % 8 ≠ 0 ∨ regFind addr.toNat = none) :
    ∃ t, exec (.regWrite q addr v) s = .next t ∧ t.regs = s.regs ∧ HostKeptBut q.port s t ∧ DatapathKept s t
      ∧ ModuleKept s t ∧ Answered s t q 0x0303 [] := by
  rw [exec_regWrite]
  refine omcp_only_answers "REG_WRITE" _ [] _ ha fun _ _ => ?_
  rw [registerWritten, writeReg_of_no_register v h]
  rfl

/-- Settles O10: the registers named are read in the state of the request, whose session alone is heard from; where one
address is no register, the read or write answers REG_INVALID and does nothing. -/
theorem regReadReturnsTheRegisters : Obligations.RegReadReturnsTheRegisters := by
  unfold Obligations.RegReadReturnsTheRegisters
  refine ⟨fun q a count s ha h1 h2 hm => ⟨?values, ?invalid⟩, ?write⟩
  case values => exact fun rs hl h => regRead_of_registers ha h1 h2 hm hl h
  case invalid =>
    intro h
    obtain ⟨t, ht, hregs, hhost, hdata, -, hans⟩ := regRead_of_no_register ha h1 h2 hm h
    exact ⟨t, ht, hregs, hhost, hdata, hans⟩
  case write =>
    intro q a v s ha h
    obtain ⟨t, ht, hregs, hhost, hdata, -, hans⟩ := regWrite_of_no_register v ha h
    exact ⟨t, ht, hregs, hhost, hdata, hans⟩

end Sys2Proof.Machine
